-- ==== Sys2Proof/Word.lean ====
section
/-! DEFINITION. The word types of the Limto 520 and the shape of a sparse table. -/

namespace Sys2Proof

/-- A byte of memory. -/
abbrev Byte := BitVec 8

/-- A scalar register, a control-space register (R20). -/
abbrev Word := BitVec 64

/-- A 32-bit value: FP32 bits, INT32, an index. -/
abbrev Word32 := BitVec 32

/-- A vector register or a tile row, 512 bits (R51). -/
abbrev V512 := BitVec 512

/-- A byte string, lowest address first (R16). -/
abbrev Bytes := List (BitVec 8)

/-- A table keyed by number, written as the list of its entries that differ from the default,
in strictly rising order of their keys. -/
abbrev Tbl (α : Type) := List (Nat × α)

end Sys2Proof
end

