-- ==== Sys2Proof/Events.lean ====
section
/-! DEFINITION. What the outside gives a command and what the module sends out: plain data, one type each. -/

namespace Sys2Proof

/-- What host memory answers to the reads of a command (R352, R378): the bytes that come in, in order, before a completion that is
poisoned, or refused as an Unsupported Request. -/
structure HostReply where
  bytes : Bytes
  refused : Bool
  deriving DecidableEq, Repr, Inhabited

def HostReply.data (b : Bytes) : HostReply := ⟨b, false⟩
def HostReply.poison : HostReply := ⟨[], false⟩
def HostReply.ur : HostReply := ⟨[], true⟩
/-- A read of `n` bytes succeeds. -/
def HostReply.has (h : HostReply) (n : Nat) : Bool := decide (n ≤ h.bytes.length)
/-- What is left behind the first `n` bytes. -/
def HostReply.skip (h : HostReply) (n : Nat) : HostReply := { h with bytes := h.bytes.drop n }
/-- Codes of R351 and causes of R124 of a read that fails: ADDR_RANGE where it is refused, else POISON. -/
def HostReply.code (h : HostReply) : Nat := if h.refused then 4 else 8
def HostReply.cause (h : HostReply) : Nat := if h.refused then 0x04 else 0x0C

/-- A hardware fault met by one activation row (R93 to R95): none, the parity of a row wire, a cell that adds `m·2^e` to column
sum `n`, or a fault inside the check logic. -/
inductive RowFault where
  | none
  | wire (k : Nat)
  | cell (n : Nat) (m : Int) (e : Int)
  | check
  deriving DecidableEq, Repr, Inhabited

/-- A change of one stored symbol: word of the line, symbol 0 to 35, and the bits that flip. -/
structure Upset where
  word : Nat
  symbol : Nat
  flip : Byte
  deriving DecidableEq, Repr, Inhabited

/-- An error met in a cache array (R260, R261). -/
inductive CacheErr where
  | none
  | corrected
  | data (set way : Nat)
  | tag (set way : Nat)
  deriving DecidableEq, Repr, Inhabited

/-- A flash slot: its manifest with the fields of R437, its commit marker, the blocks of core firmware that it lists, and how two checks of
R436 come out: the signature of the manifest, and the digest of the Xebel firmware image. -/
structure SlotInfo where
  present : Bool
  signature : Bool
  image : Bool
  manifestDigest : Bytes
  markerSeq : Nat
  markerValid : Bool
  markerDigest : Bytes
  xebelLen : Nat
  xebelDigest : Bytes
  blocks : List Bytes
  blockDigests : List Bytes
  finalDigest : Bytes
  svn : Nat
  svnFloor : Nat
  expDies : Nat
  expClusters : Nat
  minLcores : Nat
  expPorts : Nat
  expGuest : Nat
  ideRequired : Bool
  peerSvnMin : Nat
  deriving DecidableEq, Repr, Inhabited

/-- What training measures at one via (R179, R180): 0 to 575 data and check, 576 to 619 command in the order of R173; pattern bits in
error at any layer, and the narrowest eye in thousandths of a unit interval where it is measured. -/
structure ViaFind where
  via : Nat
  errors : Nat
  eye : Option Nat
  deriving DecidableEq, Repr, Inhabited

/-- A row (number 0 to 1,023) or column group (0 to 31) of a bank that the fuse map or the memory self-test calls bad (R220). -/
structure UnitFind where
  bank : Nat
  col : Bool
  num : Nat
  fuse : Bool
  test : Bool
  deriving DecidableEq, Repr, Inhabited

/-- The self-tests of R441 that make a physical core bad: its logic, scratch and instruction cache; its matrix arrays; its near-bank units;
its cluster's cache. -/
inductive SelfTest where
  | logic | matrix | nearBank | cache
  deriving DecidableEq, Repr, Inhabited

/-- What bring-up finds of one physical core (R180, R220, R441, R442, R447): the core itself bad by the fuse map, the self-tests that fail, what
training measures (a via not named has no error and a wide eye), the bad rows and column groups, firmware blocks that it lacks or
that failed, a wrong final digest. -/
structure PhysFind where
  key : Nat
  fuseBad : Bool
  tests : List SelfTest
  vias : List ViaFind
  units : List UnitFind
  lacks : List Nat
  digestBad : Bool
  deriving DecidableEq, Repr, Inhabited

/-- What a port's training finds (R385 to R387): pattern errors of each lane in 2^24 bits, none for a lane without signal; the good
lanes of the peer; its identity, whether its chain and its signature verify, its security version, its nonce and the secret that it has
encapsulated (R429). -/
structure PortFind where
  lanes : List (Option Nat)
  peerLanes : Nat
  peerId : Nat
  bridge : Bool
  attested : Bool
  peerSvn : Nat
  nonce : Bytes
  kem : Bytes
  deriving DecidableEq, Repr, Inhabited

/-- What a bring-up meets (R434 to R450). Physical cores not named are good at full width; a list that is shorter means that
nothing is amiss. `dieLocks` counts the locks of each die's root PLL (0: left out), `dieCounts` is how far its counter has run;
`storeFails` counts, for each copy of the firmware store, the writes that do not read back (R445), and `cacheBad` names the clusters whose
cache fails its march; `pairModules` masks the modules of each pair that train; `trip` is a thermal shutdown: step, DRAM, site, temperature. -/
structure BootIn where
  strapBifur : Bool
  strapAddr : Nat
  refclk : Bool
  dieLocks : List Nat
  dieCounts : List Nat
  pairModules : List Nat
  guestAnswers : Bool
  guestPartner : Nat
  guestModules : Nat
  guestLanes : Nat
  guestRate : Nat
  guestPower : Nat
  guestVendor : Nat
  guestDevice : Nat
  guestCsr : Nat
  guestOwner : Option Nat
  phys : List PhysFind
  ports : List PortFind
  storeFails : List Nat
  cacheBad : List Nat
  trip : Option (Nat × Bool × Nat × Nat)
  elapsedMs : Nat
  deriving DecidableEq, Repr, Inhabited

/-- A mailbox command that writes the flash, and whether the flash fails to program or erase (R439). -/
structure FlashOp where
  word : Word
  fails : Bool
  deriving DecidableEq, Repr, Inhabited

/-- A write or read of the host in a memory BAR: on an IDE stream in Secure state (R378), and its width in bytes. -/
structure HostAcc where
  secure : Bool
  width : Nat
  deriving DecidableEq, Repr, Inhabited

/-- What IDE_KM does to a stream (R378, R430): program the key of a sub-stream (0 to 2) and direction, start it, stop it. -/
inductive IdeOp where
  | prog (sub : Nat) (receive : Bool) (key : Bytes)
  | go
  | stop
  deriving DecidableEq, Repr, Inhabited

/-- What the guest die asks for (R404). -/
inductive GuestOp where
  | read | write | atomic
  deriving DecidableEq, Repr, Inhabited

/-- One Ngamel frame (R388): its fields in clear, and its body as sealed, with the tag (R390). -/
structure Frame where
  vc : Nat
  phase : Bool
  dst : Nat
  src : Nat
  creditVc : Nat
  creditUnits : Nat
  ctr : Nat
  ack : Nat
  off : Nat
  epoch : Nat
  tag : Nat
  status : Nat
  len : Nat
  data : Bytes
  sealed : Bytes
  deriving DecidableEq, Repr, Inhabited

/-- Readings of one die in one housekeeping round (R455), in 0.25 °C: none where a sensor does not answer or reads below 0 °C.
`dram` holds 72 readings for each hoist, `logic` 18 for each cluster. `scratch` are upsets of 64-bit words of scratch since the
last round: logical core of the die, word, and whether one bit only has changed (R54). -/
structure DieRound where
  dram : List (Option Nat)
  logic : List (Option Nat)
  scratch : List (Nat × Nat × Bool)
  deriving DecidableEq, Repr, Inhabited

/-- HUB's own readings and the outputs of the calibrated model in one round (R455 to R465). Spots are numbered as in
`spotKeys`: `estimate` and `model` give the estimate and the 10 ms forecast of each. By cluster: `fit` is the lowest dip level
at which the model forecasts none of its spots above T_limit, `lowOk` says that at one level lower it forecasts all of them at
or below T_limit − 3 °C, `drawAt` is its part of the forecast draw at each level; `drawRest` is the rest of that draw.
`diodes` are the readings that HUB takes itself in half-mast. -/
structure HubRound where
  inlet : Option Nat
  outlet : Option Nat
  volt : Nat
  current : Nat
  draw : Nat
  flowEst : Nat
  hub : List (Option Nat)
  guest : Option Nat
  estimate : List Nat
  model : List Nat
  fit : List Nat
  lowOk : List Bool
  drawAt : List (List Nat)
  drawRest : Nat
  diodes : List DieRound
  deriving DecidableEq, Repr, Inhabited

/-- What the stages compute in one verification step: drafts, the rows of draft logits and of target logits (R329); by KV unit and head
the query columns, each of FP32 patterns by dimension (R299), and by KV unit the keys and then the values of each tentative token
(R286). -/
structure SpecStep where
  drafts : List Nat
  draftLogits : List (List Nat)
  logits : List (List Nat)
  queries : List (List (List (List Nat)))
  kv : List (List Bytes)
  deriving DecidableEq, Repr, Inhabited

/-- What the stages compute for a request outside its decode loop: the output of an EMBED or a TILE (R318), or of one chunk of a
prefill its tokens and, by KV unit, the keys and then the values of each (R286, R327). -/
structure ModelOut where
  bytes : Bytes
  chunk : Nat
  kv : List (List Bytes)
  deriving DecidableEq, Repr, Inhabited

/-- The part of a job's pennants that one core keeps for one layer, as placement fixes it (R284 to R286, R292, R297, R298): heads,
dimension, the type of keys and values, pennants of a sliding-window ring (0: none), whether it has retrieval and with which
THRESHOLD, SEL and RECENT; the descriptors and the bodies that it may use, and the areas for the index entries of one sequence
each. -/
structure KvUnit where
  core : Nat
  heads : Nat
  dim : Nat
  e5m2 : Bool
  ring : Nat
  retr : Bool
  threshold : Nat
  sel : Nat
  recent : Nat
  descs : List Nat
  bodies : List Nat
  areas : List Nat
  deriving DecidableEq, Repr, Inhabited

/-- R285: body size in 4 KiB units. -/
def KvUnit.size (u : KvUnit) : Nat := (516 * u.heads * u.dim + 4095) / 4096
/-- Bytes of an index entry: FP16 of every dimension of every head (R297), 64-byte aligned (R287). -/
def KvUnit.entry (u : KvUnit) : Nat := (2 * u.heads * u.dim + 63) / 64 * 64
/-- Bytes of an index area: the entries of 4,096 pennants, the most that a sequence has. -/
def KvUnit.areaLen (u : KvUnit) : Nat := 4096 * u.entry

/-- An access of the management core to the bank under test (R215): byte offset in the bank, data of a write, and the check bits
that it puts into HAL_TEST_CHECK for it. -/
structure TestAcc where
  write : Bool
  off : Nat
  len : Nat
  data : Bytes
  check : Nat
  deriving DecidableEq, Repr, Inhabited

/-- The bank put under test, and what the management core then does with it (R215). -/
structure TestRun where
  bank : Nat
  acc : List TestAcc
  deriving DecidableEq, Repr, Inhabited

/-- What a meter board that is fitted holds (R498, R503). -/
structure Board where
  id : Nat
  energy : Nat
  seconds : Nat
  seq : Nat
  powerFails : Nat
  tampers : Nat
  tamper : Bool
  deriving DecidableEq, Repr, Inhabited

/-- A change of the meter board's supply (R499): it is lost or returns, or with the module struck the board is taken off its connector or
one is fitted (R503, R504). -/
inductive MeterSupply where
  | lost
  | returned
  | removed
  | fitted (b : Board)
  deriving DecidableEq, Repr, Inhabited

/-- The meter board's answer to READ_STATE (R496). -/
structure MeterState where
  answers : Bool
  volt : Nat
  current : Nat
  power : Nat
  deriving DecidableEq, Repr, Inhabited

/-- How an MCTP message comes in (R379): PCIe VDM on function 0, or SMBus with the address used and whether its PEC is right. -/
inductive MctpBinding where
  | vdm
  | smbus (addr : Nat) (pec : Bool)
  deriving DecidableEq, Repr, Inhabited

/-- What PLDM type 2 reads (R379, R432): temperatures, draws and metered energy, the alert cause, and the counts of a context. -/
inductive PldmSensor where
  | dram (k : Nat) | logic (k : Nat) | hub (k : Nat) | inlet | outlet | guest
  | volt | current | draw | energy | meterPower | alertCause
  | rows (n : Nat) | lines (n : Nat) | steps (n : Nat) | units (n : Nat) | dmaBytes (n : Nat)
  deriving DecidableEq, Repr, Inhabited

/-- What the module sends out. -/
inductive Tx where
  | hostCpl (data : Bytes)
  | hostPoison (len : Nat)
  | hostUr
  | hostUrPosted
  | cfgCpl (value : Nat)
  | hostWrite (addr : Nat) (data : Bytes)
  | hostRead (tag addr len : Nat)
  | msix (vector : Nat)
  | frame (port typ : Nat) (f : Frame)
  | spdm (sess code : Nat) (data : Bytes)
  | spdmError (code : Nat)
  | guestAccess (off : Nat) (write : Bool) (data : Bytes)
  | guestCpl (status : Nat) (data : Bytes)
  | meterRequest (kind arg : Nat)
  | meterAnswer (data : Bytes)
  | meterBusy
  | trace (frame : Bytes)
  | portAttest (port : Nat) (chain block sign : Bytes)
  | wake
  deriving DecidableEq, Repr, Inhabited

end Sys2Proof
end

