-- ==== Sys2Proof/Syntax.lean ====
section
/-! DEFINITION. The commands of the module: one constructor for each row of spec/opcode_table.json.
A command of a Garno core carries the logical core and bits 55:0 of the instruction word; its opcode is the constructor.
A command of a near-bank unit carries the logical core and the bank of its slice. -/

namespace Sys2Proof

/-- The commands, in the order of the table. -/
inductive Instr where
  /-- ILLEGAL_OPCODE (R117). -/
  | illegalOpcode (c : Nat) (w : Word)
  /-- ALU (R126). -/
  | alu (c : Nat) (f : BitVec 56)
  /-- MUL (R126). -/
  | mul (c : Nat) (f : BitVec 56)
  /-- DIV (R127). -/
  | divide (c : Nat) (f : BitVec 56)
  /-- ADDI (R126). -/
  | addi (c : Nat) (f : BitVec 56)
  /-- ANDI (R126). -/
  | andi (c : Nat) (f : BitVec 56)
  /-- ORI (R126). -/
  | ori (c : Nat) (f : BitVec 56)
  /-- XORI (R126). -/
  | xori (c : Nat) (f : BitVec 56)
  /-- SHI (R126). -/
  | shi (c : Nat) (f : BitVec 56)
  /-- SLTI (R126). -/
  | slti (c : Nat) (f : BitVec 56)
  /-- SLTIU (R126). -/
  | sltiu (c : Nat) (f : BitVec 56)
  /-- LI (R126). -/
  | li (c : Nat) (f : BitVec 56)
  /-- LIU (R126). -/
  | liu (c : Nat) (f : BitVec 56)
  /-- LIH (R126). -/
  | lih (c : Nat) (f : BitVec 56)
  /-- LD (R121). -/
  | ld (c : Nat) (f : BitVec 56)
  /-- ST (R125). -/
  | st (c : Nat) (f : BitVec 56)
  /-- AMO (R128). -/
  | amo (c : Nat) (f : BitVec 56)
  /-- PRED (R129). -/
  | pred (c : Nat) (f : BitVec 56)
  /-- VLD (R132). -/
  | vld (c : Nat) (f : BitVec 56)
  /-- VST (R132). -/
  | vst (c : Nat) (f : BitVec 56)
  /-- VINT (R132). -/
  | vint (c : Nat) (f : BitVec 56)
  /-- VFP (R132). -/
  | vfp (c : Nat) (f : BitVec 56)
  /-- VFMA (R132). -/
  | vfma (c : Nat) (f : BitVec 56)
  /-- VFN (R109). -/
  | vfn (c : Nat) (f : BitVec 56)
  /-- VCMP (R132). -/
  | vcmp (c : Nat) (f : BitVec 56)
  /-- VRED (R134). -/
  | vred (c : Nat) (f : BitVec 56)
  /-- VPERM (R137). -/
  | vperm (c : Nat) (f : BitVec 56)
  /-- VBCAST (R132). -/
  | vbcast (c : Nat) (f : BitVec 56)
  /-- VMOVS (R132). -/
  | vmovs (c : Nat) (f : BitVec 56)
  /-- VCVT (R133). -/
  | vcvt (c : Nat) (f : BitVec 56)
  /-- VQUANT (R135). -/
  | vquant (c : Nat) (f : BitVec 56)
  /-- VPLANE (R136). -/
  | vplane (c : Nat) (f : BitVec 56)
  /-- NOP (R138). -/
  | nop (c : Nat) (f : BitVec 56)
  /-- BR (R139). -/
  | br (c : Nat) (f : BitVec 56)
  /-- JAL (R139). -/
  | jal (c : Nat) (f : BitVec 56)
  /-- JALR (R138). -/
  | jalr (c : Nat) (f : BitVec 56)
  /-- FENCE (R65). -/
  | fence (c : Nat) (f : BitVec 56)
  /-- RDCTR (R140). -/
  | rdctr (c : Nat) (f : BitVec 56)
  /-- END (R141). -/
  | endRole (c : Nat) (f : BitVec 56)
  /-- SYSR (R142). -/
  | sysr (c : Nat) (f : BitVec 56)
  /-- SYSW (R142). -/
  | sysw (c : Nat) (f : BitVec 56)
  /-- SCLR (R142). -/
  | sclr (c : Nat) (f : BitVec 56)
  /-- CTXSET (R145). -/
  | ctxset (c : Nat) (f : BitVec 56)
  /-- UENTER (R144). -/
  | uenter (c : Nat) (f : BitVec 56)
  /-- MLDW (R90). -/
  | mldw (c : Nat) (f : BitVec 56)
  /-- BLOCK_SHIFT_START (R91). -/
  | blockShiftStart (c : Nat)
  /-- MOP (R85). -/
  | mop (c : Nat) (f : BitVec 56)
  /-- ARRAY_ROW_ENTER (R85). -/
  | arrayRowEnter (c : Nat) (arr : Nat) (flt : RowFault)
  /-- MRD (R150). -/
  | mrd (c : Nat) (f : BitVec 56)
  /-- MCLR (R150). -/
  | mclr (c : Nat) (f : BitVec 56)
  /-- QSET (R153). -/
  | qset (c : Nat) (f : BitVec 56)
  /-- QGET (R153). -/
  | qget (c : Nat) (f : BitVec 56)
  /-- QSTART (R154). -/
  | qstart (c : Nat) (f : BitVec 56)
  /-- QTAKE (R155). -/
  | qtake (c : Nat) (f : BitVec 56)
  /-- QPUT (R157). -/
  | qput (c : Nat) (f : BitVec 56)
  /-- QCANCEL (R158). -/
  | qcancel (c : Nat) (f : BitVec 56)
  /-- STREAM_PREFETCH (R67). -/
  | streamPrefetch (c : Nat) (q : Nat)
  /-- STREAM_LINE_ARRIVE (R69). -/
  | streamLineArrive (c : Nat) (line : Nat) (u : List Upset)
  /-- STREAM_WRITE (R157). -/
  | streamWrite (c : Nat) (q : Nat)
  /-- GBIND (R160). -/
  | gbind (c : Nat) (f : BitVec 56)
  /-- GSENDV (R161). -/
  | gsendv (c : Nat) (f : BitVec 56)
  /-- GSENDS (R161). -/
  | gsends (c : Nat) (f : BitVec 56)
  /-- GRECV (R163). -/
  | grecv (c : Nat) (f : BitVec 56)
  /-- GRECVV (R163). -/
  | grecvv (c : Nat) (f : BitVec 56)
  /-- GFREE (R163). -/
  | gfree (c : Nat) (f : BitVec 56)
  /-- GSTAT (R164). -/
  | gstat (c : Nat) (f : BitVec 56)
  /-- MSG_ARRIVE (R161). -/
  | msgArrive (i : Nat)
  /-- NACK_EPOCH (R162). -/
  | nackEpoch (i : Nat)
  /-- CREDIT_RELEASE (R276). -/
  | creditRelease (i : Nat)
  /-- CREDIT_ARRIVE (R276). -/
  | creditArrive (i : Nat)
  /-- NISSUE (R166). -/
  | nissue (c : Nat) (f : BitVec 56)
  /-- NWAIT (R168). -/
  | nwait (c : Nat) (f : BitVec 56)
  /-- NSTAT (R168). -/
  | nstat (c : Nat) (f : BitVec 56)
  /-- IMPRECISE_EXCEPTION (R74). -/
  | impreciseException (c : Nat)
  /-- MANAGEMENT_REQUEST (R143). -/
  | managementRequest (c : Nat)
  /-- BANK_PROGRAM_ADMIT (R239). -/
  | bankProgramAdmit (c : Nat)
  /-- EARITH (R228). -/
  | earith (c : Nat) (b : Nat)
  /-- EFMA (R228). -/
  | efma (c : Nat) (b : Nat)
  /-- EFUNC (R230). -/
  | efunc (c : Nat) (b : Nat)
  /-- EROPE (R231). -/
  | erope (c : Nat) (b : Nat)
  /-- ECVT (R228). -/
  | ecvt (c : Nat) (b : Nat)
  /-- RED (R232). -/
  | nbRed (c : Nat) (b : Nat)
  /-- FOLD (R232). -/
  | nbFold (c : Nat) (b : Nat)
  /-- FOP (R228). -/
  | fop (c : Nat) (b : Nat)
  /-- XOP (R228). -/
  | xop (c : Nat) (b : Nat)
  /-- LOOP (R233). -/
  | nbLoop (c : Nat) (b : Nat)
  /-- ROWCPY (R234). -/
  | rowcpy (c : Nat) (b : Nat)
  /-- SKEY (R235). -/
  | skey (c : Nat) (b : Nat)
  /-- NB_END (R246). -/
  | nbEnd (c : Nat) (b : Nat)
  /-- NB_BOUNDARY_SERVICE (R241). -/
  | nbBoundaryService (c : Nat) (b : Nat)
  /-- NB_PAUSE (R243). -/
  | nbPause (c : Nat) (b : Nat)
  /-- NB_RESUME (R243). -/
  | nbResume (c : Nat) (b : Nat)
  /-- HALYARD_GRANT (R189). -/
  | halyardGrant (c : Nat) (u : List Upset) (mismatches : Nat)
  /-- CORRECTED_WRITEBACK (R205). -/
  | correctedWriteback (c : Nat)
  /-- MERGE_AGE_FLUSH (R212). -/
  | mergeAgeFlush (c : Nat)
  /-- SEALED_WRITE_CONFIRM (R254). -/
  | sealedWriteConfirm (c : Nat)
  /-- REFRESH_DUE (R194). -/
  | refreshDue (c : Nat) (b : Nat)
  /-- REFRESH_OWED_ISSUE (R194). -/
  | refreshOwedIssue (c : Nat) (b : Nat)
  /-- RECAL_WINDOW (R196), at the halyard of physical core `c` = h × 72 + p. -/
  | recalWindow (c : Nat)
  /-- SCRUB_LINE (R216). -/
  | scrubLine (c : Nat) (u : List Upset)
  /-- SCRUB_WRITEBACK (R217). -/
  | scrubWriteback (c : Nat)
  /-- REGION_MAP_WRITE (R200). -/
  | regionMapWrite (c : Nat) (lo hi : Word)
  /-- TEST_MODE_ENABLE (R215). -/
  | testModeEnable (c : Nat) (mode : Nat) (b : TestRun)
  /-- CC_ACCESS (R249). -/
  | ccAccess (h : Nat) (e : CacheErr)
  /-- CC_FILL (R252). -/
  | ccFill (h : Nat) (u : List Upset)
  /-- CC_INVALIDATE (R251). -/
  | ccInvalidate (i : Nat)
  /-- CC_CONTEXT_INVALIDATE (R256). -/
  | ccContextInvalidate (h : Nat) (ctx : Nat)
  /-- PLACE (R269). -/
  | jobPlace (r : HostReply)
  /-- RETIRE (R270). -/
  | jobRetire (j : Nat)
  /-- FAULT_REPORT (R480). -/
  | faultReport (i : Nat)
  /-- JOB_RESTART (R482). -/
  | jobRestart (j : Nat)
  /-- FAULT_RECORD_FREE (R481). -/
  | faultRecordFree (col : Nat) (n : Nat)
  /-- SEGMENT_FAULT_NOTICE (R283). -/
  | segmentFaultNotice (inst : Nat)
  /-- WINDOW_EPOCH_NOTICE (R397). -/
  | windowEpochNotice (peer : Nat) (win : Nat) (epoch : Nat)
  /-- CREATE (R406). -/
  | ctxCreate (w : Word)
  /-- DESTROY (R406). -/
  | ctxDestroy (w : Word)
  /-- GRANT (R408). -/
  | bankGrant (w : Word)
  /-- REVOKE (R409). -/
  | bankRevoke (w : Word)
  /-- LOWER_HOST (R408). -/
  | lowerHost (w : Word)
  /-- KV_ROTATE (R419). -/
  | kvRotate (w : Word)
  /-- HOLD (R414). -/
  | jobHold (w : Word)
  /-- RELEASE (R415). -/
  | jobRelease (w : Word)
  /-- PAGE (R433). -/
  | ctxPage (w : Word)
  /-- COUNTER_PAGE_UPDATE (R431). -/
  | counterPageUpdate (powers : List Nat)
  /-- BIND (R426). -/
  | sessionBind (sess : Nat) (ctx : Nat) (creation : Nat) (secret : Bytes)
  /-- REPORT (R427). -/
  | sessionReport (sess : Nat)
  /-- PAYLOAD_SET (R420). -/
  | payloadSet (sess : Nat) (key : Bytes)
  /-- PAYLOAD_RETIRE (R425). -/
  | payloadRetire (sess : Nat)
  /-- SESSION_KV_ROTATE (R419). -/
  | sessionKvRotate (sess : Nat)
  /-- MEASURE (R428). -/
  | measure (sess : Nat) (da : Nat) (len : Nat)
  /-- PAYLOAD_ROTATION (R420). -/
  | payloadRotation (ctx : Nat)
  /-- GET_CERTIFICATE (R422). -/
  | getCertificate (off : Nat) (len : Nat)
  /-- CHALLENGE (R423). -/
  | challenge (nonce : Bytes)
  /-- GET_MEASUREMENTS (R424). -/
  | getMeasurements (idx : Nat) (nonce : Bytes)
  /-- KEY_EXCHANGE (R423). -/
  | keyExchange (rootPort : Bool) (req : Bytes)
  /-- KEY_UPDATE (R423). -/
  | keyUpdate (sess : Nat)
  /-- HEARTBEAT (R423). -/
  | heartbeat (sess : Nat)
  /-- IDE_KM (R378). -/
  | ideKm (sess : Nat) (stream : Nat) (op : IdeOp)
  /-- CONFIG_REQUEST (R366). -/
  | configRequest (fn : Nat) (wr : Bool) (off v : Nat)
  /-- BAR2_READ (R26). -/
  | bar2Read (off : Nat) (len : Nat) (secure : Bool)
  /-- BAR2_WRITE (R26). -/
  | bar2Write (off : Nat) (d : Bytes) (secure : Bool)
  /-- REGISTER_WRITE (R18). -/
  | registerWrite (off : Nat) (a : HostAcc) (v : Nat)
  /-- FUNCTION1_WRITE (R368). -/
  | function1Write (off : Nat) (v : Nat)
  /-- ATOMICOP_REQUEST (R259). -/
  | atomicopRequest (bar : Nat) (off : Nat)
  /-- DOORBELL (R375). -/
  | doorbell (off : Nat) (a : HostAcc) (v : Nat)
  /-- QUEUE_EVENT_SEND (R279). -/
  | queueEventSend (j : Nat)
  /-- MIDX_UPDATE (R372). -/
  | midxUpdate (i : Nat)
  /-- INT_DELAY_EXPIRE (R376). -/
  | intDelayExpire (q : Nat)
  /-- QUE_CREATE (R377). -/
  | queCreate (w : Word)
  /-- QUE_DESTROY (R377). -/
  | queDestroy (w : Word)
  /-- QUE_READ (R377). -/
  | queRead (w : Word)
  /-- FLR_FUNCTION0 (R381). -/
  | flrFunction0
  /-- FLR_FUNCTION1 (R381). -/
  | flrFunction1
  /-- D3HOT_ENTRY (R380). -/
  | d3hotEntry
  /-- D0_RETURN (R475). -/
  | d0Return
  /-- GUEST_WINDOW_ACCESS (R405). -/
  | guestWindowAccess (off : Nat) (a : HostAcc) (wr : Bool) (v : Nat) (resp : Option Nat)
  /-- GUEST_TIMEOUT (R405). -/
  | guestTimeout
  /-- GUEST_REQUEST (R404). -/
  | guestRequest (da : Nat) (len : Nat) (op : GuestOp) (d : Bytes)
  /-- COPY (R349). -/
  | dmaCopy (k : Nat) (d : HostReply)
  /-- FILL (R349). -/
  | dmaFill (k : Nat) (d : HostReply)
  /-- CHECK (R349). -/
  | dmaCheck (k : Nat) (d : HostReply)
  /-- BAND_TO_PLANAR (R355). -/
  | bandToPlanar (k : Nat) (d : HostReply)
  /-- PLANAR_TO_BAND (R355). -/
  | planarToBand (k : Nat) (d : HostReply)
  /-- PLANE_SPLIT (R356). -/
  | planeSplit (k : Nat) (d : HostReply)
  /-- PLANE_MERGE (R356). -/
  | planeMerge (k : Nat) (d : HostReply)
  /-- SEAL (R357). -/
  | sealPayload (k : Nat) (d : HostReply)
  /-- OPEN (R357). -/
  | openPayload (k : Nat) (d : HostReply)
  /-- PSEAL (R309). -/
  | pseal (k : Nat) (d : HostReply)
  /-- POPEN (R309). -/
  | popen (k : Nat) (d : HostReply)
  /-- PREWRAP (R309). -/
  | prewrap (k : Nat) (d : HostReply)
  /-- PDISCARD (R309). -/
  | pdiscard (k : Nat) (d : HostReply)
  /-- DESCRIPTOR_COMPLETE (R352). -/
  | descriptorComplete (k : Nat)
  /-- DMA_PROD_WRITE (R345). -/
  | dmaProdWrite (ch : Nat) (a : HostAcc) (v : Nat)
  /-- DESCRIPTOR_RESUME (R353). -/
  | descriptorResume
  /-- CHANNEL_DISABLE (R354). -/
  | channelDisable (k : Nat)
  /-- CHANNEL_ENABLE (R354). -/
  | channelEnable (k : Nat) (ctl ring : Word)
  /-- CRC_MODE_SET (R363). -/
  | crcModeSet
  /-- CRC_MODE_CLEAR (R363). -/
  | crcModeClear
  /-- CRC_VALUE_WRITE (R362). -/
  | crcValueWrite (n : Nat) (v : Word)
  /-- READ_LOG (R439). -/
  | mboxReadLog (w : Word)
  /-- STAGE (R439). -/
  | mboxStage (w : Word) (slot : SlotInfo)
  /-- COMMIT (R439). -/
  | mboxCommit (x : FlashOp)
  /-- ABORT (R439). -/
  | mboxAbort (x : FlashOp)
  /-- WINDOW_CREATE (R399). -/
  | windowCreate (w : Word)
  /-- WINDOW_DELETE (R399). -/
  | windowDelete (w : Word)
  /-- PORT_RETRY (R386). -/
  | portRetry (p : Nat) (r : PortFind)
  /-- WRITE (R396). -/
  | frameWrite (p : Nat) (fr : Frame)
  /-- READ (R396). -/
  | frameRead (p : Nat) (fr : Frame)
  /-- READ_COMPLETION (R388). -/
  | readCompletion (p : Nat) (fr : Frame)
  /-- WRITE_ACKNOWLEDGEMENT (R281). -/
  | writeAcknowledgement (p : Nat) (fr : Frame)
  /-- IDLE (R388). -/
  | frameIdle (p : Nat) (fr : Frame)
  /-- MANAGEMENT (R389). -/
  | frameManagement (p : Nat) (fr : Frame)
  /-- NAK (R391). -/
  | frameNak (p : Nat) (fr : Frame)
  /-- PORT_KEY_UPDATE (R392). -/
  | portKeyUpdate (p : Nat)
  /-- REMOTE_TIMEOUT (R398). -/
  | remoteTimeout (i : Nat)
  /-- D2D_CRC_FAIL (R401). -/
  | d2dCrcFail (pair : Nat) (m : Nat) (lane : Nat) (retries : Nat)
  /-- PAIR_LOST (R401). -/
  | pairLost (pair : Nat)
  /-- DIE_PLL_LOSS (R37). -/
  | diePllLoss (d : Nat)
  /-- HUB_PLL_LOSS (R37). -/
  | hubPllLoss
  /-- DIE_HOUSEKEEPING_ROUND (R455). -/
  | dieHousekeepingRound (d : Nat) (r : DieRound)
  /-- HUB_ROUND (R465). -/
  | hubRound (r : HubRound)
  /-- CLOCK_CHANGE (R465). -/
  | clockChange (h : Nat)
  /-- CAP_UPDATE (R462). -/
  | capUpdate
  /-- EMERGENCY_END (R470). -/
  | emergencyEnd
  /-- OVERCURRENT_CLAMP (R466). -/
  | overcurrentClamp
  /-- THERMAL_TRIP (R471). -/
  | thermalTrip (site : Nat) (dram : Bool) (temp : Nat)
  /-- HALF_MAST_ENTRY (R474). -/
  | halfMastEntry (pldm : Bool)
  /-- HALF_MAST_DRAINED (R474). -/
  | halfMastDrained
  /-- HALF_MAST_EXIT (R475). -/
  | halfMastExit (pldm : Bool)
  /-- INPUT_LOSS (R476). -/
  | inputLoss
  /-- INPUT_RESTORE (R516). -/
  | inputRestore
  /-- PERST_N_ASSERT (R451). -/
  | perstNAssert
  /-- PERST_N_DEASSERT (R434). -/
  | perstNDeassert (b : BootIn)
  /-- BUNTING_REREQUEST (R447). -/
  | buntingRerequest (c : Nat) (block : Nat) (good : Bool)
  /-- READ_STATE (R500). -/
  | meterReadState (m : MeterState)
  /-- READ_RECORD (R500). -/
  | meterReadRecord (n : Nat)
  /-- READ_CERT (R496). -/
  | meterReadCert
  /-- METER_READ_LOG (R496). -/
  | meterReadLog (n : Nat)
  /-- DEMAND (R499). -/
  | meterDemand (nonce : Bytes)
  /-- INTERVAL_RECORD (R499). -/
  | intervalRecord
  /-- COVER_OPENING (R502). -/
  | coverOpening
  /-- METER_SUPPLY_EVENT (R499). -/
  | meterSupplyEvent (e : MeterSupply)
  /-- ENERGY_STORE (R495). -/
  | energyStore (mwh : Nat)
  /-- METER_LOST (R500). -/
  | meterLost
  /-- TRACE_RECORD_WRITE (R490). -/
  | traceRecordWrite (d : Nat)
  /-- SYNC_REQUEST (R492). -/
  | syncRequest (d : Nat) (transit : Nat)
  /-- TRACE_IDLE (R510). -/
  | traceIdle (lane : Nat)
  /-- DOORBELL_EVENT (R325). -/
  | doorbellEvent (j : Nat) (ciphers : List HostReply) (entries : List Bytes)
  /-- RESTARTED_EVENT (R337). -/
  | restartedEvent (j : Nat)
  /-- KEY_ROTATED_EVENT (R419). -/
  | keyRotatedEvent (j : Nat)
  /-- GENERATE (R327). -/
  | reqGenerate (j : Nat) (i : Nat) (r : ModelOut)
  /-- PREFILL (R327). -/
  | reqPrefill (j : Nat) (i : Nat) (r : ModelOut)
  /-- EMBED (R318). -/
  | reqEmbed (j : Nat) (i : Nat) (r : ModelOut)
  /-- TILE (R317). -/
  | reqTile (j : Nat) (i : Nat) (r : ModelOut)
  /-- CANCEL (R325). -/
  | reqCancel (j : Nat) (i : Nat)
  /-- VERIFICATION_STEP (R329). -/
  | verificationStep (j : Nat) (i : Nat) (d : SpecStep)
  /-- STREAM_ENTRY_POST (R335). -/
  | streamEntryPost (j : Nat) (i : Nat)
  /-- DIE_PLL_RELOCK (R39). -/
  | diePllRelock (d : Nat)
  /-- D2D_MODULE_FAIL (R401). -/
  | d2dModuleFail (pair : Nat) (m : Nat)
  /-- HOT_RESET (R381). -/
  | hotReset
  /-- PCIE_COMPLETION (R352). -/
  | pcieCompletion (tag : Nat) (r : HostReply)
  /-- END_SESSION (R423). -/
  | endSession (sess : Nat)
  /-- TACH_FACTOR_SET (R520). -/
  | tachFactorSet (factor : Nat)
  /-- FABRIC_ID_PROVISION (R384). -/
  | fabricIdProvision (id : Nat) (peers : List Nat)
  /-- FLOW_TACH_EDGE (R520). -/
  | flowTachEdge (gap : Nat)
  /-- SCRUB_LAP_LATE (R218). -/
  | scrubLapLate (c : Nat)
  /-- MSIX_VECTOR_UNMASK (R376). -/
  | msixVectorUnmask (v : Nat)
  /-- PORT_SIGNAL_LOSS (R398). -/
  | portSignalLoss (p : Nat)
  deriving DecidableEq, Repr

end Sys2Proof
end

