-- ==== Sys2Proof/Decode.lean ====
section
/-! DEFINITION. What the opcode table's bits spell, and the words of a Garno core (R117 to R120). -/

namespace Sys2Proof

/-- No row of the table gives bits: no word spells a command. -/
def decodeTableWord (_nbits _w : Nat) : Option Instr := none

/-- The instruction of logical core `c` that a 64-bit word holds: OP in bits 63:56, all other fields in bits 55:0. -/
def decodeGarno (c : Nat) (w : Word) : Instr :=
  let f := w.extractLsb' 0 56
  match (w.extractLsb' 56 8).toNat with
  | 0x01 => .alu c f
  | 0x02 => .mul c f
  | 0x03 => .divide c f
  | 0x04 => .addi c f
  | 0x05 => .andi c f
  | 0x06 => .ori c f
  | 0x07 => .xori c f
  | 0x08 => .shi c f
  | 0x09 => .slti c f
  | 0x0A => .sltiu c f
  | 0x0B => .li c f
  | 0x0C => .liu c f
  | 0x0D => .lih c f
  | 0x10 => .ld c f
  | 0x11 => .st c f
  | 0x12 => .amo c f
  | 0x14 => .pred c f
  | 0x20 => .vld c f
  | 0x21 => .vst c f
  | 0x22 => .vint c f
  | 0x23 => .vfp c f
  | 0x24 => .vfma c f
  | 0x25 => .vfn c f
  | 0x26 => .vcmp c f
  | 0x27 => .vred c f
  | 0x28 => .vperm c f
  | 0x29 => .vbcast c f
  | 0x2A => .vmovs c f
  | 0x2B => .vcvt c f
  | 0x2C => .vquant c f
  | 0x2D => .vplane c f
  | 0x40 => .mldw c f
  | 0x41 => .mop c f
  | 0x42 => .mrd c f
  | 0x43 => .mclr c f
  | 0x60 => .qset c f
  | 0x61 => .qget c f
  | 0x62 => .qstart c f
  | 0x63 => .qtake c f
  | 0x64 => .qput c f
  | 0x65 => .qcancel c f
  | 0x80 => .gbind c f
  | 0x81 => .gsendv c f
  | 0x82 => .gsends c f
  | 0x83 => .grecv c f
  | 0x84 => .grecvv c f
  | 0x85 => .gfree c f
  | 0x86 => .gstat c f
  | 0xA0 => .nissue c f
  | 0xA1 => .nwait c f
  | 0xA2 => .nstat c f
  | 0xC0 => .nop c f
  | 0xC1 => .br c f
  | 0xC2 => .jal c f
  | 0xC3 => .jalr c f
  | 0xC4 => .fence c f
  | 0xC5 => .rdctr c f
  | 0xC6 => .endRole c f
  | 0xD0 => .sysr c f
  | 0xD1 => .sysw c f
  | 0xD2 => .sclr c f
  | 0xD3 => .ctxset c f
  | 0xD4 => .uenter c f
  | _ => .illegalOpcode c w

/-- The opcodes of the instruction set (R117). -/
def garnoOpcodes : List Nat :=
  [0x01, 0x02, 0x03, 0x04, 0x05, 0x06, 0x07, 0x08, 0x09, 0x0A, 0x0B, 0x0C, 0x0D, 0x10, 0x11, 0x12,
   0x14, 0x20, 0x21, 0x22, 0x23, 0x24, 0x25, 0x26, 0x27, 0x28, 0x29, 0x2A, 0x2B, 0x2C, 0x2D, 0x40,
   0x41, 0x42, 0x43, 0x60, 0x61, 0x62, 0x63, 0x64, 0x65, 0x80, 0x81, 0x82, 0x83, 0x84, 0x85, 0x86,
   0xA0, 0xA1, 0xA2, 0xC0, 0xC1, 0xC2, 0xC3, 0xC4, 0xC5, 0xC6, 0xD0, 0xD1, 0xD2, 0xD3, 0xD4]

/-- The core and the word of an instruction command: OP above bits 55:0; an illegal-opcode command carries its whole word,
whose OP is none of the instruction set's. Every other command has no word. -/
def encodeGarno : Instr → Option (Nat × Word)
  | .illegalOpcode c w => if garnoOpcodes.contains (w.extractLsb' 56 8).toNat then none else some (c, w)
  | .alu c f => some (c, 0x01#8 ++ f)
  | .mul c f => some (c, 0x02#8 ++ f)
  | .divide c f => some (c, 0x03#8 ++ f)
  | .addi c f => some (c, 0x04#8 ++ f)
  | .andi c f => some (c, 0x05#8 ++ f)
  | .ori c f => some (c, 0x06#8 ++ f)
  | .xori c f => some (c, 0x07#8 ++ f)
  | .shi c f => some (c, 0x08#8 ++ f)
  | .slti c f => some (c, 0x09#8 ++ f)
  | .sltiu c f => some (c, 0x0A#8 ++ f)
  | .li c f => some (c, 0x0B#8 ++ f)
  | .liu c f => some (c, 0x0C#8 ++ f)
  | .lih c f => some (c, 0x0D#8 ++ f)
  | .ld c f => some (c, 0x10#8 ++ f)
  | .st c f => some (c, 0x11#8 ++ f)
  | .amo c f => some (c, 0x12#8 ++ f)
  | .pred c f => some (c, 0x14#8 ++ f)
  | .vld c f => some (c, 0x20#8 ++ f)
  | .vst c f => some (c, 0x21#8 ++ f)
  | .vint c f => some (c, 0x22#8 ++ f)
  | .vfp c f => some (c, 0x23#8 ++ f)
  | .vfma c f => some (c, 0x24#8 ++ f)
  | .vfn c f => some (c, 0x25#8 ++ f)
  | .vcmp c f => some (c, 0x26#8 ++ f)
  | .vred c f => some (c, 0x27#8 ++ f)
  | .vperm c f => some (c, 0x28#8 ++ f)
  | .vbcast c f => some (c, 0x29#8 ++ f)
  | .vmovs c f => some (c, 0x2A#8 ++ f)
  | .vcvt c f => some (c, 0x2B#8 ++ f)
  | .vquant c f => some (c, 0x2C#8 ++ f)
  | .vplane c f => some (c, 0x2D#8 ++ f)
  | .mldw c f => some (c, 0x40#8 ++ f)
  | .mop c f => some (c, 0x41#8 ++ f)
  | .mrd c f => some (c, 0x42#8 ++ f)
  | .mclr c f => some (c, 0x43#8 ++ f)
  | .qset c f => some (c, 0x60#8 ++ f)
  | .qget c f => some (c, 0x61#8 ++ f)
  | .qstart c f => some (c, 0x62#8 ++ f)
  | .qtake c f => some (c, 0x63#8 ++ f)
  | .qput c f => some (c, 0x64#8 ++ f)
  | .qcancel c f => some (c, 0x65#8 ++ f)
  | .gbind c f => some (c, 0x80#8 ++ f)
  | .gsendv c f => some (c, 0x81#8 ++ f)
  | .gsends c f => some (c, 0x82#8 ++ f)
  | .grecv c f => some (c, 0x83#8 ++ f)
  | .grecvv c f => some (c, 0x84#8 ++ f)
  | .gfree c f => some (c, 0x85#8 ++ f)
  | .gstat c f => some (c, 0x86#8 ++ f)
  | .nissue c f => some (c, 0xA0#8 ++ f)
  | .nwait c f => some (c, 0xA1#8 ++ f)
  | .nstat c f => some (c, 0xA2#8 ++ f)
  | .nop c f => some (c, 0xC0#8 ++ f)
  | .br c f => some (c, 0xC1#8 ++ f)
  | .jal c f => some (c, 0xC2#8 ++ f)
  | .jalr c f => some (c, 0xC3#8 ++ f)
  | .fence c f => some (c, 0xC4#8 ++ f)
  | .rdctr c f => some (c, 0xC5#8 ++ f)
  | .endRole c f => some (c, 0xC6#8 ++ f)
  | .sysr c f => some (c, 0xD0#8 ++ f)
  | .sysw c f => some (c, 0xD1#8 ++ f)
  | .sclr c f => some (c, 0xD2#8 ++ f)
  | .ctxset c f => some (c, 0xD3#8 ++ f)
  | .uenter c f => some (c, 0xD4#8 ++ f)
  | _ => none

end Sys2Proof
end

