-- ==== Sys2Proof/Machine/Table.lean ====
section
/-! DEFINITION. Sparse tables in one canonical form: keys strictly rising, no entry equal to the default. -/

namespace Sys2Proof.Machine

/-- The entry of key `k`, the default where none is listed. -/
def tget {α : Type} [Inhabited α] : Tbl α → Nat → α
  | [], _ => default
  | (n, v) :: t, k => if n = k then v else tget t k

/-- The table without its entries of key `k`. -/
def terase {α : Type} : Tbl α → Nat → Tbl α
  | [], _ => []
  | (n, v) :: t, k => if n = k then terase t k else (n, v) :: terase t k

/-- Put an entry in front of the first key above its own. -/
def tinsert {α : Type} : Tbl α → Nat → α → Tbl α
  | [], k, x => [(k, x)]
  | (n, v) :: t, k, x => if k < n then (k, x) :: (n, v) :: t else (n, v) :: tinsert t k x

/-- Write `x` under key `k`; writing the default removes the entry. -/
def tput {α : Type} [Inhabited α] [DecidableEq α] (t : Tbl α) (k : Nat) (x : α) : Tbl α :=
  if x = default then terase t k else tinsert (terase t k) k x

/-- Every key of the table is above `b`. -/
def tabove {α : Type} (b : Nat) : Tbl α → Bool
  | [] => true
  | (n, _) :: t => decide (b < n) && tabove b t

/-- The canonical form of a table. -/
def twf {α : Type} [Inhabited α] [DecidableEq α] : Tbl α → Bool
  | [] => true
  | (n, v) :: t => decide (v ≠ default) && tabove n t && twf t

/-- Write a run of consecutive keys. -/
def tputs {α : Type} [Inhabited α] [DecidableEq α] (t : Tbl α) (k : Nat) : List α → Tbl α
  | [] => t
  | x :: xs => tputs (tput t k x) (k + 1) xs

/-- Read `n` consecutive keys. -/
def tgets {α : Type} [Inhabited α] (t : Tbl α) (k : Nat) : Nat → List α
  | 0 => []
  | n + 1 => tget t k :: tgets t (k + 1) n

/-- Drop every entry whose key lies from `lo` up to below `hi`. -/
def tclear {α : Type} (t : Tbl α) (lo hi : Nat) : Tbl α :=
  t.filter (fun e => !(decide (lo ≤ e.1) && decide (e.1 < hi)))

/-- Change every listed entry. -/
def tmap {α : Type} [Inhabited α] [DecidableEq α] (f : Nat → α → α) : Tbl α → Tbl α
  | [] => []
  | (n, v) :: t => if f n v = default then tmap f t else (n, f n v) :: tmap f t

end Sys2Proof.Machine
end

