-- ==== Sys2Proof/Machine/Bits.lean ====
section
/-! DEFINITION. Bit fields, byte order, lanes of a vector register and predication (R16, R51, R52). -/

namespace Sys2Proof.Machine

/-- Bits `lo + len - 1 : lo` as a number. -/
def bits {n : Nat} (w : BitVec n) (lo len : Nat) : Nat := (w.extractLsb' lo len).toNat

/-- Bit `i`. -/
def bit {n : Nat} (w : BitVec n) (i : Nat) : Bool := w.getLsbD i

/-- A Boolean as a one-bit number. -/
def b2n (b : Bool) : Nat := if b then 1 else 0

/-- A register word from its fields, each given as its lowest bit and its value. -/
def packFields (l : List (Nat × Nat)) : Word :=
  BitVec.ofNat 64 (l.foldl (fun a f => a + f.2 * 2 ^ f.1) 0)

/-- `n` bytes of a number, least significant first (R16). -/
def leBytes : Nat → Nat → Bytes
  | 0, _ => []
  | n + 1, x => BitVec.ofNat 8 (x % 256) :: leBytes n (x / 256)

/-- The number of a byte string, least significant first (R16). -/
def ofLe : Bytes → Nat
  | [] => 0
  | b :: t => b.toNat + 256 * ofLe t

/-- Field of `n` bytes at offset `o` of a record. -/
def leAt (l : Bytes) (o n : Nat) : Nat := ofLe ((l.drop o).take n)

/-- Every byte is zero. -/
def allZero (l : Bytes) : Bool := l.all (fun b => b == 0)

/-- Replace the bytes of `l` from offset `o` by `x`. -/
def patch (l : Bytes) (o : Nat) (x : Bytes) : Bytes := l.take o ++ x ++ l.drop (o + x.length)

/-- Sign-extended value of the low `n` bits. -/
def sext (n x : Nat) : Int := if x % 2 ^ n < 2 ^ (n - 1) then (x % 2 ^ n : Nat) else (x % 2 ^ n : Nat) - 2 ^ n

/-- A 64-bit register value from an integer, modulo 2^64. -/
def ofI (i : Int) : Word := BitVec.ofInt 64 i

/-- Two's complement of an integer in `n` bits. -/
def toTwos (n : Nat) (i : Int) : Nat := (i % (2 ^ n : Nat)).toNat

/-- Clamp an integer to a range. -/
def clampInt (lo hi x : Int) : Int := if x < lo then lo else if hi < x then hi else x

/-- Element `k` of width `w` (R51). -/
def lane (w : Nat) (v : V512) (k : Nat) : Nat := (v.extractLsb' (w * k) w).toNat

/-- All elements of width `w`. -/
def lanes (w : Nat) (v : V512) : List Nat := (List.range (512 / w)).map (lane w v)

/-- A vector from its elements of width `w`, element 0 lowest. -/
def packLanes (w : Nat) (l : List Nat) : V512 :=
  BitVec.ofNat 512 (l.foldr (fun x a => a * 2 ^ w + x % 2 ^ w) 0)

/-- The 64 bytes of a vector. -/
def vbytes (v : V512) : Bytes := leBytes 64 v.toNat

/-- A vector from 64 bytes. -/
def vofBytes (l : Bytes) : V512 := BitVec.ofNat 512 (ofLe l)

/-- R52: the element of width `w` at index `k` is governed by the bit of its lowest byte. -/
def laneActive (pg : Word) (w k : Nat) : Bool := bit pg (k * w / 8)

/-- R52, R130: byte by byte, the new value where the element's governing bit is 1. -/
def blend (w : Nat) (pg : Word) (old new : V512) : V512 :=
  let wb := max w 8
  vofBytes ((List.range 64).map fun b =>
    if laneActive pg wb (b * 8 / wb) then BitVec.ofNat 8 (lane 8 new b) else BitVec.ofNat 8 (lane 8 old b))

/-- Length of a number in bits. -/
def bitLen (x : Nat) : Nat := if x = 0 then 0 else x.log2 + 1

/-- Two byte strings combined byte by byte. -/
def xorBytes (a b : Bytes) : Bytes := List.zipWith (fun x y => x ^^^ y) a b

/-- Exactly `n` bytes: cut, or filled with zeros. -/
def fitBytes (n : Nat) (l : Bytes) : Bytes := (l ++ List.replicate n 0).take n

/-! Check values (R360, R361) -/

/-- Width of a check value (R360). -/
def crcWidth (alg : Nat) : Nat := match alg with | 2 => 64 | 3 => 16 | _ => 32
/-- Final XOR of the algorithms of R360. -/
def crcFinal (alg : Nat) : Nat := if alg < 2 then 0xFFFFFFFF else 0
/-- Polynomial (reflected for the reflected algorithms) and initial value. -/
def crcPoly (alg : Nat) : Nat := match alg with | 0 => 0x82F63B78 | 1 => 0xEDB88320 | 2 => 0x42F0E1EBA9EA3693 | _ => 0x1021
def crcInit (alg : Nat) : Nat := match alg with | 0 => 0xFFFFFFFF | 1 => 0xFFFFFFFF | 2 => 0 | _ => 0xFFFF

/-- One bit of a reflected register, and of one that is not. -/
def crcBitR (poly v : Nat) : Nat := if v % 2 = 1 then v / 2 ^^^ poly else v / 2
def crcBitN (w poly v : Nat) : Nat := if v.testBit (w - 1) then (v * 2 % 2 ^ w) ^^^ poly else v * 2 % 2 ^ w

def iterN (f : Nat → Nat) : Nat → Nat → Nat
  | 0, v => v
  | n + 1, v => iterN f n (f v)

/-- The register after one byte. -/
def crcByte (alg v : Nat) (b : Byte) : Nat :=
  if alg < 2 then iterN (crcBitR (crcPoly alg)) 8 (v ^^^ b.toNat)
  else
    let w := crcWidth alg
    iterN (crcBitN w (crcPoly alg)) 8 (v ^^^ (b.toNat * 2 ^ (w - 8)))

def crcFeed (alg v : Nat) (l : Bytes) : Nat := l.foldl (crcByte alg) v

end Sys2Proof.Machine
end

