-- ==== Sys2Proof/Machine/Cipher.lean ====
section
/-! DEFINITION. AES-256 in counter mode with a GCM tag (R308, R320, R357) and SHAKE256, as FIPS 197, SP 800-38D and FIPS 202 define the
algorithms that the spec names (log entry 13). -/

namespace Sys2Proof.Machine

/-! AES-256 -/

/-- Multiplication in GF(2^8) with x^8 + x^4 + x^3 + x + 1. -/
def aesDouble (x : Nat) : Nat := if x * 2 < 256 then x * 2 else (x * 2 - 256) ^^^ 0x1B

def aesMulAux : Nat → Nat → Nat → Nat → Nat
  | 0, _, _, acc => acc
  | n + 1, a, b, acc => aesMulAux n (aesDouble a) (b / 2) (if b % 2 = 1 then acc ^^^ a else acc)

def aesMul (a b : Nat) : Nat := aesMulAux 8 a b 0

def aesPow (a : Nat) : Nat → Nat
  | 0 => 1
  | n + 1 => aesMul a (aesPow a n)

/-- The substitution of one byte: the inverse, then the affine map. -/
def aesSub (x : Nat) : Nat :=
  let b := aesPow x 254
  let rot := fun n => b * 2 ^ n % 256 + b * 2 ^ n / 256
  b ^^^ rot 1 ^^^ rot 2 ^^^ rot 3 ^^^ rot 4 ^^^ 0x63

def xorList (a b : List Nat) : List Nat := List.zipWith (fun x y => x ^^^ y) a b

/-- The next `n` words of the key schedule after the words `w`, newest first; `i` is the number of the next one. -/
def aesExpand : Nat → Nat → List (List Nat) → List (List Nat)
  | 0, _, w => w
  | n + 1, i, w =>
    let t := w.getD 0 []
    let t := if i % 8 = 0 then xorList ((t.drop 1 ++ t.take 1).map aesSub) [(List.range (i / 8 - 1)).foldl (fun r _ => aesDouble r) 1, 0, 0, 0]
      else if i % 8 = 4 then t.map aesSub else t
    aesExpand n (i + 1) (xorList (w.getD 7 []) t :: w)

/-- The 15 round keys of a 32-byte key, 16 bytes each. -/
def aesKeys (key : Bytes) : List (List Nat) :=
  let k := (List.range 32).map fun i => (key.getD i 0).toNat
  let w := (aesExpand 52 8 ((List.range 8).reverse.map fun i => (k.drop (4 * i)).take 4)).reverse
  (List.range 15).map fun r => ((w.drop (4 * r)).take 4).flatten

/-- Row `r` of the state moves `r` columns to the left. -/
def aesShift (st : List Nat) : List Nat := (List.range 16).map fun i => st.getD ((i + 4 * (i % 4)) % 16) 0

def aesMix (st : List Nat) : List Nat :=
  (List.range 16).map fun i =>
    let a := fun k => st.getD (i / 4 * 4 + (i + k) % 4) 0
    aesDouble (a 0) ^^^ (aesDouble (a 1) ^^^ a 1) ^^^ a 2 ^^^ a 3

def aesRounds : List (List Nat) → List Nat → List Nat
  | [], st => st
  | [k], st => xorList (aesShift (st.map aesSub)) k
  | k :: ks, st => aesRounds ks (xorList (aesMix (aesShift (st.map aesSub))) k)

/-- One block of 16 bytes under the round keys. -/
def aesBlock (ks : List (List Nat)) (b : List Nat) : List Nat :=
  match ks with
  | k :: ks => aesRounds ks (xorList b k)
  | [] => b

/-! GCM -/

/-- `n` bytes of a number, most significant first. -/
def beList (n x : Nat) : List Nat := (List.range n).reverse.map fun i => x / 256 ^ i % 256
def ofBe (l : List Nat) : Nat := l.foldl (fun a b => a * 256 + b) 0

/-- The counter block of a 12-byte IV. -/
def gcmBlock (iv : Bytes) (i : Nat) : List Nat := (List.range 12).map (fun k => (iv.getD k 0).toNat) ++ beList 4 i

/-- `n` bytes of key stream: counter blocks 2, 3, … -/
def keystream (key iv : Bytes) (n : Nat) : Bytes :=
  let ks := aesKeys key
  (((List.range ((n + 15) / 16)).flatMap fun i => aesBlock ks (gcmBlock iv (i + 2))).map (BitVec.ofNat 8)).take n

/-- Multiplication in GF(2^128), the first bit of a block being its most significant one. -/
def ghashMulAux : Nat → Nat → Nat → Nat → Nat
  | 0, _, _, z => z
  | n + 1, x, v, z =>
    ghashMulAux n x (if v % 2 = 1 then v / 2 ^^^ 0xE1 * 2 ^ 120 else v / 2) (if x.testBit n then z ^^^ v else z)

def ghashMul (x y : Nat) : Nat := ghashMulAux 128 x y 0

/-- Whole blocks of a byte string, the last one filled with zeros. -/
def gcmPad (l : Bytes) : List (List Nat) :=
  (List.range ((l.length + 15) / 16)).map fun i => (List.range 16).map fun k => (l.getD (16 * i + k) 0).toNat

/-- The 16-byte tag over additional data and ciphertext. -/
def gcmTag (key iv aad ct : Bytes) : Bytes :=
  let ks := aesKeys key
  let h := ofBe (aesBlock ks (List.replicate 16 0))
  let blocks := gcmPad aad ++ gcmPad ct ++ [beList 8 (aad.length * 8) ++ beList 8 (ct.length * 8)]
  let y := blocks.foldl (fun a b => ghashMul (a ^^^ ofBe b) h) 0
  (xorList (beList 16 y) (aesBlock ks (gcmBlock iv 1))).map (BitVec.ofNat 8)

/-- AES-256-GCM (R308, R357): ciphertext and tag. -/
def gcmCrypt (key iv x : Bytes) : Bytes := xorBytes x (keystream key iv x.length)
def gcmSeal (key iv aad pt : Bytes) : Bytes :=
  let ct := gcmCrypt key iv pt
  ct ++ gcmTag key iv aad ct
/-- Plaintext of a ciphertext that is followed by its tag; none when the tag fails. -/
def gcmOpen (key iv aad x : Bytes) : Option Bytes :=
  let n := x.length - 16
  let ct := x.take n
  if gcmTag key iv aad ct = x.drop n then some (gcmCrypt key iv ct) else none

/-! SHAKE256: 25 lanes of 64 bits, lane (x, y) at index x + 5 y -/

def rotLane (v n : Nat) : Nat := v * 2 ^ n % 2 ^ 64 + v * 2 ^ n / 2 ^ 64

/-- The walk of rho and pi: index of the lane and its rotation, for each of the 24 steps from lane `i` on. -/
def keccakWalk : Nat → Nat → Nat → List (Nat × Nat)
  | 0, _, _ => []
  | n + 1, t, i => (i, (t + 1) * (t + 2) / 2 % 64) :: keccakWalk n (t + 1) (i / 5 + 5 * ((2 * (i % 5) + 3 * (i / 5)) % 5))

def keccakRot (i : Nat) : Nat := match (keccakWalk 24 0 1).find? (fun e => e.1 = i) with | some e => e.2 | none => 0

/-- Round constants: bit 2^j − 1 of the constant of round `i` is output 7 i + j of a shift register of 8 bits. -/
def keccakLfsr : Nat → Nat → Nat
  | 0, r => r
  | n + 1, r => keccakLfsr n (if r * 2 < 256 then r * 2 else (r * 2 - 256) ^^^ 0x71)

def keccakConst (i : Nat) : Nat :=
  (List.range 7).foldl (fun a j => if keccakLfsr (7 * i + j) 1 % 2 = 1 then a + 2 ^ (2 ^ j - 1) else a) 0

def keccakRound (st : List Nat) (i : Nat) : List Nat :=
  let c := (List.range 5).map fun x => (List.range 5).foldl (fun a y => a ^^^ st.getD (x + 5 * y) 0) 0
  let a := (List.range 25).map fun k => st.getD k 0 ^^^ c.getD ((k + 4) % 5) 0 ^^^ rotLane (c.getD ((k + 1) % 5) 0) 1
  let b := (List.range 25).map fun k =>
    let x := k % 5
    let y := k / 5
    let src := (x + 3 * y) % 5 + 5 * x
    rotLane (a.getD src 0) (keccakRot src)
  (List.range 25).map fun k =>
    let at' := fun d => b.getD (k / 5 * 5 + (k % 5 + d) % 5) 0
    let v := at' 0 ^^^ ((2 ^ 64 - 1 - at' 1) &&& at' 2)
    if k = 0 then v ^^^ keccakConst i else v

def keccak (st : List Nat) : List Nat := (List.range 24).foldl keccakRound st

/-- The sponge of `rate` bytes with its domain bits: the state once all of `m` is absorbed. -/
def sponge (rate : Nat) (dom : Byte) (m : Bytes) : List Nat :=
  let pad := rate - m.length % rate
  let p := m ++ (if pad = 1 then [dom ||| 0x80] else [dom] ++ List.replicate (pad - 2) 0 ++ [0x80])
  (List.range (p.length / rate)).foldl (fun st i =>
    keccak ((List.range 25).map fun k => if k < rate / 8 then st.getD k 0 ^^^ leAt p (rate * i + 8 * k) 8 else st.getD k 0)) (List.replicate 25 0)

/-- The first 64 bytes of the output, as every use of the module takes them. -/
def shake256 (m : Bytes) : Bytes := ((sponge 136 0x1F m).take 8).flatMap (leBytes 8)
/-- SHA3-384, the hash of SPDM (R423). -/
def sha3of384 (m : Bytes) : Bytes := ((sponge 104 0x06 m).take 6).flatMap (leBytes 8)

end Sys2Proof.Machine
end

