-- ==== Sys2Proof/Machine/Fp.lean ====
section
/-! DEFINITION. Number formats, exact values and the one rounding of every operation (R100 to R112, R530). -/

namespace Sys2Proof.Machine

/-- The exact value behind a floating-point pattern: NaN, an infinity, or `±m·2^e`. -/
inductive Fv where
  | nan
  | inf (neg : Bool)
  | fin (neg : Bool) (m : Nat) (e : Int)
  deriving DecidableEq, Repr, Inhabited

/-- A floating-point format of R100. -/
structure Fmt where
  width : Nat
  mbits : Nat
  bias : Int
  /-- Encoding of the largest finite magnitude. -/
  maxCode : Nat
  /-- Encoding of infinity, where the format has one. -/
  infCode : Option Nat
  /-- Canonical NaN of R103, where the format has one. -/
  nanCode : Option Nat
  deriving DecidableEq, Repr

def fmtE2M1 : Fmt := ⟨4, 1, 1, 0x7, none, none⟩
def fmtE4M3 : Fmt := ⟨8, 3, 7, 0x7E, none, some 0x7F⟩
def fmtE5M2 : Fmt := ⟨8, 2, 15, 0x7B, some 0x7C, some 0x7E⟩
def fmtFP16 : Fmt := ⟨16, 10, 15, 0x7BFF, some 0x7C00, some 0x7E00⟩
def fmtBF16 : Fmt := ⟨16, 7, 127, 0x7F7F, some 0x7F80, some 0x7FC0⟩
def fmtFP32 : Fmt := ⟨32, 23, 127, 0x7F7FFFFF, some 0x7F800000, some 0x7FC00000⟩

/-- R100, R101: the exact value of a pattern. -/
def Fmt.decode (f : Fmt) (x : Nat) : Fv :=
  let neg := decide (2 ^ (f.width - 1) ≤ x % 2 ^ f.width)
  let mag := x % 2 ^ (f.width - 1)
  if f.maxCode < mag then
    (if f.infCode = some mag then .inf neg else .nan)
  else
    let ex := mag / 2 ^ f.mbits
    let fr := mag % 2 ^ f.mbits
    if ex = 0 then .fin neg fr (1 - f.bias - f.mbits)
    else .fin neg (2 ^ f.mbits + fr) (ex - f.bias - f.mbits)

/-- Round the magnitude `m·2^e` (a little above it when `sticky`) to `p` bits with no bit below `2^emin`:
to nearest, ties to even, or toward zero. -/
def roundMag (p : Nat) (emin : Int) (rtz : Bool) (m : Nat) (e : Int) (sticky : Bool) : Nat × Int :=
  let q := max (e + (bitLen m : Int) - p) emin
  if q ≤ e then (m * 2 ^ (e - q).toNat, q)
  else
    let sh := (q - e).toNat
    let base := m / 2 ^ sh
    let rest := m % 2 ^ sh
    let half := 2 ^ (sh - 1)
    let up := !rtz && (decide (half < rest) || (decide (rest = half) && (sticky || decide (base % 2 = 1))))
    (if up then base + 1 else base, q)

/-- The pattern of a magnitude in a format, before the overflow rule: exponent field and fraction together. -/
def Fmt.code (f : Fmt) (r : Nat × Int) : Nat :=
  let emin := 1 - f.bias - f.mbits
  if r.1 = 0 then 0
  else if r.1 < 2 ^ f.mbits then r.1
  else
    let (b, q) := if r.1 = 2 ^ (f.mbits + 1) then (2 ^ f.mbits, r.2 + 1) else r
    ((q - emin + 1).toNat) * 2 ^ f.mbits + (b - 2 ^ f.mbits)

/-- The sign bit of a format. -/
def Fmt.signed (f : Fmt) (neg : Bool) (c : Nat) : Nat := if neg then 2 ^ (f.width - 1) + c else c

/-- R111: round an exact value into the format. `sat` selects the saturating result of E5M2. -/
def Fmt.encode (f : Fmt) (rtz sat : Bool) (v : Fv) (sticky : Bool := false) : Nat :=
  match v with
  | .nan => f.nanCode.getD 0
  | .inf neg => f.signed neg (if sat then f.maxCode else f.infCode.getD f.maxCode)
  | .fin neg m e =>
    let c := f.code (roundMag (f.mbits + 1) (1 - f.bias - f.mbits) rtz m e sticky)
    if f.maxCode < c then f.signed neg (if sat then f.maxCode else f.infCode.getD f.maxCode)
    else f.signed neg c

/-- Integer value `m·2^e` of a signed magnitude at exponent `q ≤ e`. -/
def scaled (neg : Bool) (m : Nat) (e q : Int) : Int :=
  let n : Int := (m * 2 ^ (e - q).toNat : Nat)
  if neg then -n else n

/-- A finite value from an integer and an exponent; a zero takes the given sign. -/
def ofScaled (zneg : Bool) (i : Int) (q : Int) : Fv :=
  if i = 0 then .fin zneg 0 q else .fin (decide (i < 0)) i.natAbs q

/-- IEEE 754 addition, exact. -/
def Fv.add : Fv → Fv → Fv
  | .nan, _ => .nan
  | _, .nan => .nan
  | .inf a, .inf b => if a = b then .inf a else .nan
  | .inf a, _ => .inf a
  | _, .inf b => .inf b
  | .fin na ma ea, .fin nb mb eb =>
    ofScaled (na && nb && decide (ma = 0) && decide (mb = 0)) (scaled na ma ea (min ea eb) + scaled nb mb eb (min ea eb)) (min ea eb)

/-- Change of sign; NaN stays NaN. -/
def Fv.neg : Fv → Fv
  | .nan => .nan
  | .inf a => .inf (!a)
  | .fin n m e => .fin (!n) m e

def Fv.abs : Fv → Fv
  | .nan => .nan
  | .inf _ => .inf false
  | .fin _ m e => .fin false m e

/-- IEEE 754 multiplication, exact. -/
def Fv.mul : Fv → Fv → Fv
  | .nan, _ => .nan
  | _, .nan => .nan
  | .inf a, .inf b => .inf (a != b)
  | .inf a, .fin nb mb _ => if mb = 0 then .nan else .inf (a != nb)
  | .fin na ma _, .inf b => if ma = 0 then .nan else .inf (na != b)
  | .fin na ma ea, .fin nb mb eb => .fin (na != nb) (ma * mb) (ea + eb)

/-- Scaling by a power of two. -/
def Fv.scale (k : Int) : Fv → Fv
  | .fin n m e => .fin n m (e + k)
  | v => v

/-- Exact order of two values that are not NaN. -/
def Fv.lt : Fv → Fv → Bool
  | .nan, _ => false
  | _, .nan => false
  | .inf a, .inf b => a && !b
  | .inf a, _ => a
  | _, .inf b => !b
  | .fin na ma ea, .fin nb mb eb => decide (scaled na ma ea (min ea eb) < scaled nb mb eb (min ea eb))

/-- Numerical equality; NaN equals nothing, −0 equals +0. -/
def Fv.eqv (a b : Fv) : Bool :=
  match a, b with
  | .nan, _ => false
  | _, .nan => false
  | a, b => !(a.lt b) && !(b.lt a)

def Fv.isNan : Fv → Bool
  | .nan => true
  | _ => false

def Fv.isNeg : Fv → Bool
  | .nan => false
  | .inf a => a
  | .fin n _ _ => n

def Fv.isZero : Fv → Bool
  | .fin _ m _ => decide (m = 0)
  | _ => false

def Fv.isFinite : Fv → Bool
  | .fin _ _ _ => true
  | _ => false

/-- R530: −0 is ordered below +0. -/
def Fv.below (a b : Fv) : Bool := a.lt b || (a.isZero && b.isZero && a.isNeg && !b.isNeg)

/-- R530: minimum and maximum of IEEE 754-2019. -/
def Fv.min (a b : Fv) : Fv := if a.isNan || b.isNan then .nan else if b.below a then b else a
def Fv.max (a b : Fv) : Fv := if a.isNan || b.isNan then .nan else if a.below b then b else a

/-- FP32 value of a pattern and the rounding to nearest into FP32 (R106). -/
def f32 (x : Nat) : Fv := fmtFP32.decode x
def rnd32 (v : Fv) : Nat := fmtFP32.encode false false v

def fadd32 (a b : Nat) : Nat := rnd32 ((f32 a).add (f32 b))
def fsub32 (a b : Nat) : Nat := rnd32 ((f32 a).add (f32 b).neg)
def fmul32 (a b : Nat) : Nat := rnd32 ((f32 a).mul (f32 b))
def fmin32 (a b : Nat) : Nat := rnd32 ((f32 a).min (f32 b))
def fmax32 (a b : Nat) : Nat := rnd32 ((f32 a).max (f32 b))
/-- Fused multiply-add, rounded once. -/
def ffma32 (a b c : Nat) : Nat := rnd32 (((f32 a).mul (f32 b)).add (f32 c))
def fabs32 (a : Nat) : Nat := a % 2 ^ 31
def fneg32 (a : Nat) : Nat := (a + 2 ^ 31) % 2 ^ 32

/-- Exact quotient to 80 bits with a sticky bit: IEEE 754 division into FP32, rounded once. -/
def fdiv32 (a b : Nat) : Nat :=
  match f32 a, f32 b with
  | .nan, _ => 0x7FC00000
  | _, .nan => 0x7FC00000
  | .inf _, .inf _ => 0x7FC00000
  | .inf s, v => fmtFP32.signed (s != v.isNeg) 0x7F800000
  | v, .inf s => fmtFP32.signed (v.isNeg != s) 0
  | .fin na ma ea, .fin nb mb eb =>
    if mb = 0 then (if ma = 0 then 0x7FC00000 else fmtFP32.signed (na != nb) 0x7F800000)
    else if ma = 0 then fmtFP32.signed (na != nb) 0
    else fmtFP32.encode false false (.fin (na != nb) (ma * 2 ^ 80 / mb) (ea - eb - 80)) (decide (ma * 2 ^ 80 % mb ≠ 0))

/-- A zero with sign −0 in FP32, −∞ and +∞. -/
def f32NegZero : Nat := 0x80000000
def f32NegInf : Nat := 0xFF800000
def f32PosInf : Nat := 0x7F800000
def f32Nan : Nat := 0x7FC00000

/-- Round an exact value to an integer, ties to even or toward zero, then clamp (R111). -/
def toInt (rtz : Bool) (lo hi : Int) : Fv → Int
  | .nan => 0
  | .inf neg => if neg then lo else hi
  | .fin neg m e =>
    let r := if 0 ≤ e then m * 2 ^ e.toNat else
      (let r := roundMag (bitLen m) 0 rtz m e false
       r.1 * 2 ^ r.2.toNat)
    clampInt lo hi (if neg then -(r : Int) else r)

/-- The exact value of an integer. -/
def fvOfInt (i : Int) : Fv := .fin (decide (i < 0)) i.natAbs 0

/-- Element types of R131; the first six are those of R80. -/
inductive EType where
  | e4m3 | e5m2 | int8 | uint8 | e2m1 | int4 | bf16 | fp16 | fp32 | int16 | int32
  deriving DecidableEq, Repr, Inhabited

def etypeOf : Nat → Option EType
  | 0x0 => some .e4m3
  | 0x1 => some .e5m2
  | 0x2 => some .int8
  | 0x3 => some .uint8
  | 0x4 => some .e2m1
  | 0x5 => some .int4
  | 0x6 => some .bf16
  | 0x7 => some .fp16
  | 0x8 => some .fp32
  | 0x9 => some .int16
  | 0xA => some .int32
  | _ => none

def EType.width : EType → Nat
  | .e2m1 | .int4 => 4
  | .e4m3 | .e5m2 | .int8 | .uint8 => 8
  | .bf16 | .fp16 | .int16 => 16
  | .fp32 | .int32 => 32

/-- The floating-point format of a type, none for an integer type. -/
def EType.fmt : EType → Option Fmt
  | .e4m3 => some fmtE4M3
  | .e5m2 => some fmtE5M2
  | .e2m1 => some fmtE2M1
  | .bf16 => some fmtBF16
  | .fp16 => some fmtFP16
  | .fp32 => some fmtFP32
  | _ => none

/-- Range of an integer type (R102). -/
def EType.range : EType → Int × Int
  | .int4 => (-8, 7)
  | .int8 => (-128, 127)
  | .uint8 => (0, 255)
  | .int16 => (-32768, 32767)
  | .int32 => (-2147483648, 2147483647)
  | _ => (0, 0)

def EType.isFloat (t : EType) : Bool := t.fmt.isSome

/-- Integer value of an element of an integer type. -/
def EType.int (t : EType) (x : Nat) : Int :=
  if t = .uint8 then (x % 256 : Nat) else sext t.width x

/-- Exact value of an element. -/
def EType.val (t : EType) (x : Nat) : Fv :=
  match t.fmt with
  | some f => f.decode x
  | none => fvOfInt (t.int x)

/-- R111: convert an exact value into an element of the type. -/
def EType.conv (t : EType) (rtz sat : Bool) (v : Fv) : Nat :=
  match t.fmt with
  | some f => f.encode rtz sat v
  | none => toTwos t.width (toInt rtz t.range.1 t.range.2 v)

/-- Unbiased exponent of a finite non-zero FP32 or BF16 value; subnormals count as −126 (R96, R112). -/
def unbiased (v : Fv) : Int :=
  match v with
  | .fin _ m e => max ((bitLen m : Int) - 1 + e) (-126)
  | _ => 0

/-- A type to which a NaN converts without a NaN result (R111), counted by the trace counter. -/
def EType.losesNan (t : EType) : Bool := decide (t = .e2m1) || !t.isFloat

/-- R134: fixed pairwise tree over a list whose length is a power of two, `n` levels. -/
def pairTree (op : Nat → Nat → Nat) : Nat → List Nat → Nat
  | 0, l => l.headD 0
  | n + 1, l => pairTree op n ((List.range (l.length / 2)).map fun i => op (l.getD (2 * i) 0) (l.getD (2 * i + 1) 0))

end Sys2Proof.Machine
end

