-- ==== Sys2Proof/Config.lean ====
section
/-! DEFINITION. What the spec leaves open or fuses per module: constants with no body (log entries 5, 6 and 12). -/

namespace Sys2Proof.Config

/-- A value that the spec leaves undefined, one for each value of the counter `State.fresh` (log entry 5). -/
opaque freeNat : Nat → Nat

/-- FP32 result of a built-in function before its bound is enforced (R109, R230): 0 exp2, 1 reciprocal,
2 reciprocal square root, 3 SiLU, 4 GELU, 5 cosine and 6 sine of a number of turns (log entry 12). -/
opaque approx : Nat → Nat → Nat

/-- Fused power code: 0 P24, 1 P18, 2 P12 (R8, R13; log entry 6). -/
opaque powerCode : Fin 3
/-- Fused guest site and partner code (R10, R13). -/
opaque guestSite : Bool
opaque partnerCode : BitVec 16
/-- Fused Rθ of each spot, in 10^−4 K/W (R461). -/
opaque rthFused : Nat → Nat
/-- Fused Revision ID, and the identifiers that PCI-SIG assigns (R367, R402). -/
opaque revisionId : BitVec 8
opaque vendorId : BitVec 16
/-- What a configuration word that the spec does not describe reads: function, offset, value last written. -/
opaque cfgRead : Nat → Nat → Nat → Nat
/-- Offset of function 0's power management control and status word (R380). -/
opaque pmcsr : Nat
/-- Offsets of function 0's MSI-X capability, of the device capabilities and of the device control word of each function (R364), and of
the three words of address association block `b` (stream × 2 + block) of the IDE capability (R378). -/
opaque msixCap : Nat
opaque devCap : Nat
opaque devCtl : Nat
opaque ideBlock : Nat → Nat
/-- Ring (base and log2 of its size) and doorbell word that management firmware chooses for a payload channel (R421). -/
opaque payloadRing : Nat → Nat × Nat
opaque payloadBell : Nat → Nat
/-- The two logical cores in whose slices a job's code keeps its retention store: by the bytes of its record (R334). -/
opaque retentionCores : Bytes → Nat × Nat
/-- What the job's code fixes, by the bytes of its record: vocabulary, end token (R316, R323), channels of a TILE output and FP32
values of an embedding (R318), slots of the ledger and bytes of the retention store (R326, R334), and the KV units (R284). -/
opaque vocabulary : Bytes → Nat
opaque endToken : Bytes → Option Nat
opaque outChannels : Bytes → Nat
opaque embedWidth : Bytes → Nat
opaque ledgerSlots : Bytes → Nat
opaque retentionBytes : Bytes → Nat
opaque kvUnits : Bytes → List KvUnit
/-- The order in which the job's code sums the products of a dot product of so many dimensions (R114, R299). -/
opaque dotOrder : Nat → List Nat
/-- Redundant lanes of a die-to-die module (R401). -/
opaque repairLanes : Nat
/-- Fused floor of the security version (R437). -/
opaque svnFloor : Nat
/-- What a GRANT with HOST 3 comes to (R407, R408; log entry 24): PARAM, or one of the three attributes. -/
opaque grantHost3 : Option (Fin 3)
/-- Digest of the fuse map, digest of the boot ROM, HUB's serial number (R424). -/
opaque fuseDigest : Bytes
opaque romDigest : Bytes
opaque serialNumber : Nat
/-- The 32-byte secret fused at manufacture (R422); private and public key of SLH-DSA-SHAKE-256s that a secret gives, and its signature of a
message with a private key. -/
opaque fusedSecret : Bytes
opaque slhKeys : Bytes → Bytes × Bytes
opaque slhSign : Bytes → Bytes → Bytes
/-- The certificates in the flash (R422, R435): Yaroux's root and intermediate, and the device's for a serial number and a public key. -/
opaque rootCertificate : Bytes
opaque intermediateCertificate : Bytes
opaque deviceCertificate : Nat → Bytes → Bytes
/-- Keys from HUB's random-bit generator, one for each draw. -/
opaque randomKey : Nat → Bytes
/-- Response and session secret of an ML-KEM-1024 key exchange (R423). -/
opaque kemResponse : Bytes → Nat → Bytes
opaque kemSecret : Bytes → Nat → Bytes
/-- The secret that a peer has encapsulated to this module's ensign (R429), and the key and salt that follow a port's own at a key update
(R392; log entry 105). -/
opaque kemOpen : Bytes → Bytes
opaque nextKey : Bytes → Bytes

/-- Manifest of a firmware slot as the flash holds it at manufacture (R435, R437). -/
opaque slotAtManufacture : Nat → SlotInfo
/-- The meter board that the module is delivered with (R498), and of each board by its identity: version and digest of its software
(R497), certificate chain, and SLH-DSA-SHAKE-128f signature of a record body (R498). -/
opaque meterId : Nat
opaque meterSwVersion : Nat → Nat
opaque meterSwDigest : Nat → Bytes
opaque meterChain : Nat → Bytes
opaque meterSign : Nat → Bytes → Bytes
/-- R397: the windows on other modules that serve an INSTANCE, as peer * 16 + window; the spec does not say how a module knows them (log
entry 85). -/
opaque instanceWindows : Nat → List Nat

end Sys2Proof.Config
end

