-- ==== Sys2Proof/Machine/Approx.lean ====
section
/-! DEFINITION. Built-in functions within their bounds (R109, R230): a free value of Config that lies inside the bound
the spec states, checked exactly or against a fixed-point reference; a value outside gives way to the reference (log entry 12). -/

namespace Sys2Proof.Machine

/-- Bits after the binary point of the reference values. -/
def fxS : Nat := 512
def fxOne : Nat := 2 ^ fxS
def fxMul (a b : Nat) : Nat := a * b / fxOne
def fxDiv (a b : Nat) : Nat := a * fxOne / b

/-- Taylor series of e^t for a small t. -/
def fxExpAux (t : Nat) : Nat → Nat → Nat → Nat → Nat
  | 0, _, _, acc => acc
  | n + 1, k, term, acc =>
    let term' := fxMul term t / k
    fxExpAux t n (k + 1) term' (acc + term')

def fxSquare : Nat → Nat → Nat
  | 0, x => x
  | n + 1, x => fxSquare n (fxMul x x)

/-- e^t for t from 0. -/
def fxExp (t : Nat) : Nat := fxSquare 10 (fxExpAux (t / 1024) 60 1 fxOne fxOne)

/-- ln 2 as Σ 1 / (k · 2^k). -/
def fxLn2Aux : Nat → Nat → Nat → Nat
  | 0, _, acc => acc
  | n + 1, k, acc => fxLn2Aux n (k + 1) (acc + fxOne / (k * 2 ^ k))
def fxLn2 : Nat := fxLn2Aux 520 1 0

/-- arctan(1/n) by its series, and π by Machin's formula. -/
def fxAtanAux (n2 : Nat) : Nat → Nat → Nat → Int → Int
  | 0, _, _, acc => acc
  | m + 1, k, p, acc =>
    fxAtanAux n2 m (k + 1) (p / n2) (if k % 2 = 0 then acc + (p / (2 * k + 1) : Nat) else acc - (p / (2 * k + 1) : Nat))
def fxPi : Nat := (16 * fxAtanAux 25 230 0 (fxOne / 5) 0 - 4 * fxAtanAux (239 * 239) 80 0 (fxOne / 239) 0).toNat

/-- Series of cosine (from 0) and sine (from 1) at angle t. -/
def fxTrigAux (t2 : Nat) : Nat → Nat → Nat → Int → Int
  | 0, _, _, acc => acc
  | n + 1, k, term, acc =>
    let term' := fxMul term t2 / ((k + 1) * (k + 2))
    fxTrigAux t2 n (k + 2) term' (if k / 2 % 2 = 0 then acc - (term' : Int) else acc + (term' : Int))
def fxCos (t : Nat) : Int := fxTrigAux (fxMul t t) 90 0 fxOne fxOne
def fxSin (t : Nat) : Int := fxTrigAux (fxMul t t) 90 1 t t

/-- Normal distribution function at x ≥ 0: 1/2 + φ(x) · Σ x^(2k+1) / (2k+1)!!. -/
def fxPhiAux (x2 : Nat) : Nat → Nat → Nat → Nat → Nat
  | 0, _, _, acc => acc
  | n + 1, k, term, acc =>
    let term' := fxMul term x2 / (2 * k + 1)
    fxPhiAux x2 n (k + 1) term' (acc + term')
def fxPhi (x : Nat) : Nat :=
  let x2 := fxMul x x
  let dens := fxDiv (fxDiv fxOne (fxExp (x2 / 2))) ((2 * fxPi * fxOne).sqrt)
  fxOne / 2 + fxMul dens (fxPhiAux x2 700 1 x x)

/-- A finite value in fixed point, truncated toward zero. -/
def fxOf (m : Nat) (e : Int) : Nat :=
  if 0 ≤ e + fxS then m * 2 ^ (e + fxS).toNat else m / 2 ^ (-(e + fxS)).toNat

/-- Signed fixed-point value of a finite FP32 pattern. -/
def fxVal (x : Nat) : Int :=
  match f32 x with
  | .fin n m e => if n then -(fxOf m e : Int) else fxOf m e
  | _ => 0

/-- FP32 nearest to a fixed-point value. -/
def fxRound (neg : Bool) (x : Nat) : Nat := rnd32 (.fin neg x (-(fxS : Int)))

/-- A candidate result: finite, and a normal number where `norm` says that the exact result is one (R106). -/
def candidate (fn x : Nat) (norm : Bool) : Option Nat :=
  let c := Config.approx fn x % 2 ^ 32
  if (f32 c).isFinite && (!norm || !((f32 c).abs.lt (.fin false 1 (-126)))) then some c else none

/-- The part of a tolerance that the reference's own error may use up: none where the reference is exact. -/
def slack (exact : Bool) (scale : Nat) : Nat := if exact then 0 else scale / 2 ^ 300 + 1

/-- The free value `approx fn x` where it lies within `tol` of the reference, otherwise the reference rounded. -/
def within (fn x : Nat) (norm : Bool) (ref : Int) (tol : Nat) : Nat :=
  match candidate fn x norm with
  | some c => if (fxVal c - ref).natAbs ≤ tol then c else fxRound (decide (ref < 0)) ref.natAbs
  | none => fxRound (decide (ref < 0)) ref.natAbs

/-- R109: exp2. -/
def exp2F (x : Nat) : Nat :=
  match f32 x with
  | .nan => f32Nan
  | .inf neg => if neg then 0 else f32PosInf
  | .fin neg m e =>
    let v := f32 x
    if v.lt (.fin true 126 0) then 0
    else if !(v.lt (.fin false 128 0)) then f32PosInf
    else
      let t := fxOf m e
      let k := t / fxOne
      let fr := t % fxOne
      let ef := fxExp (fxMul fr fxLn2)
      -- 2^|x|, or its reciprocal, in fixed point
      let ref := if neg then fxDiv fxOne (ef * 2 ^ k) else ef * 2 ^ k
      within 0 x true ref (ref / 2 ^ 22 - slack (decide (fr = 0)) ref)

/-- R109: 1/x. -/
def rcpF (x : Nat) : Nat :=
  match f32 x with
  | .nan => f32Nan
  | .inf neg => if neg then f32NegZero else 0
  | .fin neg m e =>
    if m = 0 then (if neg then f32NegInf else f32PosInf)
    else if (Fv.fin false 1 126).lt (.fin false m e) then (if neg then f32NegZero else 0)
    else
      -- exact 1/(m·2^e), beyond the largest finite magnitude when the quotient rounds there
      let q := fdiv32 0x3F800000 (fmtFP32.signed neg (x % 2 ^ 31))
      if (f32 q).isFinite then
        match (candidate 1 x true).map fun c => (c, f32 c) with
        | some (c, .fin nc mc ec) =>
          let prod := Fv.fin (nc != neg) (mc * m) (ec + e)
          let d := (prod.add (.fin true 1 0)).abs
          if !(Fv.fin false 1 (-22)).lt d then c else q
        | _ => q
      else q

/-- R109: 1/√x. -/
def rsqrtF (x : Nat) : Nat :=
  match f32 x with
  | .nan => f32Nan
  | .inf neg => if neg then f32Nan else 0
  | .fin neg m e =>
    if m = 0 then (if neg then f32NegInf else f32PosInf)
    else if neg then f32Nan
    else
      -- (1 − 2^−21)² ≤ c² · x ≤ (1 + 2^−21)², all three exact
      match (candidate 2 x true).map fun c => (c, f32 c) with
      | some (c, .fin false mc ec) =>
        let p := Fv.fin false (mc * mc * m) (2 * ec + e)
        if !p.lt (.fin false ((2 ^ 21 - 1) ^ 2) (-42)) && !(Fv.fin false ((2 ^ 21 + 1) ^ 2) (-42)).lt p then c
        else fxRound false (fxDiv fxOne ((fxOf m e * fxOne).sqrt))
      | _ => fxRound false (fxDiv fxOne ((fxOf m e * fxOne).sqrt))

/-- R230: SiLU and GELU share their edge values. -/
def edgeAct (x : Nat) (ref : Nat → Int) (fn : Nat) : Nat :=
  match f32 x with
  | .nan => f32Nan
  | .inf neg => if neg then f32NegZero else f32PosInf
  | .fin neg m e =>
    let v := f32 x
    if !(v.lt (.fin false 16 0)) then x
    else if !((Fv.fin true 16 0).lt v) then f32NegZero
    else
      let a := fxOf m e
      let r := ref a
      within fn x false (if neg then r - (a : Int) else r) (a / 2 ^ 18 + fxOne / 2 ^ 30 - slack (decide (a = 0)) fxOne)

/-- x·σ(x) for |x| = a, sign positive; for a negative x the value is x·σ(x) = |x|·σ(|x|) − |x|. -/
def siluF (x : Nat) : Nat :=
  edgeAct x (fun a => let e := fxExp a; (fxMul a (fxDiv e (fxOne + e)) : Nat)) 3
/-- x·Φ(x), with the same relation between the signs. -/
def geluF (x : Nat) : Nat := edgeAct x (fun a => (fxMul a (fxPhi a) : Nat)) 4

/-- Fraction of a turn, 0 to below 1, in fixed point. -/
def fxFrac (neg : Bool) (m : Nat) (e : Int) : Nat :=
  let t := fxOf m e % fxOne
  if neg && decide (t ≠ 0) then fxOne - t else t

/-- Cosine of a fraction of a turn, exact at whole quarters of a turn. -/
def turnCos (fr : Nat) : Int :=
  if fr * 4 % fxOne = 0 then (([fxOne, 0, -fxOne, 0] : List Int).getD (fr * 4 / fxOne) 0) else fxCos (fxMul (2 * fxPi) fr)
/-- Sine of a fraction of a turn. -/
def turnSin (fr : Nat) : Int :=
  if fr * 4 % fxOne = 0 then (([0, fxOne, 0, -fxOne] : List Int).getD (fr * 4 / fxOne) 0) else fxSin (fxMul (2 * fxPi) fr)

/-- R230: cosine and sine of 2π times an FP32 number of turns. -/
def turnF (fn : Nat) (ref : Nat → Int) (x : Nat) : Nat :=
  match f32 x with
  | .fin neg m e =>
    let fr := fxFrac neg m e
    within fn x false (ref fr) (fxOne / 2 ^ 21 - slack (decide (fr * 4 % fxOne = 0)) fxOne)
  | _ => f32Nan
def cosF : Nat → Nat := turnF 5 turnCos
def sinF : Nat → Nat := turnF 6 turnSin

end Sys2Proof.Machine
end

