-- ==== Sys2Proof/Machine/StateCore.lean ====
section
/-! DEFINITION. The state of a Garno core (chapters 02, 03, 05, 06) and of the message network (chapter 11). -/

namespace Sys2Proof.Machine

/-- The stationary block buffer (R90 to R92). -/
structure Blk where
  /-- A stationary load has issued since the role started. -/
  held : Bool
  /-- Stream and first unit of a source that has not been read yet. -/
  src : Option (Nat × Nat)
  /-- The block has shifted into the arrays and is usable. -/
  shifted : Bool
  invalid : Bool
  typ : Nat
  tr : Bool
  ws : Nat
  data : Bytes
  seq : Nat
  deriving DecidableEq, Repr, Inhabited

/-- An array operation in its array's queue (R61, R84): `clear` marks an MCLR. -/
structure ArrOp where
  clear : Bool
  tile : Nat
  /-- Stream and first unit, or none when the rows come from registers. -/
  src : Option (Nat × Nat)
  regs : List V512
  rows : Nat
  r0 : Nat
  acc : Bool
  xtype : Nat
  psh : Nat
  neg : Bool
  xs : Option V512
  seq : Nat
  /-- Rows that have entered the array. -/
  next : Nat
  deriving DecidableEq, Repr, Inhabited

/-- A stream descriptor (R153); `got` counts the units delivered, `puts` the data put and not yet written. Every unit below `low` has
been delivered, and of the units from there on those of `more`, each as first unit and number (R155). -/
structure QDesc where
  w0 : Word
  w1 : Word
  state : Nat
  pos : Nat
  got : Nat
  low : Nat
  more : List (Nat × Nat)
  puts : List Bytes
  /-- A QTAKE waits for data that is in flight (R72). -/
  stalled : Bool
  deriving DecidableEq, Repr, Inhabited

/-- A line of the stream buffer (R67 to R70): the `len` bytes at slice offset `off`, from unit `unit` of the stream on, that run-ahead
reads of it, the class of the read (R72), and the data once it has arrived. -/
structure SbLine where
  q : Nat
  unit : Nat
  off : Nat
  len : Nat
  cls : Nat
  data : Bytes
  arrived : Bool
  failed : Bool
  /-- Discarded while its read was in flight (R70). -/
  dead : Bool
  deriving DecidableEq, Repr, Inhabited

/-- A message in a receive ring (R163). -/
structure RingMsg where
  src : Nat
  sport : Nat
  units : Nat
  off : Nat
  taken : Bool
  freed : Nat
  /-- Destination epoch under which it was delivered: the tag of its credits. -/
  epoch : Nat
  deriving DecidableEq, Repr, Inhabited

/-- A message port (R160 to R164). -/
structure Port where
  kind : Nat
  dst : Nat
  dport : Nat
  epoch : Nat
  maxlen : Nat
  credits : Nat
  nacked : Bool
  nackEpoch : Nat
  /-- Messages sent and not yet accepted or returned. -/
  pending : Nat
  base : Nat
  size : Nat
  wr : Nat
  ring : List RingMsg
  deriving DecidableEq, Repr, Inhabited

/-- A ticket (NBU_TICKETn, R168). -/
structure Ticket where
  state : Nat
  error : Nat
  pc : Nat
  layer : Nat
  bank : Nat
  word : Nat
  left : Nat
  /-- Named banks (R63). -/
  banks : Nat
  deriving DecidableEq, Repr, Inhabited

/-- A load or AMO that has issued and not yet returned its data: `tags` are those of its reads of host memory, with the byte
of the access at which each starts. -/
structure LdWait where
  tags : List (Nat × Nat × Nat)
  rd : Nat
  vec : Bool
  len : Nat
  sx : Bool
  pg : Word
  ew : Nat
  da : Nat
  amo : Option Nat
  buf : Bytes
  left : Nat
  deriving DecidableEq, Repr, Inhabited

/-- A fault of asynchronous work on its way to the core (R74). -/
structure Impr where
  cause : Nat
  addr : Nat
  mseq : Nat
  ticket : Nat
  deriving DecidableEq, Repr, Inhabited

/-- Exception and check registers (R76, R77, R95). -/
structure Exc where
  cause : Nat
  second : Nat
  imprecise : Bool
  mseq : Nat
  ticket : Nat
  pc : Nat
  addr : Nat
  chk0 : Word
  chk1 : Word
  chkSet : Bool
  /-- MSEQ names the operation of the role's first CHECK_COLUMN (R95). -/
  chkSeq : Bool
  deriving DecidableEq, Repr, Inhabited

/-- System registers and the entry record (R142 to R144). -/
structure Sysr where
  entry : Nat
  userPc : Nat
  clean : Bool
  /-- One SCLR with ICACHE, PREDICTOR and SBUF has completed since the core last left user mode (R144). -/
  cold : Bool
  fwVector : Word
  /-- The pc of a UENTER that has cleared the registers and waits (R144). -/
  uenter : Option Nat
  deriving DecidableEq, Repr, Inhabited

/-- Counts of the trace record (R490). -/
structure CoreStat where
  rows : Nat
  prefetches : Nat
  discarded : Nat
  failed : Nat
  nanSrc : Nat
  msgUnits : Nat
  nackRet : Nat
  /-- Corrected errors of the scratch (R54). -/
  scratchFixed : Nat
  deriving DecidableEq, Repr, Inhabited

/-- One Garno core, keyed by logical core. -/
structure Core where
  run : Nat
  fw : Bool
  ctx : Nat
  epoch : Nat
  pc : Nat
  s : Tbl Word
  v : Tbl V512
  p : Tbl Word
  /-- Accumulator rows, keyed by tile × 16 + row. -/
  a : Tbl V512
  q : Tbl QDesc
  m : Tbl Port
  exc : Exc
  sys : Sysr
  blk : Blk
  /-- Earlier stationary loads, replaced by a later one, that have not read their stream yet: stream, first unit, issue number
  (R92, R155). -/
  blkOld : List (Nat × Nat × Nat)
  arr : Tbl (List ArrOp)
  /-- Tiles whose last operation faulted and streams that a faulted operation consumed: no instruction reads them (R74). -/
  badTiles : List Nat
  badStreams : List Nat
  issue : Nat
  tickets : Tbl Ticket
  sbuf : List SbLine
  /-- The instruction cache (R56): lines by DA div 128, each with the mask of its good code words, oldest first; and the line of
  a fetch that is on its way through a cluster cache. -/
  icache : List (Nat × Nat)
  ifill : Option Nat
  wait : Option LdWait
  /-- Posted writes and reductions not yet performed or refused (R65). -/
  outst : Nat
  /-- Last address of host memory stored to since the last read-back, and the tag of a read-back in flight (R64). -/
  hostDirty : Option Nat
  readBack : Option Nat
  impr : List Impr
  job : Nat
  stage : Nat
  stat : CoreStat
  deriving DecidableEq, Repr, Inhabited

/-- A message in flight (R161); HUB's events carry source 0x7FF. `role` is the epoch of the sending role (the model's own
bookkeeping: a return or acceptance concerns the role that sent). -/
structure Msg where
  src : Nat
  role : Nat
  sport : Nat
  dst : Nat
  dport : Nat
  epoch : Nat
  ctx : Nat
  data : Bytes
  deriving DecidableEq, Repr, Inhabited

/-- A message on its way back to its sender (R162); `tag` is the epoch it was sent under. Only HUB keeps what its event said. -/
structure Nack where
  core : Nat
  role : Nat
  port : Nat
  dst : Nat
  dport : Nat
  tag : Nat
  epoch : Nat
  units : Nat
  event : Bytes
  deriving DecidableEq, Repr, Inhabited

/-- Credits in flight to a send port, or held by its sending interface (R276). -/
structure Cred where
  core : Nat
  port : Nat
  dst : Nat
  dport : Nat
  epoch : Nat
  units : Nat
  deriving DecidableEq, Repr, Inhabited

/-- A grant of a channel (R275, R276). -/
structure Grant where
  src : Nat
  sport : Nat
  dst : Nat
  dport : Nat
  epoch : Nat
  maxlen : Nat
  credits : Nat
  base : Nat
  units : Nat
  released : Bool
  job : Nat
  deriving DecidableEq, Repr, Inhabited

/-- The message network. -/
structure Net where
  msgs : List Msg
  nacks : List Nack
  creds : List Cred
  held : List Cred
  grants : List Grant
  deriving DecidableEq, Repr, Inhabited

end Sys2Proof.Machine
end

