-- ==== Sys2Proof/Machine/StateDma.lean ====
section
/-! DEFINITION. The state of the DMA engines, the check-value unit and the host port (chapters 14 and 15). -/

namespace Sys2Proof.Machine

/-- A write that a descriptor has still to make; `mask` names the bytes of a masked write of one code word (R309). -/
structure DWrite where
  da : Nat
  data : Bytes
  mask : Option Nat
  deriving DecidableEq, Repr, Inhabited

/-- A descriptor that holds a slot (R347, R352, R353). -/
structure DRun where
  desc : Bytes
  /-- Device address of the descriptor. -/
  da : Nat
  /-- All checks are passed and it has begun: an operation on keys settles its counts and its descriptor at its end (R310, R311). -/
  begun : Bool
  /-- All checks are passed and it waits, holding its slot, for a check-value channel or a staging part (R359, R362). -/
  parked : Bool
  /-- The bytes read so far, with zeros where remote reads are outstanding, and the number of those. -/
  inp : Bytes
  reads : Nat
  /-- Words of the pennant descriptor, and the generation, keys and SEAL value of a payload or pennant operation. -/
  pd : Bytes
  gen : Nat
  key : Bytes
  key2 : Bytes
  sealNo : Nat
  /-- Its writes have left the engine, or it has ended with a code; its STATUS has been written. -/
  moved : Bool
  stated : Bool
  /-- Outstanding read-backs and remote acknowledgements: 2 × tag in host memory, 2 × tag + 1 on a link. -/
  tags : List Nat
  /-- Device address of the read-back (R352). -/
  back : Nat
  code : Nat
  detail : Nat
  /-- The check-value channel that it feeds. -/
  crc : Option Nat
  preempted : Bool
  /-- A store of management firmware has cleared ENABLE under it (R354). -/
  stop : Bool
  /-- When it took its slot (R353). -/
  order : Nat
  deriving DecidableEq, Repr, Inhabited

/-- A DMA channel (R344, R345): HUB channel n has key n, channel n of cluster h key 256 + 16h + n. -/
structure Chan where
  enable : Bool
  host : Bool
  overrun : Bool
  ringErr : Bool
  /-- Stopped until the next write of its producer index (R345). -/
  stopped : Bool
  ctx : Nat
  bell : Nat
  log2 : Nat
  base : Nat
  prod : Nat
  cons : Nat
  run : Option DRun
  deriving DecidableEq, Repr, Inhabited

/-- A check-value channel (R360 to R363). -/
structure CrcCh where
  host : Bool
  collide : Bool
  /-- Disabled by the DESTROY of its context. -/
  off : Bool
  alg : Nat
  ctx : Nat
  value : Nat
  deriving DecidableEq, Repr, Inhabited

/-- The DMA engines and the check-value unit. -/
structure Dma where
  ch : Tbl Chan
  /-- Slots taken so far: the order of R353. -/
  started : Nat
  /-- Last ordinary channel served, by engine: 0 HUB, h + 1 (R353). -/
  last : Tbl Nat
  crc : Tbl CrcCh
  /-- CRC_MODE.MODE is 0 (its reset value is 1). -/
  mode0 : Bool
  deriving DecidableEq, Repr, Inhabited

/-- An entry of the queue table with its index word (R371), and HUB's interrupt moderation (R376). -/
structure QEntry where
  kind : Nat
  ien : Bool
  vector : Nat
  log2 : Nat
  delay : Nat
  job : Nat
  ring : Nat
  shadow : Nat
  hidx : Nat
  midx : Nat
  /-- The interval of INT_DELAY is running; a message is owed at its end. -/
  interval : Bool
  owed : Bool
  deriving DecidableEq, Repr, Inhabited

/-- The queue engine (R371 to R377). -/
structure Que where
  q : Tbl QEntry
  /-- Logical cores whose slices hold the copies, primary first. -/
  copies : List Nat
  cfg0 : Word
  cfg1 : Word
  cfg2 : Word
  cmd : Option Word
  overrun : Bool
  code : Nat
  job : Nat
  readH : Nat
  readM : Nat
  rejQueue : Nat
  rejReason : Nat
  rejCount : Nat
  /-- MIDX values that home caches have forwarded: queue and value (R372). -/
  midx : List (Nat × Nat)
  /-- Completions that HUB posts once their queue has room: queue and entry (R341). -/
  late : List (Nat × Bytes)
  deriving DecidableEq, Repr, Inhabited

/-- The host port (R364 to R381): configuration space as written, MSI-X, power management, IDE. -/
structure HostPort where
  /-- Configuration words as written: function × 4096 + offset. -/
  cfg : Tbl Nat
  /-- MSI-X table, by 32-bit word: entry × 4 + word; the vector control is held inverted (reset: masked). -/
  msix : Tbl Nat
  pba : List Nat
  /-- MSI-X Enable and Function Mask; codes of Max Payload Size and Max Read Request Size of function 0 (R364; log entry 101). -/
  msixEn : Bool
  msixMask : Bool
  mps : Nat
  mrrs : Nat
  d3hot : Bool
  pmeEn : Bool
  pmeStatus : Bool
  wake : Bool
  /-- IDE streams in Secure state, of 4, and their keys: stream × 8 + sub-stream × 2 + direction (R378, R416). -/
  secure : List Nat
  ideKeys : Tbl Bytes
  /-- Tag of the next request to host memory. -/
  tag : Nat
  /-- Straps sampled at bring-up (R434). -/
  bifur : Bool
  addr : Nat
  /-- Lower halves of write-only command registers, by offset (R18, R20). -/
  lo : Tbl Nat
  deriving DecidableEq, Repr, Inhabited

end Sys2Proof.Machine
end

