-- ==== Sys2Proof/Machine/StateHub.lean ====
section
/-! DEFINITION. The state of HUB: power, reset, bring-up, alerts, access errors, mailbox (chapters 01, 18, 19, 22, 23). -/

namespace Sys2Proof.Machine

/-- HUB_ALERT_CAUSE (R526): bits 9:0 and FIRST. -/
structure Alert where
  first : Nat
  causes : BitVec 10
  deriving DecidableEq, Repr, Inhabited

/-- HUB_ACCESS_ERR (R527). -/
structure AccessErr where
  width : Bool
  unmapped : Bool
  unbacked : Bool
  bar : Nat
  count : Nat
  offset : Nat
  deriving DecidableEq, Repr, Inhabited

/-- HUB_BOOT_STATUS and HUB_BOOT_MISMATCH (R450), and the manifest values that later steps read (R437). -/
structure Boot where
  state : Nat
  step : Nat
  cause : Nat
  slot : Nat
  svn : Nat
  elapsed : Nat
  misCluster : Nat
  misPorts : Nat
  misGuest : Bool
  misDie : Nat
  expPorts : Nat
  expGuest : Nat
  peerSvnMin : Nat
  /-- While step 5 goes on: what the bring-up met, the slot's manifest, the blocks that cores still lack (physical core, block,
  requests made), and the physical cores that have failed (R447). -/
  bring : Option (BootIn × SlotInfo)
  lacks : List (Nat × Nat × Nat)
  failed : List Nat
  /-- Dies whose PLL has lost lock once in step 5 (R440). -/
  relocked : List Nat
  deriving DecidableEq, Repr, Inhabited

/-- HUB_MBOX registers and the data window (R439). -/
structure Mbox where
  cmd : Option Word
  overrun : Bool
  code : Nat
  seq : Nat
  window : List Host.Cell
  deriving DecidableEq, Repr, Inhabited

/-- Flash and fuses (R435, R437). -/
structure Flash where
  slots : Tbl SlotInfo
  /-- What STAGE has programmed: 4 KiB chunks by flash address / 4096. -/
  chunks : Tbl Bytes
  /-- Boot log: records appended, oldest first. -/
  log : List Bytes
  fuseSvn : Nat
  fabricId : Option Nat
  fabricPeers : List Nat
  deriving DecidableEq, Repr, Inhabited

end Sys2Proof.Machine
end

