-- ==== Sys2Proof/Machine/StateJob.lean ====
section
/-! DEFINITION. The state of jobs, contexts, sessions, dies, clusters and fault collectors (chapters 01, 11, 17, 20). -/

namespace Sys2Proof.Machine

/-- A core entry of a placement record (R266). -/
structure CoreEntry where
  lcore : Nat
  stage : Nat
  entryPc : Nat
  lo : Nat
  hi : Nat
  deriving DecidableEq, Repr, Inhabited

/-- A port entry of a placement record (R267). -/
structure PortEntry where
  src : Nat
  dst : Nat
  sport : Nat
  dport : Nat
  maxlen : Nat
  linked : Bool
  credits : Nat
  units : Nat
  base : Nat
  deriving DecidableEq, Repr, Inhabited

/-- A placement record as accepted (R264 to R267). -/
structure PlaceRec where
  bytes : Bytes
  segmented : Bool
  ctx : Nat
  guidon : Nat
  cores : List CoreEntry
  ports : List PortEntry
  qFirst : Nat
  qCount : Nat
  eventUnits : Nat
  eventBase : Nat
  segment : Nat
  nseg : Nat
  tag : Nat
  deriving DecidableEq, Repr, Inhabited

/-- A job (R269 to R273, R480 to R485); `state` is SEC_JOBn.STATE. -/
structure Job where
  state : Nat
  rc : PlaceRec
  restarts : Nat
  /-- HUB counts of its restarts within the last 10 s (R485). -/
  times : List Nat
  ended : List Nat
  payCh : Nat
  openSerials : Nat
  /-- Pending job faults as the collectors hold them: SOURCE and CLASS. -/
  faults : List (Nat × Nat)
  /-- A slice of the job was mapped out since its last start (R487). -/
  mappedOut : List Nat
  /-- Credits of the guidon's event port that HUB holds (R279). -/
  evCredits : Nat
  /-- Events that HUB has still to send: RESTARTED, KEY_ROTATED (kind and generation), DOORBELL (queues); and the queues of the
  events whose credit has not come back (none for the other two). -/
  evRestarted : Bool
  evKeys : List (Nat × Nat)
  evQueues : List Nat
  evOut : List (Option Nat)
  /-- Grants that the records of other live jobs had at its cores when it stopped for a restart (R280). -/
  links : List Grant
  /-- R397: the restart under way answers a fault; it has passed step 5; window-epoch notices received for it, by mirror key. -/
  awaits : Bool
  stepped : Bool
  heard : List Nat
  deriving DecidableEq, Repr, Inhabited

/-- A context (R406, R416 to R420, R426, R431). -/
structure Ctx where
  defined : Bool
  creation : Nat
  bound : Bool
  secret : Bytes
  payCur : Option Bytes
  payPrev : Option Bytes
  payPend : Option Bytes
  payGen : Nat
  kvKey : Bytes
  kvPrev : Option Bytes
  kvGen : Nat
  curImages : Nat
  prevImages : Nat
  /-- SEAL sequence of the current KV generation (R308) and last SERIAL of the payload generation (R320). -/
  sealSeq : Nat
  serial : Nat
  page : Option Nat
  pageSeq : Nat
  rows : Nat
  lines : Nat
  steps : Nat
  units : Nat
  dmaBytes : Nat
  created : Nat
  deriving DecidableEq, Repr, Inhabited

/-- The owner of a bank (R407). -/
structure Owner where
  owned : Bool
  hub : Bool
  host : Nat
  ctx : Nat
  deriving DecidableEq, Repr, Inhabited

/-- An SPDM session (R423, R425, R430). -/
structure Sess where
  active : Bool
  rootPort : Bool
  ctx : Option Nat
  secret : Bytes
  updates : Nat
  beats : Nat
  deriving DecidableEq, Repr, Inhabited

/-- SEC registers (R432). -/
structure Sec where
  cmd : Option Word
  overrun : Bool
  genBusy : Bool
  code : Nat
  arg : Word
  ideRequired : Bool
  deny : Nat
  creations : Nat
  deriving DecidableEq, Repr, Inhabited

/-- A fault report on its way to a collector: 0 HUB, n + 1 for die Dn (R477 to R480). -/
structure Report where
  col : Nat
  cls : Nat
  source : Nat
  job : Nat
  reporter : Nat
  stage : Nat
  cause : Nat
  detail : Nat
  deriving DecidableEq, Repr, Inhabited

/-- A record of a collector (DIE_FLT_RECn). -/
structure FltRec where
  valid : Bool
  cls : Nat
  source : Nat
  job : Nat
  epoch : Nat
  count : Nat
  first : Nat
  reporters : Nat
  lockSeq : Nat
  stage : Nat
  cause : Nat
  detail : Nat
  updated : Nat
  deriving DecidableEq, Repr, Inhabited

/-- A fault collector (R480). -/
structure Collector where
  overflow : Nat
  reports : Nat
  recs : Tbl FltRec
  /-- JOB_EPOCH of each job as the collector holds it. -/
  epochs : Tbl Nat
  deriving DecidableEq, Repr, Inhabited

/-- A compute die (R37, R39, R43). -/
structure Die where
  up : Bool
  locked : Bool
  lockSeq : Nat
  count : Nat
  deriving DecidableEq, Repr, Inhabited

/-- A cluster h = 4n + c (R43, R274, R433, R443, R465). -/
structure Clu where
  mapGen : Nat
  /-- Physical cores that are good and unassigned, and half-width cores left over (R43, R443). -/
  spares : List Nat
  leftover : List Nat
  dropEpoch : Nat
  dropOther : Nat
  dropLast : Word
  recFuse : Nat
  recTest : Nat
  recDisagree : Nat
  recHalf : Nat
  recBunting : Nat
  recGood : Nat
  switches : Nat
  served : Bool
  ctx : Nat
  mhz : Nat
  changes : Nat
  /-- Dip level in force and core clock that HUB has ordered (R464, R465); dip counts down from 15. -/
  undip : Nat
  target : Nat
  deriving DecidableEq, Repr, Inhabited

/-- HUB_PLACE registers (R270). -/
structure Place where
  addr : Nat
  cmd : Option Word
  overrun : Bool
  code : Nat
  job : Nat
  index : Nat
  kind : Nat
  deriving DecidableEq, Repr, Inhabited

end Sys2Proof.Machine
end

