-- ==== Sys2Proof/Machine/StateLink.lean ====
section
/-! DEFINITION. The state of the Ngamel ports, the die-to-die pairs and the guest site (chapter 16). -/

namespace Sys2Proof.Machine

/-- A Ngamel port (R383 to R393). -/
structure LPort where
  state : Nat
  narrow : Bool
  width : Nat
  bridge : Bool
  peer : Nat
  /-- Key and salt of each direction (R390, R416); transmit and receive key phases, last counter sent and last accepted. -/
  txKey : Bytes
  rxKey : Bytes
  phase : Bool
  rxPhase : Bool
  /-- The peer has started a key update and has not used its new key yet (R392). -/
  rxNew : Bool
  tx : Nat
  rx : Nat
  replay : Nat
  tagFail : Nat
  nak : Nat
  retrain : Nat
  /-- Failures in a row at one counter (R391). -/
  fails : Nat
  /-- Credits held for each virtual channel (R389). -/
  credits : Tbl Nat
  /-- Units of received frames to return to the peer, for each virtual channel. -/
  owe : Tbl Nat
  /-- Frames sent and not yet covered by ACK_CTR, and frames held for credits, with their types. -/
  retry : List (Nat × Frame)
  held : List (Nat × Frame)
  deriving DecidableEq, Repr, Inhabited

/-- A window entry (R395). -/
structure Win where
  w0 : Word
  w1 : Word
  deriving DecidableEq, Repr, Inhabited

/-- Who waits for a remote response. -/
inductive RemWho where
  | core (c : Nat)
  | dma (k off : Nat)
  /-- Nobody any more: the load has ended in a cause. -/
  | gone
  /-- A posted store of a core that has been drained since, with the job and stage of its role (R142). -/
  | drained (c job stage : Nat)
  deriving DecidableEq, Repr, Inhabited

/-- A request of this module that another module has not answered (R281, R398). -/
structure RemReq where
  tag : Nat
  port : Nat
  who : RemWho
  write : Bool
  da : Nat
  len : Nat
  deriving DecidableEq, Repr, Inhabited

/-- The links. -/
structure Link where
  ports : Tbl LPort
  /-- Windows, keyed by port × 16 + window. -/
  wins : Tbl Win
  stage0 : Word
  stage1 : Word
  cmd : Option Word
  code : Nat
  /-- Window epochs of each peer, keyed by peer × 16 + window (R397). -/
  mirror : Tbl Nat
  rem : List RemReq
  /-- Window epoch of each job number (R397, R399); 0 before its first start. -/
  jobEpoch : Tbl Nat
  tag : Nat
  deriving DecidableEq, Repr, Inhabited

/-- A die-to-die pair (R400, R401). -/
structure Pair where
  state : Nat
  degraded : Bool
  rate : Nat
  modules : Nat
  /-- Lanes at which each module has trained; modules that have narrowed to 32 lanes since. -/
  base : Nat
  narrow : Nat
  repairs : Nat
  retries : Nat
  /-- Retries of each lane in this housekeeping round, and repairs of each module; key module × 64 + lane. -/
  round : Tbl Nat
  repaired : Tbl Nat
  deriving DecidableEq, Repr, Inhabited

/-- The guest site (R402 to R405). -/
structure Guest where
  vendor : Nat
  partner : Nat
  device : Nat
  power : Nat
  csr : Nat
  timeouts : Nat
  present : Bool
  temp : Nat
  /-- Owner of its requests as management firmware assigns it: none is the host (R404). -/
  owner : Option Nat
  /-- The forwarded accesses that wait for a response, oldest first: width, and whether it is a write. -/
  waiting : List (Nat × Bool)
  /-- Tags of its reads of host memory that are on their way. -/
  rds : List Nat
  deriving DecidableEq, Repr, Inhabited

end Sys2Proof.Machine
end

