-- ==== Sys2Proof/Machine/StateMem.lean ====
section
/-! DEFINITION. The state of a slice: halyard controller, near-bank units, cluster cache (chapters 07 to 10). -/

namespace Sys2Proof.Machine

/-- Requesters of a halyard controller, in the order of HAL_ERR_LOG0.REQ (R218). -/
inductive Requester where
  | ownCore | otherCore | cacheFill | dma | host | remote | nearBank | scrubber | merge
  deriving DecidableEq, Repr, Inhabited

/-- An entry of the merge buffer (R211); `word` is the slice offset divided by 32. -/
structure MergeEntry where
  word : Nat
  data : Bytes
  mask : Nat
  own : Bool
  deriving DecidableEq, Repr, Inhabited

/-- A request that a halyard controller has accepted and not yet performed (R189, R241, R254). It lies in one line (R175);
bit `i` of `mask` says that byte `off + i` is read or written. -/
structure HReq where
  req : Requester
  core : Nat
  ack : Bool
  cls : Nat
  off : Nat
  write : Bool
  data : Bytes
  mask : Nat
  len : Nat
  /-- The write waits for the confirmation of the home cache (R254). -/
  waits : Bool
  /-- The flush of a merge-buffer entry (R212); `ack` is then its own-core flag. -/
  flush : Bool
  /-- A run-ahead read: its line goes to the stream buffer (R67). -/
  pre : Bool
  deriving DecidableEq, Repr, Inhabited

/-- A spare via (HAL_SPAREn). -/
structure Spare where
  valid : Bool
  inService : Bool
  target : Nat
  deriving DecidableEq, Repr, Inhabited

/-- Via errors and repair of a halyard (R176, R181, R185, R186). -/
structure HalVia where
  spares : Tbl Spare
  lastVia : Nat
  lastCa : Nat
  retired : Nat
  capRetry : Nat
  attributed : Nat
  /-- Events of each via in the round in progress. -/
  round : Tbl Nat
  /-- Symbols, by their first via, in an uncorrectable error or mismatch in this round and in the last one. -/
  badNow : List Nat
  badLast : List Nat
  /-- Data and check vias found bad so far, at training or in service, on either half (R182, R186). -/
  bad : List Nat
  /-- Vias due for retirement at the next window: 0 to 575 data and check, 576 + n command. -/
  due : List Nat
  deriving DecidableEq, Repr, Inhabited

/-- Error counts and logs (HAL_ECC_COUNT, HAL_ERR_LOG0, HAL_ERR_LOG1). -/
structure HalErr where
  corrected : Nat
  uncorrectable : Nat
  residue : Nat
  v0 : Bool
  kind0 : Nat
  req0 : Nat
  off0 : Nat
  v1 : Bool
  sym1 : Nat
  pat1 : Nat
  off1 : Nat
  deriving DecidableEq, Repr, Inhabited

/-- Scrubber (R216 to R218). -/
structure HalScrub where
  enabled : Bool
  line : Nat
  laps : Nat
  valid : Bool
  late : Bool
  lockSeq : Nat
  cycles : Nat
  /-- LIMIT as firmware wrote it; none while it holds its reset value 0x00A4_CB80. -/
  limit : Option Nat
  lapStart : Nat
  deriving DecidableEq, Repr, Inhabited

/-- Test mode (R215). -/
structure HalTest where
  mode : Nat
  refused : Bool
  bank : Nat
  check : Nat
  deriving DecidableEq, Repr, Inhabited

/-- Repair of one layer (HAL_REPAIRn). -/
structure Repair where
  rowsFuse : Nat
  rowsTest : Nat
  colsFuse : Nat
  colsTest : Nat
  unrepairable : Nat
  disagree : Nat
  deriving DecidableEq, Repr, Inhabited

/-- One halyard controller with its slice's controls, keyed by physical core. -/
structure Hal where
  train : Nat
  half : Bool
  halfSel : Bool
  degraded : Bool
  recalCount : Nat
  bands : Tbl Nat
  /-- The band in force when the last window closed (R196). -/
  bandSet : Nat
  pauses : Nat
  owed : Tbl Nat
  owedMax : Tbl Nat
  via : HalVia
  grants : Tbl Nat
  starved1 : Nat
  starved2 : Nat
  st1 : Nat
  st2 : Nat
  region : BitVec 128
  changes : Nat
  merge : List MergeEntry
  flushes : Nat
  rmwErrors : Nat
  test : HalTest
  scrub : HalScrub
  err : HalErr
  repair : Tbl Repair
  reqs : List HReq
  /-- Corrected words waiting for their write-back, by requesters and by the scrubber. -/
  fix : List Nat
  scrubFix : List Nat
  deriving DecidableEq, Repr, Inhabited

/-- The unit of one bank (R225). -/
structure NbUnit where
  active : Bool
  ticket : Nat
  core : Nat
  ctx : Nat
  image : List Word
  ip : Nat
  x : Tbl Nat
  f : Tbl Nat
  acc : List Nat
  /-- Loop levels, innermost first: first word, last word, repetitions left. -/
  loops : List (Nat × Nat × Nat)
  /-- Groups or rows of the current instruction that earlier steps have done. -/
  done : Nat
  /-- Token index and partial sums of SKEY MEAN. -/
  tok : Nat
  sums : List Nat
  /-- The unit has been asked to pause, and has paused (R243). -/
  pauseReq : Bool
  paused : Bool
  /-- Held requests performed at the boundary it is at (R241). -/
  served : Nat
  /-- Its place in the order of admission (R469). -/
  seq : Nat
  deriving DecidableEq, Repr, Inhabited

/-- A (program, bank) pair waiting for admission (R239). -/
structure NbPair where
  ticket : Nat
  core : Nat
  bank : Nat
  ctx : Nat
  image : List Word
  p1 : Word
  p2 : Word
  deriving DecidableEq, Repr, Inhabited

/-- Near-bank units of one slice. -/
structure Nbu where
  ended : Nat
  /-- LIMIT as firmware wrote it; none while it holds its reset value 0x20. -/
  limit : Option Nat
  steps : Nat
  held : Nat
  /-- Admissions so far. -/
  admits : Nat
  queue : List NbPair
  units : Tbl NbUnit
  deriving DecidableEq, Repr, Inhabited

/-- A line of a cluster cache (R248, R251, R255), keyed by DA div 128. -/
structure CLine where
  valid : Bool
  data : Bytes
  ctx : Nat
  sharers : Nat
  deriving DecidableEq, Repr, Inhabited

/-- What an access to a cluster cache asks for. -/
inductive CKind where
  | load | store | amo | fetch
  deriving DecidableEq, Repr, Inhabited

/-- The part of an access that lies in one line, on its way to a serving cache (R249). Bit `i` of `mask` says that byte
`da + i` is read or written. -/
structure CReq where
  core : Nat
  kind : CKind
  da : Nat
  len : Nat
  mask : Nat
  data : Bytes
  fn : Nat
  ctx : Nat
  /-- Address of the whole access, and its other part where it crosses a line: device address and length (R125). -/
  ea : Nat
  other : Option (Nat × Nat)
  /-- The die whose non-home cache sent the access on to the home, if one did. -/
  via : Option Nat
  /-- A reduction: an AMO that returns nothing and is posted (R128, R257). -/
  post : Bool
  deriving DecidableEq, Repr, Inhabited

/-- One cluster cache. -/
structure Cache where
  enabled : Bool
  invCtx : Nat
  hits : Nat
  misses : Nat
  invalSent : Nat
  invalWrite : Nat
  performed : Nat
  ctxMiss : Nat
  errValid : Bool
  errKind : Nat
  errCorrected : Nat
  errUncorrectable : Nat
  errSet : Nat
  errWay : Nat
  lines : Tbl CLine
  /-- Accesses in their order of acceptance, and misses waiting for their fill. -/
  q : List CReq
  fills : List CReq
  /-- Lines of a context under invalidation whose sharers have not all acknowledged (CC_STATUS.INV_BUSY, R256). -/
  leaving : List Nat
  deriving DecidableEq, Repr, Inhabited

end Sys2Proof.Machine
end

