-- ==== Sys2Proof/Machine/StatePwr.lean ====
section
/-! DEFINITION. The state of sensors, power, the meter board and its mirror, trace and serving (chapters 13, 19 to 22).
Temperatures are in 0.25 °C, draws in W. -/

namespace Sys2Proof.Machine

/-- A sensor (R454 to R458): DRAM diodes have key h × 72 + 9 × layer + spot, logic diodes 2000 + 18h + e, HUB diodes 3000 + e. -/
structure Sens where
  flag : Nat
  temp : Nat
  failed : Bool
  stuck : Bool
  /-- Rounds running in which the pair differed, or the estimate lay above; rounds in which the reading lay far above. -/
  runs : Nat
  highs : Nat
  deriving DecidableEq, Repr, Inhabited

/-- A spot (R457 to R461): DRAM spots have the key of their diode, logic spots 2000 + 9h + k, HUB pairs 3000 + k. -/
structure Spot where
  gov : Nat
  prev : Nat
  fcst : Nat
  /-- Sum over the rounds since the last cap update, and the average of the rounds before it. -/
  sum : Nat
  last : Rat
  /-- Thermal resistance once an update has changed it. -/
  rth : Option Rat
  deriving DecidableEq, Repr, Inhabited

/-- Sensors and water (R454 to R467). -/
structure Thm where
  inlet : Nat
  outlet : Nat
  flowTach : Nat
  flowEst : Nat
  /-- Pulses per litre (R520); none without a tachometer. -/
  tach : Option Nat
  /-- HUB counts of the tachometer's edges of the last 500 ms. -/
  edges : List Nat
  flowLow : Bool
  sens : Tbl Sens
  spots : Tbl Spot
  /-- HUB rounds without readings, by die; 5 for the guest die. -/
  missing : Tbl Nat
  seen : Tbl Bool
  deriving DecidableEq, Repr, Inhabited

/-- Power (R461 to R476). -/
structure Pwr where
  state : Nat
  emergency : Bool
  clamp : Bool
  belowFloor : Bool
  shutdown : Bool
  sdDram : Bool
  sdSite : Nat
  sdTemp : Nat
  /-- Cap in force, thermal cap and RTH once they have been formed; host limit as written. -/
  cap : Option Nat
  thermal : Option Nat
  rth : Option Nat
  limit : Option Nat
  volt : Nat
  current : Nat
  /-- Draws of the last rounds, newest first: 500 of them. -/
  draws : List Nat
  /-- Sums of the inlet and of the draw since the last cap update, and the averages before it. -/
  sumIn : Nat
  sumP : Nat
  lastIn : Rat
  lastP : Rat
  /-- Rounds since the last cap update, and averages formed so far. -/
  rounds : Nat
  formed : Nat
  /-- Rounds in which every forecast has been cool (R470). -/
  cool : Nat
  dipRaises : Nat
  emergencies : Nat
  clamps : Nat
  stuck : Nat
  deriving DecidableEq, Repr, Inhabited

/-- The meter board (R493 to R499). -/
structure Meter where
  id : Nat
  energy : Nat
  seconds : Nat
  seq : Nat
  powerFails : Nat
  tampers : Nat
  tamper : Bool
  voltOut : Bool
  overload : Bool
  /-- Supply is below 24 V and the board does not measure. -/
  off : Bool
  /-- Cover openings without supply, whose event records are still owed. -/
  owed : Nat
  /-- Signed records still held, newest first, and the event log, oldest first. -/
  records : List (Nat × Bytes)
  log : List Bytes
  deriving DecidableEq, Repr, Inhabited

/-- The mirror of the meter board in the module (R500, R501). -/
structure Mirror where
  id : Nat
  sw : Nat
  digestHi : Nat
  energy : Nat
  volt : Nat
  current : Nat
  power : Nat
  lastSeq : Nat
  updates : Nat
  lost : Bool
  tamper : Bool
  present : Bool
  cert : Bytes
  /-- Records by SEQ mod 8. -/
  recs : Tbl Bytes
  demand : Option Bytes
  deriving DecidableEq, Repr, Inhabited

/-- A sync record (R492). -/
structure Sync where
  t1 : Nat
  t2 : Nat
  d : Nat
  lockSeq : Nat
  valid : Bool
  deriving DecidableEq, Repr, Inhabited

/-- Trace (R489 to R492). -/
structure Trc where
  skipped : Nat
  sync : Tbl Sync
  cores : Tbl (List Word)
  clus : Tbl (List Word)
  deriving DecidableEq, Repr, Inhabited

/-- A request in a guidon's ledger (R326, R334). -/
structure SReq where
  entry : Bytes
  input : Bytes
  serial : Nat
  /-- Payload generation of its admission. -/
  gen : Nat
  attempt : Nat
  /-- Generated tokens that are logged. -/
  toks : List Nat
  /-- Plaintext images of stream entries and of the completion, in posting order, and how many are delivered. -/
  log : List Bytes
  posted : Nat
  /-- The completion's image is in the log. -/
  ended : Bool
  /-- Prefill of the history is done in this attempt. -/
  ready : Bool
  cancel : Bool
  shared : Nat
  accepted : Nat
  written : Nat
  /-- Prompt tokens processed, over all attempts (R322). -/
  fed : Nat
  /-- The index area of its sequence (R297), from its first prefill on. -/
  area : Option Nat
  /-- Tag of the read-back of the entry whose post is on its way (R336), and of that of its output buffer (R352). -/
  wait : Option Nat
  out : Option Nat
  /-- Positions of the history whose keys and values are committed (R327). -/
  done : Nat
  /-- Its pennant lists by KV unit: addresses of descriptors in pennant order (R290); and the pennants that its last step
  attends, by KV unit and head (R299). -/
  lists : List (List Nat)
  attend : List (List (List Nat))
  deriving DecidableEq, Repr, Inhabited

/-- An entry of the prefix table (R327): its tokens, whole pennants of them, and the pennants by KV unit. -/
structure Prefix where
  toks : List Nat
  lists : List (List Nat)
  deriving DecidableEq, Repr, Inhabited

/-- The completion of an entry that has no SERIAL and no place in the ledger (R322): queue, image, tag of its read-back. -/
structure Reply where
  queue : Nat
  img : Bytes
  wait : Option Nat
  deriving DecidableEq, Repr, Inhabited

/-- The serving runtime of a job's guidon (R313 to R340). -/
structure Serve where
  reqs : List SReq
  /-- PRODUCER of each submission queue as the last event gave it, and the queue visited last (R325, R326). -/
  known : Tbl Nat
  last : Nat
  /-- Restarts as RESTARTED reported them, and generations as KEY_ROTATED did. -/
  restarts : Nat
  payGen : Nat
  kvGen : Nat
  /-- The KV units of the placement (R284), and the logical cores whose slices still hold a copy of the retention store (R334). -/
  units : List KvUnit
  copies : List Nat
  /-- The job has restarted and the guidon has not taken RESTARTED yet (R337). -/
  stale : Bool
  prefixes : List Prefix
  replies : List Reply
  /-- Pennants claimed for a POPEN with the body kept for it (R300); pennants without a reference that wait for BUSY to clear, or
  for room in a ring for their PDISCARD (R290). -/
  opening : List (Nat × Nat)
  freeing : List Nat
  deriving DecidableEq, Repr, Inhabited

end Sys2Proof.Machine
end

