-- ==== Sys2Proof/Machine/State.lean ====
section
/-! DEFINITION. The state of the module, the reasons of a stop, and the state after reset. -/

namespace Sys2Proof.Machine

/-- Reasons for a fault. -/
inductive Fault where
  /-- A command names a unit that the module does not have (a core from 1,280, a cluster from 20, a die from 5, a port from 8);
  raised by the meanings of commands that name a unit; safe: the spec gives no such unit. -/
  | noUnit
  deriving DecidableEq, Repr

/-- Reasons for a refusal. -/
inductive Refusal where
  /-- The command has no meaning in this model yet; answered by an arm of the dispatch only; safe. -/
  | notModelled (mnemonic : String)
  deriving DecidableEq, Repr

/-- The state of the module. -/
structure State where
  /-- Commands waiting, first in first out (the block form's own field). -/
  pending : List Instr
  /-- Everything the module has sent out, oldest first. -/
  tx : List Tx
  /-- Index of the next free value (the model's own field; log entry 5). -/
  fresh : Nat
  -- power and reset
  struck : Bool
  perstOut : Bool
  halfMast : Bool
  hubCount : Nat
  hubPllLost : Bool
  boot : Boot
  alert : Alert
  accessErr : AccessErr
  mbox : Mbox
  flash : Flash
  -- dies, clusters, the map (R43): physical core + 1 of each logical core
  mapGen : Nat
  guestUp : Bool
  map : Tbl Nat
  dies : Tbl Die
  clus : Tbl Clu
  cores : Tbl Core
  -- slices: keyed by physical core h × 72 + p
  hals : Tbl Hal
  nbus : Tbl Nbu
  mem : List Host.Cell
  flips : List Host.Cell
  -- scratch: keyed by logical core × 2^20 + offset; 64-bit words that are uncorrectable, and those with a single error (R54)
  scratch : List Host.Cell
  scratchBad : List Nat
  scratchOne : List Nat
  caches : Tbl Cache
  /-- Invalidations on their way to a cache: cache, line, home cluster (R251). -/
  invals : List (Nat × Nat × Nat)
  net : Net
  -- jobs, contexts, sessions, faults
  jobs : Tbl Job
  place : Place
  ctxs : Tbl Ctx
  own : Tbl Owner
  sec : Sec
  sess : Tbl Sess
  reports : List Report
  flt : Tbl Collector
  serve : Tbl Serve
  -- DMA, host port, links, dies, guest
  dma : Dma
  que : Que
  host : HostPort
  lnk : Link
  pairs : Tbl Pair
  guest : Guest
  -- heat, power, meter, trace
  thm : Thm
  pwr : Pwr
  /-- A meter board is fitted: MTR_PRES_N reads low (R513, R514). -/
  mtrPres : Bool
  meter : Meter
  mtr : Mirror
  trc : Trc
  deriving DecidableEq, Repr, Inhabited

/-- The module right after reset: powered, hence with a meter board fitted (R514), PERST_N asserted, every register at its reset
value. Registers whose reset value is not zero and that stand as written: HUB_BOOT_STATUS.STEP and PWR_STATUS.STATE read 1, and function 0's
Max Read Request Size is 512 bytes (log entry 101). -/
def State.reset : State :=
  { (default : State) with
    boot := { (default : Boot) with step := 1 }
    pwr := { (default : Pwr) with state := 1 }
    mtrPres := true
    host := { (default : HostPort) with mrrs := 2 }
    meter := { (default : Meter) with id := Config.meterId } }

end Sys2Proof.Machine
end

