-- ==== Sys2Proof/Machine/Ops.lean ====
section
/-! DEFINITION. Named operations over registers, units, reports and exceptions. -/

namespace Sys2Proof.Machine

/-- The result of a command that names a unit: `s` where the unit exists. -/
def unit (ok : Bool) (s : State) : Host.Outcome State Fault Refusal :=
  if ok then .next s else .fault .noUnit

/-! Units -/

def State.core (s : State) (c : Nat) : Core := tget s.cores c
def State.setCore (s : State) (c : Nat) (x : Core) : State := { s with cores := tput s.cores c x }
def State.hal (s : State) (p : Nat) : Hal := tget s.hals p
def State.setHal (s : State) (p : Nat) (x : Hal) : State := { s with hals := tput s.hals p x }
def State.nbu (s : State) (p : Nat) : Nbu := tget s.nbus p
def State.setNbu (s : State) (p : Nat) (x : Nbu) : State := { s with nbus := tput s.nbus p x }
def State.cache (s : State) (h : Nat) : Cache := tget s.caches h
def State.setCache (s : State) (h : Nat) (x : Cache) : State := { s with caches := tput s.caches h x }
def State.die (s : State) (d : Nat) : Die := tget s.dies d
def State.setDie (s : State) (d : Nat) (x : Die) : State := { s with dies := tput s.dies d x }
def State.clu (s : State) (h : Nat) : Clu := tget s.clus h
def State.setClu (s : State) (h : Nat) (x : Clu) : State := { s with clus := tput s.clus h x }
def State.job (s : State) (j : Nat) : Job := tget s.jobs j
def State.setJob (s : State) (j : Nat) (x : Job) : State := { s with jobs := tput s.jobs j x }
def State.ctx (s : State) (n : Nat) : Ctx := tget s.ctxs n
def State.setCtx (s : State) (n : Nat) (x : Ctx) : State := { s with ctxs := tput s.ctxs n x }
def State.send (s : State) (t : Tx) : State := { s with tx := s.tx ++ [t] }

/-- Key of a free value that no command has used before (log entry 5). -/
def State.free (s : State) : Nat × State := (Config.freeNat s.fresh, { s with fresh := s.fresh + 1 })

/-- `n` free bytes (log entry 5). -/
def State.freeBytes (s : State) (n : Nat) : Bytes × State :=
  ((List.range n).map fun i => BitVec.ofNat 8 (Config.freeNat (s.fresh + i)), { s with fresh := s.fresh + n })

/-! Registers of a core (R51) -/

def Core.sreg (x : Core) (n : Nat) : Word := if n = 0 then 0 else tget x.s n
def Core.setS (x : Core) (n : Nat) (w : Word) : Core := if n = 0 then x else { x with s := tput x.s n w }
def Core.vreg (x : Core) (n : Nat) : V512 := tget x.v n
def Core.setV (x : Core) (n : Nat) (w : V512) : Core := { x with v := tput x.v n w }
/-- p0 reads all ones. -/
def Core.preg (x : Core) (n : Nat) : Word := if n = 0 then BitVec.allOnes 64 else tget x.p n
def Core.setP (x : Core) (n : Nat) (w : Word) : Core := if n = 0 then x else { x with p := tput x.p n w }
def Core.tile (x : Core) (t r : Nat) : V512 := tget x.a (t * 16 + r)
def Core.setTile (x : Core) (t r : Nat) (w : V512) : Core := { x with a := tput x.a (t * 16 + r) w }
def Core.queue (x : Core) (k : Nat) : List ArrOp := tget x.arr k
def Core.setQueue (x : Core) (k : Nat) (l : List ArrOp) : Core := { x with arr := tput x.arr k l }

/-- Array operations issued and not complete (CORE_STATE.M_PENDING). -/
def Core.mPending (x : Core) : Nat := (x.arr.map (fun e => e.2.length)).sum
/-- Active stream descriptors (CORE_STATE.S_ACTIVE). -/
def Core.sActive (x : Core) : Nat := (x.q.filter (fun e => e.2.state = 1)).length
/-- Outstanding tickets (CORE_STATE.NB_TICKETS). -/
def Core.ticketMask (x : Core) : Nat :=
  ((List.range 16).map fun t => if (tget x.tickets t).state = 1 then 2 ^ t else 0).sum

/-! The map (R25, R40 to R43) -/

/-- Physical core (cluster × 72 + place) behind a logical core; none when it is unbacked. -/
def State.phys (s : State) (c : Nat) : Option Nat :=
  if tget s.map c = 0 then none else some (c / 64 * 72 + (tget s.map c - 1))
def State.backed (s : State) (c : Nat) : Bool := decide (tget s.map c ≠ 0)
/-- Logical core in front of a physical core, if one is. -/
def State.lcoreOf (s : State) (p : Nat) : Option Nat :=
  (s.map.find? (fun e => e.1 / 64 * 72 + (e.2 - 1) = p)).map (·.1)
/-- R42, R450: one above the highest backed logical core, once bring-up has ended ready or degraded. -/
def State.lcoreLimit (s : State) : Nat :=
  if s.boot.state = 1 ∨ s.boot.state = 2 then s.map.foldl (fun a e => max a (e.1 + 1)) 0 else 0
def State.lcoreCount (s : State) : Nat := s.map.length

/-! Ownership (R407, R410) -/

/-- Who asks for a bank: a context, the host, or management firmware. -/
inductive Who where
  | ctx (n : Nat)
  | host
  | firmware
  deriving DecidableEq, Repr, Inhabited

def State.owner (s : State) (c b : Nat) : Owner := tget s.own (c * 128 + b)

/-- R410, space 0x00: whether the requester reaches the bank. -/
def State.reaches (s : State) (who : Who) (c b : Nat) (write : Bool) : Bool :=
  let o := s.owner c b
  match who with
  | .firmware => true
  | .ctx n => o.owned && !o.hub && decide (o.ctx = n)
  | .host => !o.hub && (!o.owned || decide (o.host = 2) || (write && decide (o.host = 1)))

/-- R413: a job that is live and not HELD has a core in the cluster. -/
def State.claims (s : State) (h : Nat) : List Nat :=
  (s.jobs.filter fun e => e.2.state ≠ 0 && e.2.state ≠ 2 && e.2.rc.cores.any (fun x => decide (x.lcore / 64 = h))).map
    (·.2.rc.ctx)
/-- CLU_CONTEXT.CLAIMED (R413, R433). -/
def State.claimed (s : State) (h : Nat) : Bool := (s.clu h).served && (s.claims h).contains (s.clu h).ctx

/-- R410, space 0x01: whether the requester reaches the scratch of a core. -/
def State.reachesScratch (s : State) (who : Who) (c : Nat) : Bool :=
  match who with
  | .firmware => true
  | .host => false
  | .ctx n => s.claimed (c / 64) && decide ((s.clu (c / 64)).ctx = n)

/-! Alerts (R526) -/

/-- Set alert cause `k`. -/
def State.alertOn (s : State) (k : Nat) : State :=
  let m : BitVec 10 := BitVec.ofNat 10 (2 ^ k)
  { s with alert := { first := if s.alert.causes = 0 then k + 1 else s.alert.first, causes := s.alert.causes ||| m } }

/-- Clear alert cause `k`: FIRST falls to zero when no cause is left. -/
def State.alertOff (s : State) (k : Nat) : State :=
  let c := s.alert.causes &&& ~~~(BitVec.ofNat 10 (2 ^ k))
  { s with alert := { first := if c = 0 then 0 else s.alert.first, causes := c } }

/-! Fault reports (R477 to R480) -/

/-- SOURCE of a unit of the given type. -/
def srcOf (typ i : Nat) : Nat := typ * 2048 + i

def State.report (s : State) (r : Report) : State := { s with reports := s.reports ++ [r] }

/-- Stage number of a core's entry in the record of its job. -/
def State.stageOf (s : State) (c : Nat) : Nat := (s.core c).stage

/-! Causes of R76 -/

def causeIllegal : Nat := 0x01
def causePriv : Nat := 0x02
def causeAlign : Nat := 0x03
def causeRange : Nat := 0x04
def causeSealed : Nat := 0x05
def causeResidue : Nat := 0x06
def causeRegion : Nat := 0x07
def causeAtomic : Nat := 0x08
def causeLen : Nat := 0x09
def causeScratch : Nat := 0x0A
def causeFetch : Nat := 0x0B
def causePoison : Nat := 0x0C
def causeCheck : Nat := 0x10
def causeMOperand : Nat := 0x11
def causeNb : Nat := 0x12
def causeDouble : Nat := 0x1F

/-- R478, R479: the report of an exception of a core as a fault of a job. -/
def State.reportExcOf (s : State) (c job stage cause addr : Nat) : State :=
  let mem := (cause = causeSealed || cause = causeResidue || cause = causeMOperand || cause = causeFetch) &&
    decide (addr / 2 ^ 40 = 0)
  let tgt := addr / 2 ^ 28 % 2048
  s.report
    { col := if mem then tgt / 256 + 1 else c / 256 + 1
      cls := if mem then 0x02 else if cause = causeCheck then 0x03 else if cause = causeDouble then 0x04 else 0x01
      source := if mem then srcOf 1 tgt else srcOf 0 c
      job := job
      reporter := c / 64
      stage := stage
      cause := cause
      detail := addr }

/-- The report of an exception of a core as a fault of the job of its role. -/
def State.reportExc (s : State) (c cause addr : Nat) : State := s.reportExcOf c (s.core c).job (s.core c).stage cause addr

/-! Taking an exception (R73 to R76, R143) -/

/-- The exception registers after an exception taken at `pc`. -/
def Core.recordExc (x : Core) (f : Impr) (imprecise : Bool) : Core :=
  { x with exc := { x.exc with
      cause := f.cause, second := 0, imprecise := imprecise, mseq := f.mseq, ticket := f.ticket,
      chkSeq := decide (f.cause = causeCheck), pc := x.pc, addr := f.addr } }

/-- Entry into firmware mode (R143): reason 0 exception, 1 END, 2 management request. -/
def Core.enterFw (x : Core) (reason run userPc : Nat) : Core :=
  { x with
    fw := true
    run := run
    pc := x.sys.fwVector.toNat % 2 ^ 48 / 8 * 8
    sys := { x.sys with entry := reason, userPc := userPc, clean := false, cold := false } }

/-- R75: an exception of a core. In user mode the core records it, enters firmware mode and halts in RUN 5;
in firmware mode it halts with cause DOUBLE. -/
def State.takeExc (s : State) (c : Nat) (f : Impr) (imprecise : Bool) : State :=
  let x := s.core c
  if x.fw then
    ((s.setCore c { x with run := 5, wait := none, exc := { x.exc with cause := causeDouble, imprecise := false, pc := x.pc, addr := 0 } }).reportExc
      c causeDouble 0)
  else
    (s.setCore c (({ x with wait := none }.recordExc f imprecise).enterFw 0 5 x.pc)).reportExc c f.cause f.addr

/-- A precise exception at the instruction at pc. -/
def State.precise (s : State) (c cause addr : Nat) : State := s.takeExc c ⟨cause, addr, 0, 0⟩ false

/-- R74: a fault of asynchronous work starts on its way to its core. -/
def State.imprecise (s : State) (c : Nat) (f : Impr) : State :=
  s.setCore c { s.core c with impr := (s.core c).impr ++ [f] }

/-- pc after an instruction that retires in order. -/
def State.setPc (s : State) (c pc : Nat) : State := s.setCore c { s.core c with pc := pc % 2 ^ 48 }
def State.advance (s : State) (c : Nat) : State := s.setPc c ((s.core c).pc + 8)

/-! Clocks (R17, R37, R39) -/

/-- The die's clocks run and the module serves. -/
def State.dieRuns (s : State) (d : Nat) : Bool :=
  !s.struck && s.perstOut && !s.halfMast && !s.hubPllLost && (s.die d).locked

/-- Half-mast, or the way into it: no new PLACE, doorbell event or descriptor start (R474). -/
def State.sleeping (s : State) : Bool := s.halfMast || decide (s.pwr.state = 3)

/-! Routes between the sites (R28, R29, R400): dies 0 to 4, HUB 5, guest 6 -/

def siteCol (a : Nat) : Nat := [0, 1, 2, 0, 2, 1, 1].getD a 0
def siteRow (a : Nat) : Nat := if a < 3 then 0 else 1

/-- Pairs that the route from `a` to `b` crosses: first along the column, then along the row. -/
def routePairs (a b : Nat) : List Nat :=
  (if a = 6 ∨ b = 6 then (if a = b then [] else [7]) else []) ++
    (if siteRow a ≠ siteRow b then [2 + siteCol a] else []) ++
    (([0, 1] : List Nat).filter fun k => decide (min (siteCol a) (siteCol b) ≤ k) && decide (k < max (siteCol a) (siteCol b))).map
      fun k => if siteRow b = 0 then k else 5 + k

/-- R401: no lost pair lies on the route. -/
def State.routeUp (s : State) (a b : Nat) : Bool := (routePairs a b).all fun k => decide ((tget s.pairs k).state ≠ 2)
/-- The way from `a` to `b` and back. -/
def State.bothWays (s : State) (a b : Nat) : Bool := s.routeUp a b && s.routeUp b a

end Sys2Proof.Machine
end

