-- ==== Sys2Proof/Machine/Memory.lean ====
section
/-! DEFINITION. Slices and scratch: codes, residues, the merge buffer, errors and permissions
(R54, R199 to R218, R249 to R254). -/

namespace Sys2Proof.Machine

/-! The sealed code (R203, R204) -/

/-- One step of multiplication in GF(2^8) with x^8 + x^4 + x^3 + x^2 + 1. -/
def gfDouble (x : Nat) : Nat := if x * 2 < 256 then x * 2 else (x * 2 - 256) ^^^ 0x1D

def gfMulAux : Nat → Nat → Nat → Nat → Nat
  | 0, _, _, acc => acc
  | n + 1, a, b, acc => gfMulAux n (gfDouble a) (b / 2) (if b % 2 = 1 then acc ^^^ a else acc)

def gfMul (a b : Nat) : Nat := gfMulAux 8 a b 0

def gfPow : Nat → Nat
  | 0 => 1
  | n + 1 => gfDouble (gfPow n)

/-- R204: syndrome S[j] of 36 symbols, Horner's rule from symbol 35 down. -/
def syndrome (j : Nat) (c : List Byte) : Nat :=
  c.foldr (fun x a => gfMul a (gfPow j) ^^^ x.toNat) 0

/-- What a decoder finds (R204). -/
inductive Decoded where
  | clean
  | corrected (sym pat : Nat)
  | uncorrectable
  deriving DecidableEq, Repr, Inhabited

/-- R204, on the symbols that differ from a valid word: the code is linear, so the syndromes are those of the difference. -/
def sealedDecode (diff : List Byte) : Decoded :=
  let s0 := syndrome 0 diff
  let s1 := syndrome 1 diff
  let s2 := syndrome 2 diff
  let s3 := syndrome 3 diff
  if s0 = 0 ∧ s1 = 0 ∧ s2 = 0 ∧ s3 = 0 then .clean
  else if s0 = 0 then .uncorrectable
  else
    match (List.range 36).find? (fun s =>
      let a := gfPow s
      gfMul s0 a = s1 && gfMul s1 a = s2 && gfMul s2 a = s3) with
    | some s => .corrected s s0
    | none => .uncorrectable

/-- R206: the residue of 32 bytes. -/
def residue (data : Bytes) : Nat :=
  (List.range 8).foldl (fun acc i =>
    let a := acc + leAt data (4 * i) 4
    if 2 ^ 32 ≤ a then a - 2 ^ 32 + 1 else a) 0

/-! Stored words: `mem` holds the data of the valid word last written, `flips` the change of each stored symbol since -/

/-- A bank's region: true when it is open (R199). -/
def Hal.isOpen (x : Hal) (b : Nat) : Bool := bit x.region b

/-- Bank number 16 L + b of a slice offset (R24). -/
def bankOf (off : Nat) : Nat := off / 2 ^ 21 % 128

/-- What a read of one code word gives (R204, R207): data, or the cause SEALED_UE or RESIDUE. -/
inductive WordRead where
  | ok (data : Bytes)
  | fixed (data : Bytes) (sym pat : Nat)
  | bad (cause : Nat)
  deriving DecidableEq, Repr, Inhabited

/-- The 36 changes of a stored word, `pw` = physical core × 2^23 + word. -/
def State.wordFlips (s : State) (pw : Nat) : Bytes := tgets s.flips (pw * 36) 36
def State.wordMem (s : State) (pw : Nat) : Bytes := tgets s.mem (pw * 32) 32

def State.readWord (s : State) (p w : Nat) : WordRead :=
  let pw := p * 2 ^ 23 + w
  let fl := s.wordFlips pw
  let data := s.wordMem pw
  if allZero fl then .ok data
  else if (s.hal p).isOpen (bankOf (w * 32)) then
    let stored := xorBytes data (fl.take 32)
    if residue stored = (residue data) ^^^ ofLe (fl.drop 32) then .ok stored else .bad causeResidue
  else
    match sealedDecode fl with
    | .clean => .ok (xorBytes data (fl.take 32))
    | .corrected sym pat =>
      let st := xorBytes data (fl.take 32)
      .fixed (if sym < 32 then st.set sym (st.getD sym 0 ^^^ BitVec.ofNat 8 pat) else st) sym pat
    | .uncorrectable => .bad causeSealed

/-! Error records (R185, R205, R210) -/

def sat (n x : Nat) : Nat := if 2 ^ n ≤ x then 2 ^ n - 1 else x
def wrap (n x : Nat) : Nat := x % 2 ^ n

/-- The first of the eight vias of a symbol of code word `w` (R174, R183): even words travel on the lower half, and all words on
the chosen half of a halyard at half width. -/
def Hal.symbolVia (x : Hal) (w sym : Nat) : Nat :=
  let h := if x.half then (if x.halfSel then 1 else 0) else w % 2
  if sym < 32 then h * 256 + 8 * sym else 512 + h * 32 + 8 * (sym - 32)

/-- A via is due for retirement at the next window, once (R185). -/
def HalVia.dueVia (v : HalVia) (k : Nat) : HalVia := if v.due.contains k then v else { v with due := v.due ++ [k] }

/-- Decide that the vias of a symbol are unreliable (R185). -/
def HalVia.distrust (v : HalVia) (b : Nat) : HalVia :=
  { v with due := v.due ++ ((List.range 8).map (b + ·)).filter fun k => !v.due.contains k }

/-- Count one event for the vias of a symbol: the sixteenth of a round makes them unreliable. -/
def HalVia.count (v : HalVia) (b : Nat) : HalVia :=
  let n := tget v.round b + 1
  let v := { v with round := tput v.round b n }
  if n = 16 then v.distrust b else v

/-- A symbol involved in an uncorrectable error or a mismatch, in this round and perhaps in the last one too. -/
def HalVia.involve (v : HalVia) (b : Nat) : HalVia :=
  let v := { v with badNow := if v.badNow.contains b then v.badNow else v.badNow ++ [b] }
  if v.badLast.contains b then v.distrust b else v

/-- The end of a round. -/
def HalVia.endRound (v : HalVia) : HalVia :=
  { v with attributed := wrap 32 ((v.round.map (·.2)).sum), round := [], badLast := v.badNow, badNow := [] }

def Requester.code : Requester → Nat
  | .ownCore => 0 | .otherCore => 1 | .cacheFill => 2 | .dma => 3 | .host => 4
  | .remote => 5 | .nearBank => 6 | .scrubber => 7 | .merge => 8

/-- R205: count and log a correction, and queue its write-back; a read by any other requester drops the scrubber's (R217). -/
def Hal.logFix (x : Hal) (w sym pat : Nat) (scrub : Bool) : Hal :=
  let x := { x with
    err := { x.err with corrected := sat 32 (x.err.corrected + 1), v1 := true, sym1 := sym, pat1 := pat, off1 := w * 32 }
    via := x.via.count (x.symbolVia w sym) }
  if scrub then { x with scrubFix := if x.scrubFix.contains w then x.scrubFix else x.scrubFix ++ [w] }
  else { x with fix := if x.fix.contains w then x.fix else x.fix ++ [w], scrubFix := x.scrubFix.filter (· ≠ w) }

/-- R210: record an uncorrectable word or a mismatch; the symbols that differ are those involved (R185; log entry 20). -/
def Hal.logBad (x : Hal) (w cause : Nat) (r : Requester) (fl : Bytes) : Hal :=
  let sy := (List.range 36).filterMap fun k => if fl.getD k 0 ≠ 0 then some (x.symbolVia w k) else none
  { x with
    err := { x.err with
      uncorrectable := if cause = causeSealed then sat 16 (x.err.uncorrectable + 1) else x.err.uncorrectable
      residue := if cause = causeResidue then sat 16 (x.err.residue + 1) else x.err.residue
      v0 := true, kind0 := if cause = causeSealed then 0 else 1, req0 := r.code, off0 := w * 32 }
    via := (if cause = causeResidue then sy.foldl HalVia.count x.via else x.via) |> sy.foldl HalVia.involve }

/-- R210: reports of a bad word: the job of the slice's role, and the requester's job when it differs; a unit fault only when the
core holds no role. -/
def State.reportBad (s : State) (p w cause : Nat) (reqJob reporter : Nat) : State :=
  match s.lcoreOf p with
  | none => s
  | some c =>
    let j := (s.core c).job
    let r : Report :=
      { col := c / 256 + 1, cls := 0x02, source := srcOf 1 c, job := j, reporter := reporter,
        stage := (s.core c).stage, cause := cause, detail := w * 32 }
    let s := s.report r
    if j ≠ 0 ∧ reqJob ≠ 0 ∧ reqJob ≠ j then s.report { r with job := reqJob } else s

/-- Who reads or writes through a halyard controller: requester kind, class, job, context, reporter bit. -/
structure By where
  req : Requester
  cls : Nat
  job : Nat
  ctx : Option Nat
  reporter : Nat
  /-- A prefetch: an error is recorded and reported to no collector (R69, R210). -/
  quiet : Bool := false
  deriving DecidableEq, Repr, Inhabited

/-! Arbitration (R188 to R191) -/

/-- A bank that runs no program (R189, R239). -/
def State.bankFree (s : State) (p b : Nat) : Bool := !(tget (s.nbu p).units b).active

/-- The code words that a request touches. -/
def HReq.words (r : HReq) : List Nat := (List.range ((r.off + r.len + 31) / 32 - r.off / 32)).map (r.off / 32 + ·)

/-- R189, R192: the requests that may be granted: confirmed, bank free or at its step boundary, none older to the same code word. -/
def eligible (free : Nat → Bool) : List HReq → List Nat → List HReq
  | [], _ => []
  | r :: t, seen =>
    let rest := eligible free t (seen ++ r.words)
    if !r.waits && free (bankOf r.off) && !(r.words.any seen.contains) then r :: rest else rest

/-- Some request of the list has class `k`. -/
def hasClass (l : List HReq) (k : Nat) : Bool := l.any fun r => decide (r.cls = k)

/-- The class that R189 and R190 grant next among the eligible requests `l`. -/
def grantClass (x : Hal) (l : List HReq) : Option Nat :=
  if hasClass l 1 && decide (32 ≤ x.st1) then some 1
  else if hasClass l 2 && decide (32 ≤ x.st2) then some 2
  else if hasClass l 0 then some 0
  else if hasClass l 1 then some 1
  else if hasClass l 2 then some 2
  else none

/-- R190: the starvation counts after a grant to class `k`, with the requests `l` eligible beside the granted one. -/
def Hal.starve (x : Hal) (l : List HReq) (k : Nat) : Hal :=
  { x with
    st1 := if k = 1 ∨ !hasClass l 1 then 0 else if k < 1 then min 32 (x.st1 + 1) else x.st1
    st2 := if k = 2 ∨ !hasClass l 2 then 0 else if k < 2 then min 32 (x.st2 + 1) else x.st2
    starved1 := if k = 1 ∧ 32 ≤ x.st1 then wrap 32 (x.starved1 + 1) else x.starved1
    starved2 := if k = 2 ∧ 32 ≤ x.st2 then wrap 32 (x.starved2 + 1) else x.starved2 }

/-- One grant of a line of bank `k` to a class (R175, HAL_GRANTn), counted for the starvation of the others (R190) and for the
requester's context (R431). -/
def State.grant (s : State) (p : Nat) (b : By) (k : Nat) : State :=
  let x := s.hal p
  let x := x.starve (eligible (fun m => s.bankFree p m || decide (m = k)) x.reqs []) b.cls
  let s := s.setHal p { x with grants := tput x.grants b.cls (wrap 64 (tget x.grants b.cls + 1)) }
  match b.ctx with
  | none => s
  | some k => s.setCtx k { s.ctx k with lines := (s.ctx k).lines + 1 }

/-! Writing -/

/-- R70: a write to a line discards the copies in the stream buffer of the slice's own core. -/
def State.dropLines (s : State) (p : Nat) (drop : SbLine → Bool) : State :=
  match s.lcoreOf p with
  | none => s
  | some c =>
    let x := s.core c
    let n := (x.sbuf.filter drop).length
    if n = 0 then s else
    s.setCore c { x with
      sbuf := (x.sbuf.filter (fun l => !(drop l && l.arrived))).map (fun l => if drop l then { l with dead := true } else l)
      stat := { x.stat with discarded := x.stat.discarded + n } }

/-- Store a valid word of the bank's region (R203, R206): later write-backs of that word are dropped (R205, R217). -/
def State.putWord (s : State) (p w : Nat) (data : Bytes) : State :=
  let pw := p * 2 ^ 23 + w
  let x := s.hal p
  { s.setHal p { x with fix := x.fix.filter (· ≠ w), scrubFix := x.scrubFix.filter (· ≠ w) } with
    mem := tputs s.mem (pw * 32) data
    flips := tclear s.flips (pw * 36) (pw * 36 + 36) }

/-- Bytes of `new` where the mask bit is set, of `old` elsewhere. -/
def mergeBytes (mask : Nat) (old new : Bytes) : Bytes :=
  (List.range 32).map fun i => if mask.testBit i then new.getD i 0 else old.getD i 0

def fullMask : Nat := 2 ^ 32 - 1

/-- R213, R214: flush one entry; the read and the write of a partial one are one grant (log entry 115). -/
def State.flushEntry (s : State) (p : Nat) (e : MergeEntry) (cls : Nat) : State :=
  let b : By := ⟨.merge, cls, 0, none, 0, false⟩
  let s := s.grant p b (bankOf (e.word * 32))
  let x := s.hal p
  let s := s.setHal p { x with flushes := wrap 32 (x.flushes + 1) }
  if e.mask = fullMask then s.putWord p e.word e.data
  else
    match s.readWord p e.word with
    | .ok old => s.putWord p e.word (mergeBytes e.mask old e.data)
    | .fixed old sym pat =>
      let s := s.setHal p ((s.hal p).logFix e.word sym pat false)
      s.putWord p e.word (mergeBytes e.mask old e.data)
    | .bad cause =>
      let x := s.hal p
      let s := s.setHal p { x.logBad e.word cause .merge (s.wordFlips (p * 2 ^ 23 + e.word)) with rmwErrors := sat 16 (x.rmwErrors + 1) }
      let s := s.reportBad p e.word cause 0 ((s.lcoreOf p).getD 0 / 64)
      if e.own then
        match s.lcoreOf p with
        | some c => s.imprecise c ⟨cause, c * 2 ^ 28 + e.word * 32, 0, 0⟩
        | none => s
      else s

/-- One more request is held for a step boundary (NBU_STATUS.HELD, R241). -/
def State.countHeld (s : State) (p : Nat) : State :=
  s.setNbu p { s.nbu p with held := wrap 32 ((s.nbu p).held + 1) }

/-- The flush of an entry becomes a request of its class, which waits for its turn (R33, R189), at a bank that runs a program for a
step boundary (R213). -/
def State.queueFlush (s : State) (p cls : Nat) (e : MergeEntry) : State :=
  let s := if s.bankFree p (bankOf (e.word * 32)) then s else s.countHeld p
  let x := s.hal p
  s.setHal p { x with reqs := x.reqs ++ [⟨.merge, 0, e.own, cls, e.word * 32, true, e.data, e.mask, 32, false, true, false⟩] }

/-- Take the entries that meet `sel` out of the buffer and have them flushed, oldest first (R212). -/
def State.flushWhere (s : State) (p : Nat) (sel : MergeEntry → Bool) (cls : Nat) : State :=
  let l := (s.hal p).merge
  let s := s.setHal p { s.hal p with merge := l.filter (fun e => !sel e) }
  (l.filter sel).foldl (fun s e => s.queueFlush p cls e) s

/-- Flush the entry of one word within an access to that word, whose turn has come. -/
def State.flushWord (s : State) (p w cls : Nat) : State :=
  let x := s.hal p
  match x.merge.find? (fun e => e.word = w) with
  | some e => (s.setHal p { x with merge := x.merge.filter (fun f => decide (f.word ≠ w)) }).flushEntry p e cls
  | none => s

/-- R211: the oldest entry leaves a buffer that is full: it is flushed within the turn of the write that needs its place, or waits for
a step boundary where its bank runs a program. -/
def State.makeRoom (s : State) (p : Nat) : State :=
  match (s.hal p).merge with
  | [] => s
  | e :: t =>
    if t.length < 31 then s
    else
      let s := s.setHal p { s.hal p with merge := t }
      if s.bankFree p (bankOf (e.word * 32)) then s.flushEntry p e 2 else s.queueFlush p 2 e

/-- R211: accept the part of a write that falls into one code word. An entry of a bank that runs a program is flushed at once, so
that the program's later steps read the new bytes (R242). -/
def State.writePart (s : State) (p w : Nat) (data : Bytes) (mask : Nat) (own : Bool) : State :=
  let s := s.dropLines p (fun l => decide (l.off / 128 = w / 4))
  if mask = fullMask then
    let x := s.hal p
    (s.setHal p { x with merge := x.merge.filter (fun e => decide (e.word ≠ w)) }).putWord p w data
  else
    let x := s.hal p
    let s := match x.merge.find? (fun e => e.word = w) with
      | some e =>
        let e' : MergeEntry := ⟨w, mergeBytes mask e.data data, e.mask ||| mask, e.own || own⟩
        s.setHal p { x with merge := x.merge.map (fun f => if f.word = w then e' else f) }
      | none =>
        let s := s.makeRoom p
        let x := s.hal p
        s.setHal p { x with merge := x.merge ++ [⟨w, mergeBytes mask [] data, mask, own⟩] }
    if (s.hal p).merge.any (fun e => decide (e.word = w) && decide (e.mask = fullMask)) || !s.bankFree p (bankOf (w * 32)) then
      s.flushWord p w 2
    else s

/-- The parts of a range between multiples of `g`: start and length. -/
def cuts (g off len : Nat) : List (Nat × Nat) :=
  if len = 0 then [] else
  (List.range ((off + len + g - 1) / g - off / g)).map fun i =>
    let lo := max off ((off / g + i) * g)
    (lo, min (off + len) ((off / g + i + 1) * g) - lo)

/-- A mask of the enabled bytes among `n`. -/
def maskOf (n : Nat) (en : Nat → Bool) : Nat := (List.range n).foldl (fun m i => if en i then m + 2 ^ i else m) 0

/-- The parts of a write of `data` at slice offset `off` by code word: word, 32 bytes and mask. -/
def splitWords (off : Nat) (data : Bytes) (en : Nat → Bool) : List (Nat × Bytes × Nat) :=
  let w0 := off / 32
  (List.range ((off + data.length + 31) / 32 - w0)).map fun i =>
    let w := w0 + i
    let idx := fun k => w * 32 + k
    let here := fun k => decide (off ≤ idx k) && decide (idx k < off + data.length) && en (idx k - off)
    (w, (List.range 32).map (fun k => if here k then data.getD (idx k - off) 0 else 0),
      (List.range 32).foldl (fun m k => if here k then m + 2 ^ k else m) 0)

/-! The home cache (R249 to R254) -/

/-- Line number of a slice address. -/
def lineOf (c off : Nat) : Nat := c * 2 ^ 21 + off / 128
/-- Home cluster of a line. -/
def homeOf (line : Nat) : Nat := line / 2 ^ 21 / 64
/-- Serving cache of a line on a die (R249). -/
def servingOf (d line : Nat) : Nat := if homeOf line / 4 = d then homeOf line else d * 4 + line % 4

def Cache.line (x : Cache) (line : Nat) : CLine := tget x.lines line

/-- Drop a line at one cache. -/
def State.dropAt (s : State) (h line : Nat) : State :=
  s.setCache h { s.cache h with lines := tput (s.cache h).lines line default }

/-- Dies that may share a home line. -/
def sharerDies (l : CLine) : List Nat := (List.range 5).filter fun d => l.sharers.testBit d

/-- R251: the home drops a line, after its sharers have dropped theirs; invalidations of the line that are on their way count
once. -/
def State.dropHome (s : State) (line : Nat) (forWrite : Bool) : State :=
  let h := homeOf line
  let l := (s.cache h).line line
  if l.valid then
    let ds := sharerDies l
    let new := ds.filter fun d => !s.invals.any fun e => decide (e.1 = servingOf d line) && decide (e.2.1 = line)
    let s := ds.foldl (fun s d => s.dropAt (servingOf d line) line) s
    let s := { s.dropAt h line with invals := s.invals.filter fun e => decide (e.2.1 ≠ line) }
    let x := s.cache h
    s.setCache h { x with invalSent := wrap 32 (x.invalSent + new.length), leaving := x.leaving.filter (· ≠ line)
                          invalWrite := if forWrite then wrap 32 (x.invalWrite + 1) else x.invalWrite }
  else s

/-- R251: the home sends an invalidation of a line to each of its sharers that has none on its way. -/
def State.sendInvals (s : State) (line : Nat) : State :=
  let h := homeOf line
  let new := (sharerDies ((s.cache h).line line)).filter fun d =>
    !s.invals.any fun e => decide (e.1 = servingOf d line) && decide (e.2.1 = line)
  let s := { s with invals := s.invals ++ new.map fun d => (servingOf d line, line, h) }
  let x := s.cache h
  s.setCache h { x with invalSent := wrap 32 (x.invalSent + new.length) }

/-- R254: the home cache holds the line of a sealed word that is about to be written. -/
def State.homeHolds (s : State) (c w : Nat) : Bool := ((s.cache (c / 64)).line (lineOf c (w * 32))).valid

/-- A write to a line of a slice waits for its home cache (R254): some written byte lies in a sealed bank. A line lies in one bank. -/
def State.asksHome (s : State) (p off : Nat) : Option Nat :=
  match s.lcoreOf p with
  | some c => if !(s.hal p).isOpen (bankOf off) && s.homeHolds c (off / 32) then some (lineOf c off) else none
  | none => none

/-- The words that a write of bytes of one line changes: word, bytes and mask. -/
def writeParts (off : Nat) (data : Bytes) (en : Nat → Bool) : List (Nat × Bytes × Nat) :=
  (splitWords off data en).filter fun e => decide (e.2.2 ≠ 0)

/-- A write takes a grant of its line when it has a whole word: narrower parts go to the merge buffer (R175, R211). -/
def wholeParts (parts : List (Nat × Bytes × Nat)) : Bool := parts.any fun e => decide (e.2.2 = fullMask)

/-- A narrow part has an entry flushed at once: it completes its own, or finds the buffer full (R211, R212). -/
def Hal.partFlushes (x : Hal) (e : Nat × Bytes × Nat) : Bool :=
  match x.merge.find? fun m => m.word = e.1 with
  | some m => decide (m.mask ||| e.2.2 = fullMask)
  | none => decide (32 ≤ x.merge.length)

/-- A write takes the turn of a grant at its controller. -/
def State.takesGrant (s : State) (p : Nat) (parts : List (Nat × Bytes × Nat)) : Bool :=
  wholeParts parts || parts.any (s.hal p).partFlushes

/-- Perform the parts of a write of one line (R175, R211). -/
def State.writeWords (s : State) (p : Nat) (parts : List (Nat × Bytes × Nat)) (own : Bool) (b : By) : State :=
  parts.foldl (fun s e => s.writePart p e.1 e.2.1 e.2.2 own)
    (if wholeParts parts then s.grant p b (bankOf ((parts.headD default).1 * 32)) else s)

/-- Perform a write of bytes of one line: the home drops its line first (R254). -/
def State.writeLine (s : State) (p off : Nat) (data : Bytes) (en : Nat → Bool) (own : Bool) (b : By) : State :=
  let parts := writeParts off data en
  if parts = [] then s
  else (match s.asksHome p off with | some line => s.dropHome line true | none => s).writeWords p parts own b

/-! Reading -/

/-- Read the marked code words of one line in ascending order (R204 to R210), 32 zero bytes in place of an unmarked one: the data,
or the cause and the word of the first failure `e`; the words left are still read with it (R175; log entry 70). A read of a word
flushes the merge-buffer entry that holds it, ahead of the read (R192). -/
def State.readWords (s : State) (p : Nat) (b : By) (e : Option (Nat × Nat)) : List (Nat × Bool) → State × Except (Nat × Nat) Bytes
  | [] => (s, match e with | none => .ok [] | some f => .error f)
  | (w, sel) :: ws =>
    let put := fun (d : Bytes) (r : State × Except (Nat × Nat) Bytes) =>
      ((r.1, match r.2 with | .ok t => .ok (d ++ t) | .error f => .error f) : State × Except (Nat × Nat) Bytes)
    if !sel then put (List.replicate 32 0) (State.readWords s p b e ws)
    else
      let s := s.flushWord p w b.cls
      match s.readWord p w with
      | .bad cause =>
        let s := s.setHal p ((s.hal p).logBad w cause b.req (s.wordFlips (p * 2 ^ 23 + w)))
        let s := if b.quiet then s else s.reportBad p w cause b.job b.reporter
        State.readWords s p b (some (e.getD (cause, w))) ws
      | .ok d => put d (State.readWords s p b e ws)
      | .fixed d sym pat =>
        let s := s.setHal p ((s.hal p).logFix w sym pat false)
        put d (State.readWords s p b e ws)

/-- The code words of a range, each with whether it holds a byte that is asked for. -/
def wordsOf (off len : Nat) (en : Nat → Bool) : List (Nat × Bool) :=
  (cuts 32 off len).map fun e => (e.1 / 32, (List.range e.2).any fun k => en (e.1 - off + k))

/-- Perform a read of bytes of one line: one grant (R175). Words without a byte that is asked for are not read. -/
def State.readLine (s : State) (p off len : Nat) (en : Nat → Bool) (b : By) : State × Except (Nat × Nat) Bytes :=
  match (s.grant p b (bankOf off)).readWords p b none (wordsOf off len en) with
  | (s, .ok d) => (s, .ok ((d.drop (off % 32)).take len))
  | (s, .error e) => (s, .error e)

/-! Upsets: changes of stored symbols that the physical memory suffers -/

/-- XOR a change into a stored symbol. -/
def State.upset (s : State) (pw sym : Nat) (flip : Byte) : State :=
  { s with flips := tput s.flips (pw * 36 + sym) (tget s.flips (pw * 36 + sym) ^^^ flip) }

/-- The upsets of one line. -/
def State.upsets (s : State) (p line : Nat) (u : List Upset) : State :=
  u.foldl (fun s x =>
    if x.word < 4 ∧ x.symbol < 36 then s.upset (p * 2 ^ 23 + line * 4 + x.word) x.symbol x.flip else s) s

/-! Zeroing a bank (R200, R409) -/

/-- Discard a bank's entries, write zero to every word and invalidate its lines in every cache. -/
def State.zeroBank (s : State) (p b : Nat) : State :=
  let x := s.hal p
  let x := { x with
    merge := x.merge.filter (fun e => decide (bankOf (e.word * 32) ≠ b))
    reqs := x.reqs.filter (fun r => !(r.flush && decide (bankOf r.off = b)))
    fix := x.fix.filter (fun w => decide (bankOf (w * 32) ≠ b))
    scrubFix := x.scrubFix.filter (fun w => decide (bankOf (w * 32) ≠ b)) }
  let s := s.setHal p x
  let base := p * 2 ^ 28 + b * 2 ^ 21
  let s := { s with mem := tclear s.mem base (base + 2 ^ 21),
                    flips := tclear s.flips (base / 32 * 36) ((base + 2 ^ 21) / 32 * 36) }
  let s := s.dropLines p (fun l => decide (bankOf l.off = b))
  match s.lcoreOf p with
  | none => s
  | some c =>
    let lo := lineOf c (b * 2 ^ 21)
    let hi := lineOf c 0 + (b + 1) * 2 ^ 14
    { s with caches := s.caches.map fun e => (e.1, { e.2 with lines := tclear e.2.lines lo hi }) }

/-! Scratch (R54) -/

/-- The 64-bit words under `len` bytes at `off`, as offsets. -/
def scratchWords (off len : Nat) : List Nat := (cuts 8 off len).map fun e => e.1 / 8 * 8

/-- Offset of the first uncorrectable word under `len` bytes at `off`. -/
def State.scratchFails (s : State) (c off len : Nat) : Option Nat :=
  (scratchWords off len).find? fun w => s.scratchBad.contains (c * 2 ^ 17 + w / 8)

/-- Whether any of the 64-bit words under `len` bytes at `off` is uncorrectable. -/
def State.scratchUe (s : State) (c off len : Nat) : Bool := (s.scratchFails c off len).isSome

def State.scratchRead (s : State) (c off len : Nat) : Bytes := tgets s.scratch (c * 2 ^ 20 + off) len

/-- A read of words with a single error corrects them, and each correction is logged (log entry 72). -/
def State.scratchFix (s : State) (c off len : Nat) : State :=
  let ks := (scratchWords off len).map fun w => c * 2 ^ 17 + w / 8
  let n := (s.scratchOne.filter ks.contains).length
  if n = 0 then s
  else
    let s := { s with scratchOne := s.scratchOne.filter fun k => !ks.contains k }
    let x := s.core c
    s.setCore c { x with stat := { x.stat with scratchFixed := x.stat.scratchFixed + n } }

/-- A word whose write is narrower than the code word and whose read is uncorrectable, if one is (R54). -/
def State.scratchRefuses (s : State) (c off : Nat) (en : Nat → Bool) (len : Nat) : Option Nat :=
  (scratchWords off len).find? fun w =>
    let cov := (List.range 8).map fun k => decide (off ≤ w + k) && decide (w + k < off + len) && en (w + k - off)
    s.scratchBad.contains (c * 2 ^ 17 + w / 8) && cov.any id && !cov.all id

/-- Write the enabled bytes: a whole aligned word clears its error, a narrower write corrects a single one. -/
def State.scratchWrite (s : State) (c off : Nat) (data : Bytes) (en : Nat → Bool) : State :=
  let len := data.length
  let whole := fun k =>
    let w := (k - c * 2 ^ 17) * 8
    decide (c * 2 ^ 17 ≤ k) && (List.range 8).all fun i => decide (off ≤ w + i) && decide (w + i < off + len) && en (w + i - off)
  let s := { s with scratchOne := s.scratchOne.filter (fun k => !whole k) }
  let s := (cuts 8 off len).foldl (fun s e => if (List.range e.2).any (fun i => en (e.1 - off + i)) then s.scratchFix c e.1 e.2 else s) s
  { s with
    scratch := (List.range len).foldl (fun m i => if en i then tput m (c * 2 ^ 20 + off + i) (data.getD i 0) else m) s.scratch
    scratchBad := s.scratchBad.filter (fun k => !whole k) }

/-- R53, R142: write zero to the whole scratch. -/
def State.scratchClear (s : State) (c : Nat) : State :=
  let keep := fun k => !(decide (c * 2 ^ 17 ≤ k) && decide (k < (c + 1) * 2 ^ 17))
  { s with scratch := tclear s.scratch (c * 2 ^ 20) ((c + 1) * 2 ^ 20)
           scratchBad := s.scratchBad.filter keep
           scratchOne := s.scratchOne.filter keep }

/-- An upset of a 64-bit word of scratch: one bit is correctable, more are not, and a second one adds to the first. -/
def State.scratchUpset (s : State) (c w : Nat) (one : Bool) : State :=
  let k := c * 2 ^ 17 + w
  if s.scratchBad.contains k then s
  else if one && !s.scratchOne.contains k then { s with scratchOne := s.scratchOne ++ [k] }
  else { s with scratchOne := s.scratchOne.filter (· ≠ k), scratchBad := s.scratchBad ++ [k] }

/-! Device addresses (R22, R23, R41) -/

/-- Where a device address leads; none where R23 or R41 refuses it. -/
inductive Place0 where
  | slice (c off : Nat)
  | scratch (c off : Nat)
  | host (a : Nat)
  | remote (m off : Nat)
  | control (off : Nat)
  deriving DecidableEq, Repr, Inhabited

def State.decodeDA (s : State) (da : Nat) : Option Place0 :=
  let sp := da / 2 ^ 40
  if sp = 0x00 then
    let c := da / 2 ^ 28 % 2 ^ 11
    if da / 2 ^ 39 % 2 = 0 ∧ c < s.lcoreLimit ∧ s.backed c then some (.slice c (da % 2 ^ 28)) else none
  else if sp = 0x01 then
    let c := da / 2 ^ 20 % 2 ^ 11
    if da / 2 ^ 31 % 2 ^ 9 = 0 ∧ c < s.lcoreLimit ∧ s.backed c then some (.scratch c (da % 2 ^ 20)) else none
  else if sp = 0x02 then some (.host (da % 2 ^ 40))
  else if sp = 0x03 then some (.remote (da / 2 ^ 32 % 2 ^ 8) (da % 2 ^ 32))
  else if sp = 0xFF then (if da / 2 ^ 26 % 2 ^ 14 = 0 then some (.control (da % 2 ^ 26)) else none)
  else none

/-- The bank under test refuses every agent but the management core, whose accesses come with TEST_MODE_ENABLE (R215). -/
def State.underTest (s : State) (p b : Nat) : Bool :=
  decide ((s.hal p).test.mode ≠ 0) && decide ((s.hal p).test.bank = b)

/-- R201, R410, R215: whether a requester is refused with REGION at a slice address. -/
def State.refused (s : State) (who : Who) (c p off : Nat) (write : Bool) : Bool :=
  !s.reaches who c (bankOf off) write || s.underTest p (bankOf off)

/-- R371, R446: where the firmware store begins in the slice of a queue-table copy. -/
def storeBase : Nat := 0x0FE80000

/-- R410, R446: a core's request is refused; a core in firmware mode fetches and loads from the firmware store, which no other reaches. -/
def State.coreRefused (s : State) (fw : Bool) (n c p off : Nat) (write : Bool) : Bool :=
  s.refused (.ctx n) c p off write &&
    !(fw && !write && s.que.copies.contains c && decide (storeBase ≤ off) && !s.underTest p (bankOf off))

end Sys2Proof.Machine
end

