-- ==== Sys2Proof/Machine/Requests.lean ====
section
/-! DEFINITION. Requests that units have accepted and serve later: data for waiting loads and fetches, and the grants of a halyard
controller (R33, R64, R65, R175, R188 to R192, R241). -/

namespace Sys2Proof.Machine

/-! Data that reaches a waiting load -/

/-- The register value of a scalar load or AMO. -/
def LdWait.scalar (w : LdWait) : Word :=
  let v := ofLe w.buf
  match w.amo with
  | some aop => if aop < 5 then ofI (sext 32 v) else BitVec.ofNat 64 v
  | none => if w.sx then ofI (sext (8 * w.len) v) else BitVec.ofNat 64 v

/-- A load whose last part has arrived writes its register and retires. -/
def State.finishLoad (s : State) (c : Nat) (w : LdWait) : State :=
  let x := { s.core c with wait := none }
  let x := if w.vec then x.setV w.rd (blend w.ew w.pg (x.vreg w.rd) (vofBytes w.buf)) else x.setS w.rd w.scalar
  (s.setCore c x).advance c

/-- A part of the data of the load that core `c` waits for, at byte `k` of the access. -/
def State.deliver (s : State) (c k : Nat) (data : Bytes) : State :=
  match (s.core c).wait with
  | none => s
  | some w =>
    let w := { w with buf := patch w.buf k data, left := w.left - 1 }
    if w.left = 0 then s.finishLoad c w else s.setCore c { s.core c with wait := some w }

/-- Where a part at device address `da` lies in the access of the load that core `c` waits for. -/
def State.partOf (s : State) (c da : Nat) : Nat := match (s.core c).wait with | some w => da - w.da % 2 ^ 48 | none => 0

/-- The reads of core `c` that are still on their way at controllers and caches are dropped, and those of other modules are for
nobody: their load has ended in a cause. -/
def State.dropReads (s : State) (c : Nat) : State :=
  { s with
    lnk := { s.lnk with rem := s.lnk.rem.map fun r => if r.who = .core c ∧ r.write = false then { r with who := .gone } else r }
    hals := tmap (fun _ x => { x with reqs := x.reqs.filter fun r => !(decide (r.core = c) && !r.write && !r.pre) }) s.hals
    caches := tmap (fun _ x =>
      { x with q := x.q.filter (fun r => !(decide (r.core = c) && decide (r.kind = .load)))
               fills := x.fills.filter (fun r => !(decide (r.core = c) && decide (r.kind = .load))) }) s.caches }

/-- The load that core `c` waits for ends in a cause: a precise exception at the load. -/
def State.loadFails (s : State) (c cause : Nat) : State :=
  match (s.core c).wait with
  | none => s
  | some w => (s.dropReads c).precise c cause (w.da % 2 ^ 48)

/-- A posted write of core `c` has been performed (R64, R65). -/
def State.acked (s : State) (c : Nat) : State :=
  s.setCore c { s.core c with outst := (s.core c).outst - 1 }

/-! The instruction cache (R56) -/

/-- A line enters the cache, 4 ways in each of 128 sets: a full set loses its oldest line (log entry 73). -/
def Core.cacheLine (x : Core) (line good : Nat) : Core :=
  let l := x.icache.filter fun e => decide (e.1 ≠ line)
  let set := l.filter fun e => decide (e.1 % 128 = line % 128)
  { x with icache := (match set with | e :: _ => if 4 ≤ set.length then l.erase e else l | [] => l) ++ [(line, good)] }

/-- The instruction cache is invalidated; a line on its way is not taken (R65, R142). -/
def Core.dropICache (x : Core) : Core := { x with icache := [], ifill := none }

/-- A fetch through a cluster cache returns the line, which enters where the core still waits for it. -/
def State.fetched (s : State) (c line : Nat) : State :=
  let x := s.core c
  if x.ifill = some line then s.setCore c { x.cacheLine line 15 with ifill := none } else s

/-- A fetch through a cluster cache returns a cause: a precise exception where the core still waits at that line, nothing on a path
that it has left (R49). -/
def State.fetchFails (s : State) (c line cause : Nat) : State :=
  let x := s.core c
  if x.ifill = some line then
    let s := s.setCore c { x with ifill := none }
    if x.pc / 128 = line ∧ x.run ≠ 5 then s.precise c cause x.pc else s
  else s

/-! Performing a held request -/

/-- The line in flight that a run-ahead read was for arrives: with its data, or failed; one that was discarded meanwhile leaves. -/
def arriveLine (off len : Nat) (data : Option Bytes) : List SbLine → List SbLine
  | [] => []
  | l :: t =>
    if l.off = off ∧ l.len = len ∧ !l.arrived then
      (if l.dead then t else { l with arrived := true, failed := data.isNone, data := data.getD [] } :: t)
    else l :: arriveLine off len data t

/-- R67, R69: a run-ahead read has been served; an error marks its line as failed and raises nothing. -/
def State.lineArrives (s : State) (c off len : Nat) (data : Option Bytes) : State :=
  let x := s.core c
  let live := x.sbuf.any fun l => decide (l.off = off) && decide (l.len = len) && !l.arrived && !l.dead
  s.setCore c { x with sbuf := arriveLine off len data x.sbuf
                       stat := { x.stat with failed := x.stat.failed + b2n (data.isNone && live) } }

/-- R410, R215: a core's request is refused when its turn comes, its bank having changed hands since it was accepted. -/
def State.lateRefusal (s : State) (p : Nat) (r : HReq) : Bool :=
  match s.lcoreOf p with
  | some k => !r.flush && s.coreRefused (s.core r.core).fw (s.core r.core).ctx k p r.off r.write
  | none => false

/-- Device address of a byte of a slice. -/
def State.daOf (s : State) (p off : Nat) : Nat := (s.lcoreOf p).getD 0 * 2 ^ 28 + off

/-- Perform one request that the controller grants. -/
def State.perform (s : State) (p : Nat) (r : HReq) : State :=
  let b : By := ⟨r.req, r.cls, (s.core r.core).job, some (s.core r.core).ctx, r.core / 64, r.pre⟩
  if r.flush then s.flushEntry p ⟨r.off / 32, r.data, r.mask, r.ack⟩ r.cls
  else if s.lateRefusal p r then
    if r.pre then s.lineArrives r.core r.off r.len none
    else if r.write then (if r.ack then s.acked r.core else s).imprecise r.core ⟨causeRegion, s.daOf p r.off, 0, 0⟩
    else s.loadFails r.core causeRegion
  else if r.write then
    let s := s.writeLine p r.off r.data r.mask.testBit (decide (r.req = .ownCore)) b
    if r.ack then s.acked r.core else s
  else
    match s.readLine p r.off r.len r.mask.testBit b with
    | (s, .ok d) =>
      if r.pre then s.lineArrives r.core r.off r.len (some d)
      else s.deliver r.core (s.partOf r.core (s.daOf p r.off)) d
    | (s, .error (cause, _)) => if r.pre then s.lineArrives r.core r.off r.len none else s.loadFails r.core cause

/-- R241: a request is performed at the step boundary of a bank's unit. -/
def State.countServed (s : State) (p b : Nat) : State :=
  let n := s.nbu p
  let u := tget n.units b
  if u.active then s.setNbu p { n with units := tput n.units b { u with served := u.served + 1 } } else s

/-- The request that R189 and R190 grant next among the eligible ones (those whose bank `free` admits) that meet `pick`. -/
def State.nextGrant (s : State) (p : Nat) (free : Nat → Bool) (pick : HReq → Bool) : Option HReq :=
  let l := (eligible free (s.hal p).reqs []).filter pick
  (grantClass (s.hal p) l).bind fun k => l.find? fun r => r.cls = k

/-- Grant one request: it leaves the queue and is performed. -/
def State.grantReq (s : State) (p : Nat) (r : HReq) : State :=
  let x := s.hal p
  ((s.setHal p { x with reqs := x.reqs.erase r }).countServed p (bankOf r.off)).perform p r

/-- Grant requests in the order of R189 and R190 as long as `go` asks for the next one, at most so many. -/
def State.serveWhile (s : State) (p : Nat) (free : Nat → Bool) (pick : HReq → Bool) (go : Hal → HReq → Bool) : Nat → State
  | 0 => s
  | n + 1 =>
    match s.nextGrant p free pick with
    | some r => if go (s.hal p) r then (s.grantReq p r).serveWhile p free pick go n else s
    | none => s

/-- R241: up to so many held requests to a bank are granted at a step boundary of its unit. -/
def State.serveBank (s : State) (p b : Nat) (n : Nat) : State :=
  s.serveWhile p (fun k => s.bankFree p k || decide (k = b)) (fun r => decide (bankOf r.off = b)) (fun _ _ => true) n

/-- The held requests of a bank that are still granted at the boundary at which its unit stands: up to 16 in all (R241), each one
while it is paused (R469). -/
def State.serveBoundary (s : State) (p b : Nat) : State :=
  let u := tget (s.nbu p).units b
  s.serveBank p b (if u.paused then (s.hal p).reqs.length else 16 - u.served)

/-- The held requests that share a code word with the words `ws`, or with one that does: they come first (R192). -/
def olderThan (ws : List Nat) (l : List HReq) : List HReq :=
  (l.foldr (fun r (a : List HReq × List Nat) => if r.words.any a.2.contains then (r :: a.1, a.2 ++ r.words) else a) ([], ws)).1

/-- The writes among the requests that come before the words `ws` and wait for their home are confirmed now. -/
def State.confirmOlder (s : State) (p : Nat) (ws : List Nat) : State :=
  let x := s.hal p
  let l := olderThan ws x.reqs
  if l.any (·.waits) then s.setHal p { x with reqs := x.reqs.map fun r => if l.contains r then { r with waits := false } else r } else s

/-- R192: grant requests until none is left that comes before the words `ws`, each in its turn (R189, R190). -/
def State.settle (s : State) (p : Nat) (ws : List Nat) : State :=
  let s := s.confirmOlder p ws
  s.serveWhile p (fun k => s.bankFree p k || ws.any fun w => decide (bankOf (w * 32) = k)) (fun _ => true)
    (fun x _ => decide (olderThan ws x.reqs ≠ [])) (2 * (s.hal p).reqs.length)

/-- Have the entries that meet `sel` flushed now: each waiting flush takes its turn (R212). -/
def State.flushNow (s : State) (p : Nat) (sel : MergeEntry → Bool) : State :=
  let s := s.flushWhere p sel 2
  s.settle p (((s.hal p).reqs.filter (·.flush)).flatMap HReq.words)

end Sys2Proof.Machine
end

