-- ==== Sys2Proof/Machine/NbUnit.lean ====
section
/-! DEFINITION. Near-bank units: their instructions and one step of a program (R221 to R238, R246). -/

namespace Sys2Proof.Machine

/-! Instruction words (R226, R227) -/

def nf (w : Word) (lo len : Nat) : Nat := bits w lo len
def nbOp (w : Word) : Nat := nf w 58 6

/-- R227: type codes of the units. -/
def nbType (n : Nat) : Option EType :=
  match n with
  | 0 => some .e4m3
  | 1 => some .e5m2
  | 2 => some .int8
  | 3 => some .bf16
  | 4 => some .fp16
  | 5 => some .fp32
  | _ => none

/-- Words that hold 32 elements. -/
def nbWords (t : EType) : Nat := t.width / 8

/-- The named ranges of a word are zero. -/
def nz (w : Word) (l : List (Nat × Nat)) : Bool := l.all fun r => nf w r.1 r.2 = 0

/-! Format E: FN[57:55] TA[54:52] TB[51:49] TD[48:46] XD[45:43] XA[42:40] XB[39:37] FS[36:33] INC[32] SAT[31] RND[30] NE[10:0] -/
def eFN (w : Word) : Nat := nf w 55 3
def eXD (w : Word) : Nat := nf w 43 3
def eXA (w : Word) : Nat := nf w 40 3
def eXB (w : Word) : Nat := nf w 37 3
def eFS (w : Word) : Nat := nf w 33 4
def eNE (w : Word) : Nat := nf w 0 11

/-- Whether an E-format word reads B, S and S′ (R228). -/
def eUses (w : Word) : Bool × Bool × Bool :=
  match nbOp w, eFN w with
  | 0x01, 4 => (false, true, false)
  | 0x01, 5 => (false, true, false)
  | 0x01, 6 => (false, true, true)
  | 0x01, 7 => (false, true, false)
  | 0x01, _ => (true, false, false)
  | 0x02, _ => (true, true, false)
  | 0x03, 0 => (false, true, false)
  | 0x03, 1 => (false, false, false)
  | 0x03, 2 => (false, false, false)
  | 0x03, _ => (true, false, false)
  | 0x04, _ => (true, true, false)
  | _, _ => (false, false, false)

/-- R224: an E-format word passes the image check. -/
def eLegal (w : Word) : Bool :=
  let (b, s, s2) := eUses w
  let op := nbOp w
  nz w [(11, 19)] && (nbType (nf w 52 3)).isSome && (nbType (nf w 46 3)).isSome &&
    (if b then (nbType (nf w 49 3)).isSome else nz w [(49, 3), (37, 3)]) &&
    (s || nz w [(33, 4)]) && (!s2 || decide (eFS w ≤ 14)) &&
    (decide (nf w 31 1 = 0) || decide (nf w 46 3 = 1)) && (decide (nf w 30 1 = 0) || decide (op = 0x05)) &&
    (match op with
     | 0x01 => true
     | 0x03 => decide (eFN w ≤ 4)
     | 0x04 => decide (eFN w = 0) && decide (nf w 49 3 = 5)
     | _ => decide (eFN w = 0))

/-- R224: one word of an image, apart from the reach of loops. -/
def wordLegal (w : Word) : Bool :=
  match nbOp w with
  | 0x01 | 0x02 | 0x03 | 0x04 | 0x05 => eLegal w
  | 0x08 => decide (eFN w ≤ 3) && (nbType (nf w 52 3)).isSome && nz w [(45, 4), (40, 1), (11, 28)] &&
      (decide (eFN w = 3) || nz w [(41, 4)])
  | 0x09 => decide (eFN w ≤ 1) && nz w [(52, 3), (49, 3), (41, 4), (39, 1), (11, 28), (0, 11)]
  | 0x0A =>
    match nf w 54 4 with
    | 0 | 1 | 2 | 3 => nz w [(32, 10), (0, 32)]
    | 4 | 5 | 7 => nz w [(42, 4), (32, 10), (0, 32)]
    | 6 => nz w [(46, 4), (42, 4), (32, 10)]
    | _ => false
  | 0x0B =>
    match nf w 56 2 with
    | 0 | 1 => nz w [(49, 4), (16, 33)]
    | 2 => nz w [(16, 33), (0, 16)]
    | _ => false
  | 0x0C => nz w [(17, 41)] && decide (nf w 11 6 ≠ 0)
  | 0x0D => nz w [(11, 40)]
  | 0x0E => decide (eFN w ≤ 1) && (nbType (nf w 52 3)).isSome && (nbType (nf w 49 3)).isSome && nz w [(11, 12)] &&
      (if eFN w = 0 then decide (nf w 39 4 ≤ 14) else nz w [(23, 16)])
  | 0x3F => nz w [(0, 58)]
  | _ => false

/-- R224, R233: loop bodies stay inside the image and inside each other, at most two deep. `ends` lists the open bodies, innermost first. -/
def loopsLegal (len : Nat) : List Word → Nat → List Nat → Bool
  | [], _, _ => true
  | w :: t, i, ends =>
    let ends := ends.filter fun e => decide (i ≤ e)
    if nbOp w = 0x0C then
      let e := i + nf w 11 6
      decide (e < len) && (ends.all fun x => decide (e ≤ x)) && decide (ends.length < 2) && loopsLegal len t (i + 1) (e :: ends)
    else loopsLegal len t (i + 1) ends

/-- R224: the check of a whole image. -/
def imageLegal (img : List Word) : Bool := img.all wordLegal && loopsLegal img.length img 0 []

/-- The first word of an image that fails the check (NBU_TICKETn.PC). -/
def imageBad (img : List Word) : Nat :=
  ((List.range img.length).find? fun i => !(wordLegal (img.getD i 0) && loopsLegal img.length (img.take (i + 1)) 0 [])).getD 0

/-! Endings (R246, R247) -/

/-- How a program ends in a bank: 0 success, 1 ILLEGAL, 2 LEN_BOUND, 3 ALIGN, 4 RESIDUE. -/
def Ticket.ended (t : Ticket) (err pc b word : Nat) : Ticket :=
  let t := { t with left := t.left - 1 }
  let t := if err ≠ 0 ∧ t.error = 0 then { t with error := err, pc := pc, layer := b / 16, bank := b % 16, word := word } else t
  if t.left = 0 then { t with state := if t.error = 0 then 2 else 3 } else t

/-- A program of core `c` ends in bank `b`. -/
def State.endProgram (s : State) (c p b : Nat) (ticket err pc word : Nat) : State :=
  let n := s.nbu p
  let s := s.setNbu p { n with ended := wrap 16 (n.ended + 1), units := tput n.units b default }
  let x := s.core c
  let t := tget x.tickets ticket
  let first := decide (err ≠ 0) && decide (t.error = 0)
  let s := s.setCore c { x with tickets := tput x.tickets ticket (t.ended err pc b word) }
  if first then s.imprecise c ⟨causeNb, 0, 0, ticket⟩ else s

/-! Reading and writing the bank (R207, R221, R238) -/

/-- Read bank words `w` to `w + n − 1`: their bytes, or the first word that fails its residue. -/
def State.nbRead (s : State) (p b : Nat) : Nat → Nat → Except Nat Bytes
  | _, 0 => .ok []
  | w, n + 1 =>
    match s.readWord p (b * 2 ^ 16 + w) with
    | .bad _ => .error w
    | .ok d => (State.nbRead s p b (w + 1) n).map (d ++ ·)
    | .fixed d _ _ => (State.nbRead s p b (w + 1) n).map (d ++ ·)

/-- Write whole words with their residues. -/
def State.nbWrite (s : State) (p b w : Nat) : List Bytes → State
  | [] => s
  | d :: t =>
    let s := s.dropLines p (fun l => decide (l.off / 128 = (b * 2 ^ 16 + w) / 4))
    State.nbWrite (s.putWord p (b * 2 ^ 16 + w) d) p b (w + 1) t

/-- Elements of a byte string. -/
def elemsOf (t : EType) (d : Bytes) : List Nat :=
  (List.range (d.length / (t.width / 8))).map fun k => leAt d (k * (t.width / 8)) (t.width / 8)

/-- Bytes of elements, cut into code words. -/
def nbBytes (t : EType) (l : List Nat) : List Bytes :=
  let d := (l.map (leBytes (t.width / 8))).flatten
  (List.range (d.length / 32)).map fun i => (d.drop (32 * i)).take 32

def NbUnit.xr (u : NbUnit) (k : Nat) : Nat := tget u.x k
def NbUnit.fr (u : NbUnit) (k : Nat) : Nat := tget u.f k

/-! Element operations (R228, R230) -/

/-- One element of EARITH, EFMA, EFUNC or ECVT: the value of A, of B, and S and S′. -/
def nbElem (w : Word) (a b : Fv) (sv s2 : Nat) (conv : Fv → Nat) : Nat :=
  let s := f32 sv
  match nbOp w, eFN w with
  | 0x01, 0 => conv (a.add b)
  | 0x01, 1 => conv (a.add b.neg)
  | 0x01, 2 => conv (a.mul b)
  | 0x01, 3 => conv (a.max b)
  | 0x01, 4 => conv (a.add s)
  | 0x01, 5 => conv (a.mul s)
  | 0x01, 6 => conv ((a.mul s).add (f32 s2))
  | 0x01, _ => conv (a.max s)
  | 0x02, _ => conv ((a.mul s).add b)
  | 0x03, 0 => conv (f32 (exp2F (rnd32 (a.mul s))))
  | 0x03, 1 => conv (f32 (siluF (rnd32 a)))
  | 0x03, 2 => conv (f32 (geluF (rnd32 a)))
  | 0x03, 3 => conv ((f32 (siluF (rnd32 a))).mul b)
  | 0x03, _ => conv ((f32 (geluF (rnd32 a))).mul b)
  | _, _ => conv a

/-- R231: one pair of EROPE. -/
def ropePair (x y : Fv) (sv om : Nat) (conv : Fv → Nat) : List Nat :=
  let th := rnd32 ((f32 sv).mul (f32 om))
  let c := f32 (cosF th)
  let s := f32 (sinF th)
  [conv ((x.mul c).add (y.mul s).neg), conv ((x.mul s).add (y.mul c))]

/-- R232: fold one element into its lane. -/
def redLane (fn sv lane x : Nat) : Nat :=
  match fn with
  | 0 => fadd32 lane x
  | 1 => ffma32 x x lane
  | 2 => fmax32 lane x
  | _ =>
    let d := fsub32 x sv
    ffma32 d d lane

/-- R232: fold the elements of a group, element `e` into lane `e mod 16`. -/
def redGroup (fn sv : Nat) (acc : List Nat) (l : List Nat) : List Nat :=
  (l.zipIdx).foldl (fun acc e => acc.set (e.2 % 16) (redLane fn sv (acc.getD (e.2 % 16) f32NegZero) e.1)) acc

/-! One step (R233, R237) -/

/-- Leave the loops that end with word `last` when their count is spent; otherwise start them again (R233). -/
def loopNext : Nat → List (Nat × Nat × Nat) → Nat → Nat × List (Nat × Nat × Nat)
  | 0, ls, last => (last + 1, ls)
  | _ + 1, [], last => (last + 1, [])
  | n + 1, (a, e, k) :: t, last =>
    if e = last then (if 1 < k then (a, (a, e, k - 1) :: t) else loopNext n t last) else (last + 1, (a, e, k) :: t)

/-- What a step leaves: the unit, the words written and the NaN sources converted to an integer type (R111), or an ending in error. -/
inductive StepOut where
  /-- More steps of the same instruction follow. -/
  | more (u : NbUnit) (wr : List (Nat × List Bytes)) (nans : Nat := 0)
  /-- The instruction is complete; `last` is the last image word it covers. -/
  | done (u : NbUnit) (wr : List (Nat × List Bytes)) (last : Nat) (nans : Nat := 0)
  | fail (err word : Nat)

/-- Advance X registers once each, by the longest span among the operands that name them (R229). -/
def advanceX (u : NbUnit) (l : List (Nat × Nat)) : NbUnit :=
  { u with x := (List.range 8).foldl (fun x k =>
      let n := l.foldl (fun m e => if e.1 = k then max m e.2 else m) 0
      if n = 0 then x else tput x k ((tget x k + n) % 2 ^ 16)) u.x }

/-- R229: a word of D that overlaps A or B without coinciding: its value is free. -/
def overlapFree (d a b : Nat × Nat) (sameA sameB useB : Bool) (w : Nat) : Bool :=
  let inside := fun r : Nat × Nat => decide (r.1 ≤ w) && decide (w < r.1 + r.2)
  let exact := fun (r : Nat × Nat) (same : Bool) => decide (r.1 = d.1) && same
  (inside a && !exact a sameA) || (useB && inside b && !exact b sameB)

/-- R111: the NaN sources among the conversions of `out` to an integer type. -/
def nansIn (t : EType) (out : (Fv → Nat) → List Nat) : Nat := if t.losesNan then (out fun v => b2n v.isNan).sum else 0

/-- A step of an E-format instruction. -/
def stepE (s : State) (p b : Nat) (u : NbUnit) (w : Word) : StepOut :=
  let (useB, _, _) := eUses w
  let rope := decide (nbOp w = 0x04)
  match nbType (nf w 52 3), nbType (nf w 46 3) with
  | some ta, some td =>
    let tb := if useB then (nbType (nf w 49 3)).getD .fp32 else .fp32
    let ne := eNE w
    let wa := nbWords ta
    let wb := if rope then 2 else nbWords tb
    let wd := nbWords td
    let (pa, pb, pd) := (u.xr (eXA w), u.xr (eXB w), u.xr (eXD w))
    let inc := decide (nf w 32 1 = 1)
    if ne = 0 then .done u [] u.ip
    else if 2 ^ 16 < pa + ne * wa ∨ 2 ^ 16 < pd + ne * wd ∨ (useB ∧ 2 ^ 16 < pb + ne * wb) then .fail 2 0
    else
      let g := 64 / max (wa + if useB then wb else 0) wd
      let k := min g (ne - u.done)
      let rb := if useB then s.nbRead p b (pb + u.done * wb) (k * wb) else .ok []
      match s.nbRead p b (pa + u.done * wa) (k * wa), rb with
      | .error e, _ => .fail 4 e
      | _, .error e => .fail 4 e
      | .ok da, .ok db =>
        let conv := td.conv (decide (nf w 30 1 = 1)) (decide (nf w 31 1 = 1))
        let sv := u.fr (eFS w)
        let s2 := u.fr (eFS w + 1)
        let as := elemsOf ta da
        let bs := elemsOf tb db
        let out := fun conv : Fv → Nat =>
          if rope then ((List.range (as.length / 2)).map fun i =>
            ropePair (ta.val (as.getD (2 * i) 0)) (ta.val (as.getD (2 * i + 1) 0)) sv (bs.getD i 0) conv).flatten
          else as.mapIdx fun i a => nbElem w (ta.val a) (tb.val (bs.getD i 0)) sv s2 conv
        let nans := nansIn td out
        let ws := nbBytes td (out conv)
        let base := pd + u.done * wd
        let ws := ws.mapIdx fun i d =>
          if overlapFree (pd, ne * wd) (pa, ne * wa) (pb, ne * wb) (decide (ta.width = td.width))
              (decide (tb.width = td.width) && !rope) useB (base + i) then
            leBytes 32 (Config.freeNat (s.fresh + i))
          else d
        let u' := { u with done := u.done + k }
        if ne ≤ u.done + k then
          let u' := { u' with done := 0 }
          .done (if inc then advanceX u' ([(eXA w, ne * wa), (eXD w, ne * wd)] ++ if useB then [(eXB w, ne * wb)] else []) else u')
            [(base, ws)] u.ip nans
        else .more u' [(base, ws)] nans
  | _, _ => .fail 1 0

/-- A step of RED: XA[51:49] FS[44:41] INC[39]. -/
def stepRed (s : State) (p b : Nat) (u : NbUnit) (w : Word) : StepOut :=
  match nbType (nf w 52 3) with
  | none => .fail 1 0
  | some ta =>
    let ne := eNE w
    let wa := nbWords ta
    let pa := u.xr (nf w 49 3)
    if ne = 0 then .done u [] u.ip
    else if 2 ^ 16 < pa + ne * wa then .fail 2 0
    else
      let k := min (64 / wa) (ne - u.done)
      match s.nbRead p b (pa + u.done * wa) (k * wa) with
      | .error e => .fail 4 e
      | .ok d =>
        let xs := (elemsOf ta d).map fun e => rnd32 (ta.val e)
        let u' := { u with acc := redGroup (eFN w) (u.fr (nf w 41 4)) u.acc xs, done := u.done + k }
        if ne ≤ u.done + k then
          let u' := { u' with done := 0 }
          .done (if nf w 39 1 = 1 then advanceX u' [(nf w 49 3, ne * wa)] else u') [] u.ip
        else .more u' []

/-- FOLD: FD[48:45] NXT[40] (R232). -/
def stepFold (u : NbUnit) (w : Word) : StepOut :=
  let v := pairTree (if eFN w = 0 then fadd32 else fmax32) 4 u.acc
  .done { u with f := tput u.f (nf w 45 4) v,
                 acc := List.replicate 16 (if nf w 40 1 = 0 then f32NegZero else f32NegInf) } [] u.ip

/-- FOP: FN[57:54] FD[53:50] FA[49:46] FB[45:42] IMM32. -/
def stepFop (u : NbUnit) (w : Word) : StepOut :=
  let a := u.fr (nf w 46 4)
  let b := u.fr (nf w 42 4)
  let v := match nf w 54 4 with
    | 0 => fadd32 a b
    | 1 => fsub32 a b
    | 2 => fmul32 a b
    | 3 => fmax32 a b
    | 4 => rcpF a
    | 5 => rsqrtF a
    | 6 => nf w 0 32
    | _ => rnd32 (fvOfInt (sext 32 a))
  .done { u with f := tput u.f (nf w 50 4) v } [] u.ip

/-- XOP: FN[57:56] XD[55:53] FA[52:49] IMM16. -/
def stepXop (u : NbUnit) (w : Word) : StepOut :=
  let k := nf w 53 3
  let v := match nf w 56 2 with
    | 0 => nf w 0 16
    | 1 => (u.xr k + nf w 0 16) % 2 ^ 16
    | _ => u.fr (nf w 49 4) % 2 ^ 16
  .done { u with x := tput u.x k v } [] u.ip

/-- LOOP: BODY[16:11] COUNT[10:0] (R233). -/
def stepLoop (u : NbUnit) (w : Word) : StepOut :=
  let body := nf w 11 6
  let n := nf w 0 11
  if n = 0 then .done u [] (u.ip + body)
  else .done { u with loops := (u.ip + 1, u.ip + body, n) :: u.loops } [] u.ip

/-- ROWCPY: XD[57:55] XA[54:52] INC[51] NR[10:0], one row a step (R234). -/
def stepRowcpy (s : State) (p b : Nat) (u : NbUnit) (w : Word) : StepOut :=
  let xd := nf w 55 3
  let xa := nf w 52 3
  let nr := eNE w
  let pa := u.xr xa
  let pd := u.xr xd
  if pa % 64 ≠ 0 ∨ pd % 64 ≠ 0 then .fail 3 0
  else if nr = 0 then .done u [] u.ip
  else if 1024 < pa / 64 + nr ∨ 1024 < pd / 64 + nr then .fail 2 0
  else
    match s.nbRead p b (pa + 64 * u.done) 64 with
    | .error e => .fail 4 e
    | .ok d =>
      let wr := [(pd + 64 * u.done, (List.range 64).map fun i => (d.drop (32 * i)).take 32)]
      if nr ≤ u.done + 1 then
        let u' := { u with done := 0 }
        .done (if nf w 51 1 = 1 then advanceX u' [(xa, 64 * nr), (xd, 64 * nr)] else u') wr u.ip
      else .more { u with done := u.done + 1 } wr

/-- Read the words of one group for `n` tokens from token `t` on, `stride` words apart. -/
def State.nbTokens (s : State) (p b base stride wa : Nat) : Nat → Nat → Except Nat (List Bytes)
  | _, 0 => .ok []
  | t, n + 1 =>
    match s.nbRead p b (base + t * stride) wa with
    | .error e => .error e
    | .ok d => (State.nbTokens s p b base stride wa (t + 1) n).map (d :: ·)

/-- SKEY: TA[54:52] TD[51:49] XD[48:46] XA[45:43] FS[42:39] STRIDE[38:23] NE[10:0] (R235). -/
def stepSkey (s : State) (p b : Nat) (u : NbUnit) (w : Word) : StepOut :=
  match nbType (nf w 52 3), nbType (nf w 49 3) with
  | some ta, some td =>
    let ne := eNE w
    let wa := nbWords ta
    let wd := nbWords td
    let pa := u.xr (nf w 43 3)
    let pd := u.xr (nf w 46 3)
    let fs := nf w 39 4
    let sv := u.fr fs
    let stride := nf w 23 16
    let conv := td.conv false false
    if eFN w = 0 then
      let nt := sext 32 (u.fr (fs + 1))
      if nt < 0 ∨ 256 < nt then .fail 2 0
      else if nt = 0 ∨ ne = 0 then .done u [] u.ip
      else
        let n := nt.toNat
        if 2 ^ 16 < pa + (n - 1) * stride + ne * wa ∨ 2 ^ 16 < pd + ne * wd then .fail 2 0
        else
          let k := min (64 / wa) (n - u.tok)
          match s.nbTokens p b (pa + u.done * wa) stride wa u.tok k with
          | .error e => .fail 4 e
          | .ok ds =>
            let start := if u.tok = 0 then List.replicate 32 f32NegZero else u.sums
            let sums := ds.foldl (fun acc d =>
              List.zipWith fadd32 acc ((elemsOf ta d).map fun e => rnd32 (ta.val e))) start
            if n ≤ u.tok + k then
              let out := fun conv : Fv → Nat => sums.map fun e => conv ((f32 e).mul (f32 sv))
              let nans := nansIn td out
              let wr := [(pd + u.done * wd, nbBytes td (out conv))]
              if ne ≤ u.done + 1 then .done { u with done := 0, tok := 0, sums := [] } wr u.ip nans
              else .more { u with done := u.done + 1, tok := 0, sums := [] } wr nans
            else .more { u with tok := u.tok + k, sums := sums } []
    else if ne = 0 then .done u [] u.ip
    else if 2 ^ 16 < pa + ne * wa ∨ 2 ^ 16 < pd + ne * wd then .fail 2 0
    else
      let k := min (64 / max (wa + wd) wd) (ne - u.done)
      match s.nbRead p b (pa + u.done * wa) (k * wa), s.nbRead p b (pd + u.done * wd) (k * wd) with
      | .error e, _ => .fail 4 e
      | _, .error e => .fail 4 e
      | .ok da, .ok dd =>
        let as := elemsOf ta da
        let ds := elemsOf td dd
        let out := fun conv : Fv → Nat => as.mapIdx fun i a =>
          let d := td.val (ds.getD i 0)
          conv (((f32 (rnd32 ((ta.val a).add d.neg))).mul (f32 sv)).add d)
        let nans := nansIn td out
        let wr := [(pd + u.done * wd, nbBytes td (out conv))]
        if ne ≤ u.done + k then .done { u with done := 0 } wr u.ip nans
        else .more { u with done := u.done + k } wr nans
  | _, _ => .fail 1 0

/-- One step of the current instruction. -/
def stepWord (s : State) (p b : Nat) (u : NbUnit) (w : Word) : StepOut :=
  match nbOp w with
  | 0x01 | 0x02 | 0x03 | 0x04 | 0x05 => stepE s p b u w
  | 0x08 => stepRed s p b u w
  | 0x09 => stepFold u w
  | 0x0A => stepFop u w
  | 0x0B => stepXop u w
  | 0x0C => stepLoop u w
  | 0x0D => stepRowcpy s p b u w
  | 0x0E => stepSkey s p b u w
  | _ => .done u [] u.ip

/-- NaN sources that a unit converted to an integer type count at the core that issued its program (R490). -/
def State.countNans (s : State) (c n : Nat) : State :=
  let x := s.core c
  if n = 0 then s else s.setCore c { x with stat := { x.stat with nanSrc := x.stat.nanSrc + n } }

/-- R237, R246: the unit of bank `b` runs one step of its current word, to the next step boundary. -/
def State.nbAdvance (s : State) (p b : Nat) : State :=
  let n := s.nbu p
  let u := { tget n.units b with served := 0 }
  let w := u.image.getD u.ip 0
  let s := s.setNbu p { n with steps := wrap 32 (n.steps + 1), units := tput n.units b u }
  let s := s.setCtx u.ctx { s.ctx u.ctx with steps := (s.ctx u.ctx).steps + 1 }
  let put := fun (s : State) (wr : List (Nat × List Bytes)) => wr.foldl (fun s e => s.nbWrite p b e.1 e.2) s
  let setU := fun (s : State) (u : NbUnit) => s.setNbu p { s.nbu p with units := tput (s.nbu p).units b u }
  match stepWord s p b u w with
  | .more u' wr nans => { setU ((put s wr).countNans u.core nans) u' with fresh := s.fresh + 64 }
  | .done u' wr last nans =>
    let s := { (put s wr).countNans u.core nans with fresh := s.fresh + 64 }
    let (ip, loops) := loopNext 3 u'.loops last
    if nbOp w = 0x3F ∨ u.image.length ≤ ip then s.endProgram u.core p b u.ticket 0 0 0
    else setU s { u' with ip := ip, loops := loops }
  | .fail err word =>
    let s := if err = 4 then
        let s := s.setHal p ((s.hal p).logBad (b * 2 ^ 16 + word) causeResidue .nearBank (s.wordFlips (p * 2 ^ 23 + b * 2 ^ 16 + word)))
        s.reportBad p (b * 2 ^ 16 + word) causeResidue (s.core u.core).job ((s.lcoreOf p).getD 0 / 64)
      else s
    s.endProgram u.core p b u.ticket err u.ip (if err = 4 then word else 0)

end Sys2Proof.Machine
end

