-- ==== Sys2Proof/Machine/Turns.lean ====
section
/-! DEFINITION. Accesses that take their turn at a halyard controller (R33, R189 to R192, R241). -/

namespace Sys2Proof.Machine

/-- The unit of a bank stands at a boundary at which 16 requests have been granted (R241). -/
def State.boundaryFull (s : State) (p b : Nat) : Bool :=
  let u := tget (s.nbu p).units b
  u.active && !u.paused && !u.pauseReq && decide (16 ≤ u.served)

/-- Grant the held requests that R189 and R190 put ahead of the waiting access `a`, itself in the queue. At a boundary that is used up,
the unit of its bank runs to the next one (R241). -/
def State.giveWay (s : State) (p : Nat) (a : HReq) : Nat → State
  | 0 => s
  | n + 1 =>
    if s.boundaryFull p (bankOf a.off) then (s.nbAdvance p (bankOf a.off)).giveWay p a n
    else
      match s.nextGrant p (fun k => s.bankFree p k || decide (k = bankOf a.off)) fun _ => true with
      | some r => if r = a then s else (s.grantReq p r).giveWay p a n
      | none => s

/-- An access of an agent that is served inside its own command takes its turn at the controller: it waits in the queue while older
requests to its words and those that R189 and R190 put ahead of it are granted. At a bank that runs a program it is served at a
step boundary, as one of at most 16 (R241; log entry 19). A write into the merge buffer of a free bank is no grant and waits only for
older requests to its words. -/
def State.turn (s : State) (p : Nat) (b : By) (off len : Nat) (grants : Bool) : State :=
  let a : HReq := ⟨b.req, 0, false, b.cls, off, false, [], 0, len, false, false, false⟩
  let k := bankOf off
  if s.bankFree p k && !grants then s.settle p a.words
  else
    let s := if s.bankFree p k then s else s.countHeld p
    let s := s.confirmOlder p a.words
    let x := s.hal p
    let s := (s.setHal p { x with reqs := x.reqs ++ [a] }).giveWay p a (2 * x.reqs.length + 2)
    (s.setHal p { s.hal p with reqs := (s.hal p).reqs.erase a }).countServed p k

/-- Read `len` bytes at slice offset `off`, line by line: data, or the cause and the word of the first failure; later lines are then
not read (log entry 70). -/
def State.readLines (s : State) (p : Nat) (b : By) : List (Nat × Nat) → State × Except (Nat × Nat) Bytes
  | [] => (s, .ok [])
  | (o, n) :: t =>
    match (s.turn p b o n true).readLine p o n (fun _ => true) b with
    | (s, .error e) => (s, .error e)
    | (s, .ok d) =>
      match s.readLines p b t with
      | (s, .ok d') => (s, .ok (d ++ d'))
      | (s, .error e) => (s, .error e)

def State.readSlice (s : State) (p off len : Nat) (b : By) : State × Except (Nat × Nat) Bytes :=
  s.readLines p b (cuts 128 off len)

/-- A write takes its turn and is performed, line by line. -/
def State.writeNow (s : State) (p off : Nat) (data : Bytes) (en : Nat → Bool) (own : Bool) (b : By) : State :=
  (cuts 128 off data.length).foldl (fun s e =>
    let d := (data.drop (e.1 - off)).take e.2
    let en := fun i => en (e.1 - off + i)
    let parts := writeParts e.1 d en
    if parts = [] then s else (s.turn p b e.1 e.2 (s.takesGrant p parts)).writeLine p e.1 d en own b) s

/-- A store of core `core` to a part of one line (R254). It waits in the queue for the confirmation of the home cache, behind an older
request to one of its words, or for a step boundary of its bank; otherwise it is performed at once. True when it waits. -/
def State.writeStore (s : State) (p off : Nat) (data : Bytes) (en : Nat → Bool) (own : Bool) (core : Nat) (b : By) : State × Bool :=
  let r : HReq := ⟨b.req, core, true, b.cls, off, true, data, maskOf data.length en, data.length, (s.asksHome p off).isSome, false, false⟩
  let x := s.hal p
  let busy := !s.bankFree p (bankOf off)
  if r.waits || busy || x.reqs.any (fun q => q.words.any r.words.contains) then
    let s := s.setHal p { x with reqs := x.reqs ++ [r] }
    let s := if busy then s.countHeld p else s
    (match s.asksHome p off with | some line => s.sendInvals line | none => s, true)
  else (s.writeNow p off data en own b, false)

end Sys2Proof.Machine
end

