-- ==== Sys2Proof/Machine/CacheOps.lean ====
section
/-! DEFINITION. Cluster caches (R248 to R261) and the doorbell words that they watch (R346, R372). -/

namespace Sys2Proof.Machine

/-- The set of a line: 8,192 sets of 16 lines (R248; log entry 74). -/
def cacheSet (line : Nat) : Nat := line % 8192

/-- Every line of the caches that meets `drop` leaves them. -/
def State.dropLinesAll (s : State) (drop : Nat → Nat → CLine → Bool) : State :=
  { s with caches := tmap (fun h x => { x with lines := x.lines.filter fun e => !drop h e.1 e.2 }) s.caches }

/-- The first line of a set that is full. -/
def Cache.victim (x : Cache) (line : Nat) : Option Nat :=
  let l := x.lines.filter fun e => decide (cacheSet e.1 = cacheSet line)
  if (x.line line).valid || decide (l.length < 16) then none else l.head?.map (·.1)

/-- Put a line into a cache that is enabled; a full set drops one (R250: any line may go at any time), a home line with its sharers
(R251). -/
def State.allocLine (s : State) (h line : Nat) (l : CLine) : State :=
  if !(s.cache h).enabled then s
  else
    let s := match (s.cache h).victim line with
      | some v => if homeOf v = h then s.dropHome v false else s.dropAt h v
      | none => s
    s.setCache h { s.cache h with lines := tput (s.cache h).lines line l }

/-! Doorbell words -/

/-- R345: a producer index reaches a channel: none where it is discarded. -/
def Chan.ring (x : Chan) (v : Nat) : Option Chan :=
  let old := (x.prod + 2 ^ 16 - x.cons) % 2 ^ 16
  let new := (v + 2 ^ 16 - x.cons) % 2 ^ 16
  if 2 ^ x.log2 < new ∨ new < old then none else some { x with prod := v }

/-- R345: a producer index that reaches a channel, from a core or from the host; the failed read of a ring is tried again. -/
def State.ringChannel (s : State) (k v : Nat) (host : Bool) : State :=
  let x := tget s.dma.ch k
  match x.ring v with
  | some y => { s with dma := { s.dma with ch := tput s.dma.ch k { y with stopped := false } } }
  | none => { s with dma := { s.dma with ch := tput s.dma.ch k { x with stopped := false, overrun := x.overrun || host } } }

/-- Channels 0 to 7 of HUB are privileged (R344). -/
def chanPriv (k : Nat) : Bool := decide (k < 8)

/-- A context-owned channel that management firmware has assigned with a doorbell word (R346): the word or its ring lies above address
0. -/
def Chan.hasBell (x : Chan) (k : Nat) : Bool := !chanPriv k && !x.host && (decide (x.bell ≠ 0) || decide (x.base ≠ 0))

/-- R346: the home has performed a CACHED store or AMO: a registered word among its bytes (`en` over device addresses) rings its
channel. -/
def State.ringWords (s : State) (en : Nat → Bool) (line : Bytes) : State :=
  (s.dma.ch.filter fun e => e.2.hasBell e.1 && (List.range 4).any fun i => en (e.2.bell / 4 * 4 + i)).foldl
    (fun s e => s.ringChannel e.1 (leAt line (e.2.bell / 4 * 4 % 128) 2) false) s

/-- Slice offset of the index array: bank 15 of layer 7 (R371). -/
def indexBase : Nat := 127 * 2 ^ 21

/-- The queue whose index word holds the address, where the line lies in the index array of a copy (R371, R372). -/
def State.indexQueue (s : State) (da : Nat) : Option Nat :=
  let c := da / 2 ^ 28
  let off := da % 2 ^ 28
  if da / 2 ^ 40 = 0 && s.que.copies.contains c && decide (indexBase ≤ off) && decide (off < indexBase + 2 ^ 19) then
    some ((off - indexBase) / 8)
  else none

/-- R372: accesses to the index array that the home admits: CACHED loads, and 4-byte stores or AMOs to bytes 4 to 7 of a word,
by a core whose context is that of the queue's job. -/
def State.indexAllows (s : State) (q : Nat) (r : CReq) : Bool :=
  let e := tget s.que.q q
  let j := s.job e.job
  decide (e.job ≠ 0) && decide (j.state ≠ 0) && decide (j.rc.ctx = r.ctx) && (decide ((s.core r.core).job = e.job) || decide (r.kind = .load)) &&
    (match r.kind with
     | .load => true
     | _ => decide (r.len = 4) && decide (r.da % 8 = 4))

/-! Performing an access at a line -/

/-- The index words of a part that hold an active byte of the access. -/
def CReq.indexWords (r : CReq) (da len q : Nat) : List Nat :=
  ((List.range ((da % 8 + len + 7) / 8)).filter fun i =>
    (List.range len).any fun k => decide ((da % 8 + k) / 8 = i) && (decide (da ≠ r.da) || r.mask.testBit k)).map (q + ·)

/-- Permission of one part of a CACHED access at the home (R41, R201, R410): the cause of a refusal. A bank under test refuses its index
words too (R215). -/
def State.partRefusal (s : State) (r : CReq) (da len : Nat) : Option Nat :=
  let c := da / 2 ^ 28
  let off := da % 2 ^ 28
  match s.phys c with
  | none => some causeRange
  | some p =>
    let bad := match s.indexQueue da with
      | some q => !(r.indexWords da len q).all (fun i => s.indexAllows i { r with da := da, len := len }) || s.underTest p (bankOf off)
      | none => s.coreRefused (s.core r.core).fw r.ctx c p off (decide (r.kind = .store ∨ r.kind = .amo))
    if (s.hal p).isOpen (bankOf off) || bad then some causeRegion else none

/-- A store that crosses a line is refused as a whole (R125). -/
def State.cachedRefusal (s : State) (r : CReq) : Option Nat :=
  match s.partRefusal r r.da r.len with
  | some cause => some cause
  | none => match r.other with
    | some o => s.partRefusal r o.1 o.2
    | none => none

/-- The result of an atomic operation on the old value (R128). -/
def amoNew (fn : Nat) (old b c : Nat) : Nat :=
  match fn with
  | 0 => (old + b) % 2 ^ 32
  | 1 => if sext 32 old ≤ sext 32 b then old else b % 2 ^ 32
  | 2 => if sext 32 b ≤ sext 32 old then old else b % 2 ^ 32
  | 3 => b % 2 ^ 32
  | 4 => if old = b % 2 ^ 32 then c % 2 ^ 32 else old
  | 5 => fadd32 old (b % 2 ^ 32)
  | _ => fmtBF16.encode false false ((fmtBF16.decode old).add (fmtBF16.decode (b % 2 ^ 16)))

/-- The agent that a cache is at a halyard controller. -/
def State.cacheBy (s : State) (r : CReq) (cls : Nat) : By := ⟨.cacheFill, cls, (s.core r.core).job, some r.ctx, r.core / 64, false⟩

/-- The 128 bytes of a line as a read would see them before any error: memory under the merge buffer. -/
def State.lineNow (s : State) (p line : Nat) : Bytes :=
  (List.range 4).flatMap fun i =>
    let w := line * 4 + i
    let m := s.wordMem (p * 2 ^ 23 + w)
    match (s.hal p).merge.find? (fun e => e.word = w) with
    | some e => mergeBytes e.mask m e.data
    | none => m

/-- The home writes the bytes of `data` that `en` marks at `r.da` through to the slice (R250): it updates its own copy and watches
for doorbells. -/
def State.writeThrough (s : State) (r : CReq) (data : Bytes) (en : Nat → Bool) : State :=
  let c := r.da / 2 ^ 28
  match s.phys c with
  | none => s
  | some p =>
    let off := r.da % 2 ^ 28
    let b := s.cacheBy r 2
    let parts := writeParts off data en
    let s := (s.turn p b off data.length (s.takesGrant p parts)).writeWords p parts (decide (r.core = c)) b
    let line := r.da / 128
    let h := homeOf line
    let l := (s.cache h).line line
    let new := (List.range 128).map fun i =>
      if decide (r.da % 128 ≤ i) && decide (i < r.da % 128 + data.length) && en (i - r.da % 128) then data.getD (i - r.da % 128) 0
      else l.data.getD i 0
    let s := if l.valid then s.setCache h { s.cache h with lines := tput (s.cache h).lines line { l with data := new } } else s
    let now := s.lineNow p (off / 128)
    let s := s.ringWords (fun a => decide (r.da ≤ a) && decide (a < r.da + data.length) && en (a - r.da)) now
    match s.indexQueue r.da with
    | some q => { s with que := { s.que with midx := s.que.midx ++ [(q, leAt now (r.da / 8 * 8 % 128 + 4) 4)] } }
    | none => s

/-- The home invalidates every sharer of a line, and has their acknowledgements before it goes on (R251, R252). -/
def State.dropSharers (s : State) (h line : Nat) : State :=
  let l := (s.cache h).line line
  let ds := sharerDies l
  let s := ds.foldl (fun s d => s.dropAt (servingOf d line) line) s
  let x := s.cache h
  if l.valid then
    s.setCache h { x with invalSent := wrap 32 (x.invalSent + ds.length), lines := tput x.lines line { l with sharers := 0 } }
  else s

/-- The other part of a store leaves the queue that holds it. -/
def State.dropPartner (s : State) (r : CReq) : State :=
  match r.other with
  | none => s
  | some o =>
    let mine := fun t : CReq => decide (t.core = r.core) && decide (t.kind = .store) && decide (t.ea = r.ea) && decide (t.da = o.1)
    match s.caches.find? (fun e => e.2.q.any mine) with
    | none => s
    | some e => (s.setCache e.1 { e.2 with q := e.2.q.eraseP mine }).acked r.core

/-- An access that is refused, or whose fill has failed: a precise exception where the core waits for it (R208, R209), an imprecise one
of a store, which is raised once and writes nothing (R125), or of a reduction (R74; log entry 81). -/
def State.refuseCached (s : State) (r : CReq) (cause : Nat) : State :=
  match r.kind with
  | .store => ((s.acked r.core).dropPartner r).imprecise r.core ⟨cause, r.ea, 0, 0⟩
  | .fetch => s.fetchFails r.core (r.da / 128) (if cause = causeSealed then causeFetch else cause)
  | _ => if r.post then (s.acked r.core).imprecise r.core ⟨cause, r.ea, 0, 0⟩ else s.loadFails r.core cause

/-- R257: the home changes a line's data by an AMO. -/
def State.changeLine (s : State) (h : Nat) (r : CReq) (line : Bytes) : State :=
  let new := amoNew r.fn (leAt line (r.da % 128) r.len) (leAt r.data 0 8) (leAt r.data 8 8)
  let s := s.dropSharers h (r.da / 128)
  let s := s.writeThrough r (leBytes r.len new) (fun _ => true)
  s.setCache h { s.cache h with performed := wrap 32 ((s.cache h).performed + 1) }

/-- R257: perform an AMO in the line's data. -/
def State.performAmo (s : State) (h : Nat) (r : CReq) (line : Bytes) : State :=
  let s := s.changeLine h r line
  if r.post then s.acked r.core else s.deliver r.core 0 (leBytes r.len (leAt line (r.da % 128) r.len))

/-- A load or a fetch is answered from a line; a copy goes to the serving cache of the die that asked (R252). -/
def State.answerLoad (s : State) (h : Nat) (r : CReq) (data : Bytes) : State :=
  let line := r.da / 128
  let s := match r.via with
    | some d =>
      let g := servingOf d line
      let l := (s.cache h).line line
      if l.valid ∧ (s.cache g).enabled then
        let s := s.setCache h { s.cache h with lines := tput (s.cache h).lines line { l with sharers := l.sharers ||| 2 ^ d } }
        s.allocLine g line ⟨true, data, r.ctx, 0⟩
      else s
    | none => s
  if r.kind = .fetch then s.fetched r.core line
  else s.deliver r.core (s.partOf r.core r.da) ((data.drop (r.da % 128)).take r.len)

/-- Forward an access to the home of its line. -/
def State.forward (s : State) (r : CReq) : State :=
  let g := homeOf (r.da / 128)
  s.setCache g { s.cache g with q := (s.cache g).q ++ [r] }

/-- The held requests to the words of a line at its controller, accepted before (R192, R253). -/
def State.settleLine (s : State) (line : Nat) : State :=
  match s.phys (line / 2 ^ 21) with
  | some p => s.settle p ((List.range 4).map fun i => line % 2 ^ 21 * 4 + i)
  | none => s

/-- R252, R257: the home performs an access. -/
def State.serveHome (s : State) (h : Nat) (r : CReq) : State :=
  let line := r.da / 128
  let l := (s.cache h).line line
  let hit := l.valid && decide (l.ctx = r.ctx)
  let s := if l.valid && !hit then s.dropHome line false else s
  match s.cachedRefusal r with
  | some cause => s.refuseCached r cause
  | none =>
    match r.kind with
    | .store => ((s.dropSharers h line).writeThrough r r.data r.mask.testBit).acked r.core
    | .amo => if hit then s.performAmo h r l.data else s.setCache h { s.cache h with fills := (s.cache h).fills ++ [r] }
    | _ => if hit then s.answerLoad h r l.data else s.setCache h { s.cache h with fills := (s.cache h).fills ++ [r] }

/-- R252, R256: count a hit or a miss of context `ctx` at a line; `counts`: a hit counts here. -/
def State.countAccess (s : State) (h line ctx : Nat) (counts : Bool) : State :=
  let l := (s.cache h).line line
  let x := s.cache h
  s.setCache h (if l.valid && decide (l.ctx = ctx) then (if counts then { x with hits := wrap 32 (x.hits + 1) } else x)
    else { x with misses := wrap 32 (x.misses + 1), ctxMiss := if l.valid then wrap 32 (x.ctxMiss + 1) else x.ctxMiss })

/-- R249 to R258: a cache serves one access. A store or AMO that finds a copy at a cache that is not the home is no hit: it is not
served from that line. -/
def State.serveAccess (s : State) (h : Nat) (r : CReq) : State :=
  let line := r.da / 128
  let home := decide (homeOf line = h)
  let read := decide (r.kind = .load) || decide (r.kind = .fetch)
  let s := if home then s.settleLine line else s
  let l := (s.cache h).line line
  let hit := l.valid && decide (l.ctx = r.ctx)
  let s := s.countAccess h line r.ctx (home || read)
  if home then s.serveHome h r
  else if read then
    if hit then s.answerLoad h { r with via := none } l.data
    else (s.dropAt h line).forward { r with via := some (h / 4) }
  else (s.dropAt h line).forward { r with via := none }

/-- R260, R261: an error met in the cache's arrays on the way. -/
def State.cacheError (s : State) (h line : Nat) (e : CacheErr) : State :=
  let x := s.cache h
  match e with
  | .none => s
  | .corrected => s.setCache h { x with errCorrected := sat 16 (x.errCorrected + 1) }
  | .data st w =>
    let s := s.setCache h { x with errValid := true, errKind := 0, errSet := st % 8192, errWay := w % 16,
                                   errUncorrectable := sat 16 (x.errUncorrectable + 1) }
    if homeOf line = h then s.dropHome line false else s.dropAt h line
  | .tag st w =>
    let s := s.setCache h { x with errValid := true, errKind := 1, errSet := st % 8192, errWay := w % 16, leaving := []
                                   errUncorrectable := sat 16 (x.errUncorrectable + 1) }
    let s := { s.dropLinesAll (fun g k _ => decide (g = h) || decide (homeOf k = h)) with invals := s.invals.filter fun e => decide (e.2.2 ≠ h) }
    s.report ⟨h / 4 + 1, 0x07, srcOf 3 h, 0, h, 0, 0, 0⟩

/-- R401: no lost pair parts a cache from the core whose access it serves. -/
def State.cacheReached (s : State) (h : Nat) (r : CReq) : Bool := s.bothWays (r.core / 256) (h / 4)

/-- The first access whose line has no fill, and at its home no invalidation, outstanding (R253); one that a lost pair cuts off waits for
ever. -/
def State.nextAccess (s : State) (h : Nat) : Option CReq :=
  (s.cache h).q.find? fun r =>
    s.cacheReached h r && !((s.cache h).fills.any fun f => decide (f.da / 128 = r.da / 128)) &&
      (decide (homeOf (r.da / 128) ≠ h) || !s.invals.any fun e => decide (e.2.1 = r.da / 128))

def execCcAccess (h : Nat) (e : CacheErr) (s : State) : Host.Outcome State Fault Refusal :=
  unit (decide (h < 20))
    (if !s.dieRuns (h / 4) then s
     else match s.nextAccess h with
      | none => s
      | some r =>
        let x := s.cache h
        ((s.setCache h { x with q := x.q.erase r }).cacheError h (r.da / 128) e).serveAccess h r)

/-- R252: the home fills a line from its slice and completes the access that missed. A bank that has become open meanwhile gives no
line (R201, R248). -/
def State.fillFor (s : State) (h : Nat) (r : CReq) : State :=
  match s.cachedRefusal r, s.phys (r.da / 2 ^ 28) with
  | some cause, _ => s.refuseCached r cause
  | none, none => s.refuseCached r causeRange
  | none, some p =>
    match s.readSlice p (r.da % 2 ^ 28 / 128 * 128) 128 (s.cacheBy r (if r.kind = .amo then 2 else 0)) with
    | (s, .error (cause, _)) => s.refuseCached r cause
    | (s, .ok d) =>
      let s := s.allocLine h (r.da / 128) ⟨true, d, r.ctx, 0⟩
      if r.kind = .amo then s.performAmo h r d else s.answerLoad h r d

def execCcFill (h : Nat) (u : List Upset) (s : State) : Host.Outcome State Fault Refusal :=
  unit (decide (h < 20))
    (if !s.dieRuns (h / 4) then s
     else match (s.cache h).fills.find? (s.cacheReached h) with
      | none => s
      | some r =>
        let s := s.setCache h { s.cache h with fills := (s.cache h).fills.erase r }
        let s := match s.phys (r.da / 2 ^ 28) with
          | some p => s.upsets p (r.da % 2 ^ 28 / 128) u
          | none => s
        s.fillFor h r)

/-- R251, R256: a cache has dropped its copy and acknowledges: its bit at the home falls, and a line that is leaving goes with its last
sharer. -/
def State.ackInval (s : State) (g line : Nat) : State :=
  let h := homeOf line
  let x := s.cache h
  let l := x.line line
  let l := { l with sharers := ((List.range 5).filter fun d => l.sharers.testBit d && decide (servingOf d line ≠ g)).foldl (fun a d => a + 2 ^ d) 0 }
  if !(x.line line).valid then s.setCache h { x with leaving := x.leaving.filter (· ≠ line) }
  else if l.sharers = 0 ∧ line ∈ x.leaving then
    (s.dropAt h line).setCache h { (s.dropAt h line).cache h with leaving := x.leaving.filter (· ≠ line) }
  else s.setCache h { x with lines := tput x.lines line l }

/-- R251: an invalidation reaches a cache, which drops its copy and acknowledges. -/
def execCcInvalidate (i : Nat) (s : State) : Host.Outcome State Fault Refusal :=
  match s.invals[i]? with
  | none => .next s
  | some (g, line, _) => .next (if !s.bothWays (homeOf line / 4) (g / 4) then s else ({ s.dropAt g line with invals := s.invals.eraseIdx i } : State).ackInval g line)

/-- R256: the walk drops every line of one context at one cache; a home line with sharers goes when they have acknowledged. -/
def State.walkContext (s : State) (h ctx : Nat) : State :=
  let s := s.setCache h { s.cache h with invCtx := ctx }
  ((s.cache h).lines.filter fun e => e.2.ctx = ctx).foldl (fun s e =>
    if homeOf e.1 ≠ h then s.dropAt h e.1
    else if e.2.sharers = 0 then s.dropHome e.1 false
    else
      let s := s.sendInvals e.1
      let x := s.cache h
      s.setCache h { x with leaving := x.leaving.filter (· ≠ e.1) ++ [e.1] }) s

/-- The walk with every acknowledgement, as a cluster's change of context waits for it (R256, R414). -/
def State.dropContext (s : State) (h ctx : Nat) : State :=
  let s := s.setCache h { s.cache h with invCtx := ctx }
  ((s.cache h).lines.filter fun e => e.2.ctx = ctx).foldl (fun s e => if homeOf e.1 = h then s.dropHome e.1 false else s.dropAt h e.1) s

def execCcContextInvalidate (h ctx : Nat) (s : State) : Host.Outcome State Fault Refusal :=
  unit (decide (h < 20) && decide (ctx < 256)) (if s.dieRuns (h / 4) then s.walkContext h ctx else s)

end Sys2Proof.Machine
end

