-- ==== Sys2Proof/Machine/QueOps.lean ====
section
/-! DEFINITION. The host's memory, interrupts, alerts' pin, and the queue table (R371 to R378, R509). -/

namespace Sys2Proof.Machine

/-! Requests to host memory (R378) -/

/-- The first and last granule of 1 MiB of an address association block, where it is valid (R378; log entry 102). -/
def State.ideRange (s : State) (b : Nat) : Option (Nat × Nat) :=
  let w := fun i => tget s.host.cfg (Config.ideBlock b + 4 * i)
  if (w 0).testBit 0 then some (w 2 % 2 ^ 32 * 2 ^ 12 + w 0 / 2 ^ 8 % 2 ^ 12, w 1 % 2 ^ 32 * 2 ^ 12 + w 0 / 2 ^ 20 % 2 ^ 12) else none

/-- A stream carries the requests of a granule: one of its two blocks holds it, or it has no valid block (log entry 102). -/
def State.streamHas (s : State) (st g : Nat) : Bool :=
  match s.ideRange (2 * st), s.ideRange (2 * st + 1) with
  | none, none => true
  | x, y => [x, y].any fun r => match r with | some (lo, hi) => decide (lo ≤ g) && decide (g ≤ hi) | none => false

/-- R378: requests to `len` bytes of host memory may be sent: where policy requires it, each on a stream in Secure state. -/
def State.hostOk (s : State) (a len : Nat) : Bool :=
  !s.sec.ideRequired ||
    (List.range ((a + len - 1) / 2 ^ 20 - a / 2 ^ 20 + 1)).all fun i => s.host.secure.any fun st => s.streamHas st (a / 2 ^ 20 + i)

/-- R364: the payload of a write and the length of a read that the host has set, within what the module supports. -/
def State.maxPayload (s : State) : Nat := 128 * 2 ^ min 2 s.host.mps
def State.maxRead (s : State) : Nat := 128 * 2 ^ min 5 s.host.mrrs

/-- A posted write to host memory, in requests of at most MAX_PAYLOAD bytes; not sent without a Secure stream where policy requires
one. -/
def State.hostWrite (s : State) (a : Nat) (data : Bytes) : State :=
  (cuts s.maxPayload a data.length).foldl
    (fun s e => if s.hostOk e.1 e.2 then s.send (.hostWrite e.1 ((data.drop (e.1 - a)).take e.2)) else s) s

/-- A read of host memory: its tag. -/
def State.hostRead (s : State) (a len : Nat) : Nat × State :=
  (s.host.tag, { s.send (.hostRead s.host.tag a len) with host := { s.host with tag := s.host.tag + 1 } })

/-- Reads of host memory that the command at hand answers, in requests of at most the length that the host has set. -/
def State.hostReads (s : State) (a len : Nat) : State := (cuts s.maxRead a len).foldl (fun s e => (s.hostRead e.1 e.2).2) s

/-- Reads of host memory that have not been answered. -/
def State.outstanding (s : State) : Nat :=
  (s.cores.map fun e => (match e.2.wait with | some w => w.tags.length | none => 0) + b2n e.2.readBack.isSome).sum +
    (s.dma.ch.map fun e => match e.2.run with | some r => (r.tags.filter fun t => decide (t % 2 = 0)).length | none => 0).sum +
    (s.serve.map fun e => ((e.2.reqs.map fun x => b2n x.wait.isSome + b2n x.out.isSome).sum + (e.2.replies.map fun r => b2n r.wait.isSome).sum)).sum +
    s.guest.rds.length

/-- R364: at most 768 requests are outstanding: `n` more must wait. -/
def State.readsFull (s : State) (n : Nat) : Bool := decide (768 < s.outstanding + n)

/-- The message of a vector: a write that needs a Secure stream as any other does (R378). -/
def State.message (s : State) (v : Nat) : State :=
  if s.hostOk (tget s.host.msix (v * 4) + tget s.host.msix (v * 4 + 1) * 2 ^ 32) 4 then s.send (.msix v) else s

/-- R364, R376: where MSI-X is enabled, send a vector's message, or set its pending bit while it or the function is
masked. -/
def State.sendMsix (s : State) (v : Nat) : State :=
  if !s.host.msixEn then s
  else if !s.host.msixMask && tget s.host.msix (v * 4 + 3) % 2 = 1 then s.message v
  else if s.host.pba.contains v then s else { s with host := { s.host with pba := s.host.pba ++ [v] } }

/-- Latch an alert cause; a new one wakes a host whose function 0 is in D3hot with PME_En set (R509, R522). -/
def State.raiseAlert (s : State) (k : Nat) : State :=
  let new := !s.alert.causes.getLsbD k
  let s := s.alertOn k
  if new ∧ s.host.d3hot ∧ s.host.pmeEn then { s.send .wake with host := { s.host with wake := true, pmeStatus := true } } else s

/-- ALERT_N is asserted: a cause is latched, and the module, which drives the pin, is not struck (R509, R526). -/
def State.alertPin (s : State) : Bool := !s.struck && decide (s.alert.causes ≠ 0)

/-! The queue table (R371) -/

def State.qe (s : State) (q : Nat) : QEntry := tget s.que.q q

/-- The 64 bytes of a table entry. -/
def QEntry.bytes (e : QEntry) : Bytes :=
  leBytes 1 e.kind ++ leBytes 1 (b2n e.ien) ++ leBytes 2 e.vector ++ leBytes 1 e.log2 ++ leBytes 1 e.delay ++ leBytes 1 e.job ++
    leBytes 1 0 ++ leBytes 8 e.ring ++ leBytes 8 e.shadow ++ List.replicate 40 0

/-- Slice offset of the table: banks 13 and 14 of layer 7 (R371). -/
def tableBase : Nat := 125 * 2 ^ 21

/-- HUB's own accesses to slices. -/
def byHub : By := ⟨.host, 2, 0, none, 20, false⟩

/-- HUB writes bytes into the slice of a logical core; a bank under test refuses it (R215). -/
def State.hubWrite (s : State) (c off : Nat) (data : Bytes) : State :=
  match s.phys c with
  | some p => if s.underTest p (bankOf off) then s else s.writeNow p off data (fun _ => true) false byHub
  | none => s

/-- HUB writes bytes at an offset of some copies. -/
def State.writeCopies (s : State) (l : List Nat) (off : Nat) (data : Bytes) : State := l.foldl (fun s c => s.hubWrite c off data) s

/-- Write the MIDX of a queue into some copies of the index array. -/
def State.writeMidx (s : State) (l : List Nat) (q : Nat) : State := s.writeCopies l (indexBase + 8 * q + 4) (leBytes 4 (s.qe q).midx)

/-- Change a queue's entry: HUB writes what has changed, the entry's bytes, HIDX or MIDX, into both copies. -/
def State.setQe (s : State) (q : Nat) (e : QEntry) : State :=
  let o := s.qe q
  let l := s.que.copies
  let s := { s with que := { s.que with q := tput s.que.q q e } }
  let s := if e.bytes = o.bytes then s else s.writeCopies l (tableBase + 64 * q) e.bytes
  let s := if e.hidx = o.hidx then s else s.writeCopies l (indexBase + 8 * q) (leBytes 4 e.hidx)
  if e.midx = o.midx then s else s.writeMidx l q

/-- R372: a new MIDX is accepted: the store has changed the primary copy, and HUB writes the other. -/
def State.takeMidx (s : State) (q m : Nat) : State :=
  ({ s with que := { s.que with q := tput s.que.q q { s.qe q with midx := m } } } : State).writeMidx (s.que.copies.drop 1) q

/-- Count a rejection. -/
def State.rejectQueue (s : State) (q reason : Nat) : State :=
  { s with que := { s.que with rejQueue := q, rejReason := reason, rejCount := wrap 32 (s.que.rejCount + 1) } }

/-- Difference of free-running 32-bit indexes. -/
def idx (a b : Nat) : Nat := (a + 2 ^ 32 - b % 2 ^ 32) % 2 ^ 32

/-- R376: the shadow word, and the interrupt that follows it. -/
def State.shadowQueue (s : State) (q : Nat) : State :=
  let e := s.qe q
  let s := if e.shadow ≠ 0 then s.hostWrite (e.shadow % 2 ^ 40) (leBytes 4 e.midx ++ leBytes 4 e.hidx) else s
  if !e.ien then s
  else if e.delay = 0 then s.sendMsix e.vector
  else if e.interval then { s with que := { s.que with q := tput s.que.q q { e with owed := true } } }
  else { s.sendMsix e.vector with que := { s.que with q := tput s.que.q q { e with interval := true, owed := false } } }

/-- R371: reserve the queue-table banks of a logical core to HUB, or give them up. -/
def State.reserveBanks (s : State) (c : Nat) (on : Bool) : State :=
  { s with own := [125, 126, 127].foldl (fun t b => tput t (c * 128 + b) ⟨false, on, 0, 0⟩) s.own }

/-- R374: a backed core of the die, other than `c`, whose three banks are free. -/
def State.copyPlace (s : State) (d c : Nat) : Option Nat :=
  ((List.range 256).map (d * 256 + ·)).find? fun k => decide (k ≠ c) && s.backed k &&
    [125, 126, 127].all fun b => let o := s.owner k b; !o.owned && !o.hub

/-- Banks 13 to 15 of layer 7 of the slice of `c` become those of `k`, sealed: the table, the index array and the firmware store behind
it (R371, R446). -/
def State.copyBanks (s : State) (k c : Nat) : State :=
  match s.phys k, s.phys c with
  | some p, some q =>
    let src := s.mem.filter fun e => decide (q * 2 ^ 28 + tableBase ≤ e.1) && decide (e.1 < (q + 1) * 2 ^ 28)
    let s := ([125, 126, 127] : List Nat).foldl (fun (s : State) b => s.zeroBank p b) s
    let x := s.hal p
    { s.setHal p { x with region := x.region &&& BitVec.ofNat 128 (2 ^ 125 - 1) } with
      mem := src.foldl (fun t e => tput t (e.1 % 2 ^ 28 + p * 2 ^ 28) e.2) s.mem }
  | _, _ => s

/-- R446: the die whose copy of the firmware store serves a die. -/
def storeDie (d : Nat) : Nat := if d ≤ 2 then 1 else 3

/-- R446: where the cores of a die fetch their firmware. -/
def State.storeFor (s : State) (d : Nat) : Nat :=
  let near := s.que.copies.find? fun c => decide (c / 256 = storeDie d)
  match near, s.que.copies with
  | some c, _ => c * 2 ^ 28 + storeBase
  | none, c :: _ => c * 2 ^ 28 + storeBase
  | none, [] => 0

/-- R446: once the copy on die `d` has moved, FW_VECTOR of the cores that it serves is set anew. -/
def State.resetVectors (s : State) (d : Nat) : State :=
  { s with cores := tmap (fun c x => if storeDie (c / 256) = d then
      { x with sys := { x.sys with fwVector := BitVec.ofNat 64 (s.storeFor (c / 256)) } } else x) s.cores }

/-- A core's slice is lost: a table copy in it is rebuilt from the other in another slice of its die, the firmware store behind it first
(R374, R446). The second value is true when none is left. -/
def State.queCopyLost (s : State) (c : Nat) : State × Bool :=
  if !s.que.copies.contains c then (s, false)
  else
    let rest := s.que.copies.filter (· ≠ c)
    let s := (s.reserveBanks c false)
    match rest, s.copyPlace (c / 256) c with
    | [], _ => ({ s with que := { s.que with copies := [] } }, true)
    | o :: _, some k =>
      let s := { s with que := { s.que with copies := s.que.copies.map fun x => if x = c then k else x } }
      (((s.reserveBanks k true).copyBanks k o).resetVectors (c / 256), false)
    | _ :: _, none => (({ s with que := { s.que with copies := rest } } : State).resetVectors (c / 256), false)

/-! Posting a completion by HUB itself (R338, R341) -/

/-- Room in a completion queue: its producer index may still rise. -/
def QEntry.room (e : QEntry) : Bool := decide (idx e.midx e.hidx < 2 ^ e.log2)

/-- Post one entry: the ring, the index, the shadow. -/
def State.postEntry (s : State) (q : Nat) (entry : Bytes) : State :=
  let e := s.qe q
  let s := s.hostWrite (e.ring % 2 ^ 40 + e.midx % 2 ^ e.log2 * 64) entry
  (s.setQe q { e with midx := (e.midx + 1) % 2 ^ 32 }).shadowQueue q

/-- Post an entry where its queue has room, or hold it. -/
def State.postOrHold (s : State) (q : Nat) (entry : Bytes) : State :=
  if (s.qe q).room then s.postEntry q entry else { s with que := { s.que with late := s.que.late ++ [(q, entry)] } }

/-- Post the held entries of a queue that has room again. -/
def State.postLate (s : State) (q : Nat) : State :=
  match s.que.late.find? (fun e => e.1 = q) with
  | some e => if (s.qe q).room then ({ s with que := { s.que with late := s.que.late.erase e } }).postEntry q e.2 else s
  | none => s

/-- The completion of R338 and R341: KIND 0, a status and the job's number, all else zero. -/
def hubCompletion (status j : Nat) : Bytes := leBytes 1 0 ++ leBytes 1 status ++ leBytes 1 0 ++ leBytes 1 j ++ List.replicate 60 0

/-- Post one into each completion queue of a job's range. -/
def State.postToRange (s : State) (j : Nat) (status : Nat) : State :=
  let r := (s.job j).rc
  (s.que.q.filter fun e => decide (r.qFirst ≤ e.1) && decide (e.1 < r.qFirst + r.qCount) && decide (e.2.kind = 2)).foldl
    (fun s e => s.postOrHold e.1 (hubCompletion status j)) s

end Sys2Proof.Machine
end

