-- ==== Sys2Proof/Machine/LinkOps.lean ====
section
/-! DEFINITION. Frames that the module sends and its requests to other modules (R281, R388 to R394). -/

namespace Sys2Proof.Machine

def State.lport (s : State) (p : Nat) : LPort := tget s.lnk.ports p
def State.setLport (s : State) (p : Nat) (x : LPort) : State := { s with lnk := { s.lnk with ports := tput s.lnk.ports p x } }

/-- The virtual channel of a frame type (R389; NAK and idle frames on VC 2, log entry 31). -/
def vcOf (typ : Nat) : Nat := if typ = 1 ∨ typ = 2 then 0 else if typ = 3 ∨ typ = 4 then 1 else 2

/-- Credits that a frame takes: its data units plus one (R389). -/
def frameUnits (data : Bytes) : Nat := (data.length + 63) / 64 + 1

/-- Whether a port carries frames of a virtual channel (R387, R393). -/
def LPort.carries (x : LPort) (vc : Nat) : Bool :=
  decide (x.state = 2) || (decide (x.state = 4) && decide (vc ≠ 0)) || (decide (vc = 2) && (decide (x.state = 1) || decide (x.state = 3)))

/-- R389, R392: the frame may be sent now. -/
def LPort.canSend (x : LPort) (typ : Nat) (f : Frame) : Bool :=
  x.carries (vcOf typ) && decide (x.tx < 2 ^ 48 - 1) && decide (frameUnits f.data ≤ tget x.credits (vcOf typ))

/-! Frames as bytes, and their seal (R388, R390) -/

/-- The link header. -/
def frameHeader (typ : Nat) (f : Frame) : Bytes :=
  leBytes 1 typ ++ leBytes 1 (f.vc + b2n f.phase * 128) ++ leBytes 2 ((max f.len f.data.length + 63) / 64) ++ leBytes 1 f.dst ++ leBytes 1 f.src ++
    leBytes 2 (f.creditVc * 2 ^ 14 + f.creditUnits) ++ leBytes 8 f.ctr ++ leBytes 8 f.ack ++ leBytes 8 0
/-- The transaction header and the data. -/
def frameBody (f : Frame) : Bytes :=
  leBytes 4 f.off ++ leBytes 2 f.epoch ++ leBytes 2 f.tag ++ leBytes 1 f.status ++ List.replicate 7 0 ++ f.data
/-- The body sealed under a key of 32 bytes and its salt of 4. -/
def frameSeal (key : Bytes) (typ : Nat) (f : Frame) : Bytes :=
  gcmSeal (key.take 32) ((key.drop 32).take 4 ++ leBytes 8 f.ctr) (frameHeader typ f) (frameBody f)
/-- What travels on the link. -/
def frameWire (typ : Nat) (f : Frame) : Bytes := frameHeader typ f ++ f.sealed

/-! Management frames (R283, R392, R397): what their data say (log entry 105) -/

def managementOf (l : Bytes) : Frame := { (default : Frame) with len := 64, data := l ++ List.replicate (64 - l.length) 0 }
/-- The start of a key update. -/
def keyFrame : Frame := managementOf [1]
/-- A window-epoch notice, and a segment-fault notice. -/
def epochFrame (win epoch : Nat) : Frame := managementOf (2 :: leBytes 1 win ++ leBytes 2 epoch)
def segmentFrame (inst : Nat) : Frame := managementOf (3 :: leBytes 4 inst)
/-- The frame starts a key update. -/
def startsUpdate (typ : Nat) (f : Frame) : Bool := decide (typ = 6) && decide (f.data.head? = some 1)

/-- The credit return that the next frame carries: one virtual channel that owes units. -/
def LPort.owed (x : LPort) : Nat × Nat :=
  match x.owe with
  | [] => (0, 0)
  | e :: _ => (e.1, min e.2 0x3FFF)

/-- Send a new frame: next counter, acknowledgement and credit return, sealed under the current key (R388, R390); behind the frame that
starts a key update the new key is in use (R392). -/
def State.transmit (s : State) (p typ : Nat) (f : Frame) : State :=
  let x := s.lport p
  let vc := vcOf typ
  let (cv, cu) := x.owed
  let f := { f with vc := vc, phase := x.phase, src := s.flash.fabricId.getD 0, dst := x.peer, creditVc := cv, creditUnits := cu,
                    ctr := x.tx + 1, ack := x.rx }
  let f := { f with sealed := frameSeal x.txKey typ f }
  let x := { x with tx := x.tx + 1, owe := tput x.owe cv (tget x.owe cv - cu), retry := x.retry ++ [(typ, f)],
                    credits := tput x.credits vc (tget x.credits vc - frameUnits f.data) }
  let x := if startsUpdate typ f then { x with phase := !x.phase, tx := 0, txKey := Config.nextKey x.txKey } else x
  (s.setLport p x).send (.frame p typ f)

/-- Send a frame, or hold it for credits behind the frames of its own virtual channel. -/
def State.sendFrame (s : State) (p typ : Nat) (f : Frame) : State :=
  let x := s.lport p
  if x.canSend typ f && !x.held.any (fun e => decide (vcOf e.1 = vcOf typ)) then s.transmit p typ f
  else s.setLport p { x with held := x.held ++ [(typ, f)] }

/-- Send the held frames whose credits suffice, in order within each virtual channel. -/
def State.drainFrames (s : State) (p : Nat) : List (Nat × Frame) → List Nat → State
  | [], _ => s
  | (typ, f) :: t, blocked =>
    let x := s.lport p
    if !blocked.contains (vcOf typ) && x.canSend typ f then
      ((s.setLport p { x with held := x.held.erase (typ, f) }).transmit p typ f).drainFrames p t blocked
    else s.drainFrames p t (vcOf typ :: blocked)

def State.drainPort (s : State) (p : Nat) : State := s.drainFrames p (s.lport p).held []

/-- The ports of a window table that a notice reaches: trained, with a peer that has been attested (R397). -/
def LPort.hears (x : LPort) : Bool := decide (x.state = 1) || decide (x.state = 2) || decide (x.state = 4)

/-- R397: send a window-epoch notice to the peer of a port; R283: a segment-fault notice. -/
def State.noticeEpoch (s : State) (p i e : Nat) : State := if (s.lport p).hears then s.sendFrame p 6 (epochFrame i e) else s
def State.noticeSegment (s : State) (p inst : Nat) : State := if (s.lport p).hears then s.sendFrame p 6 (segmentFrame inst) else s

/-- R394: ACTIVE ports whose peer is module `m`. -/
def State.portsTo (s : State) (m : Nat) : List Nat :=
  (List.range 8).filter fun p => decide ((s.lport p).state = 2) && decide ((s.lport p).peer = m)

/-- A transaction tag that no outstanding request uses, from `t` on. -/
def freeTag (l : List RemReq) (t : Nat) : Nat → Nat
  | 0 => t
  | n + 1 => if l.any (fun r => r.tag = t % 2 ^ 16) then freeTag l (t + 1) n else t % 2 ^ 16

/-- Key of a window mirror: peer and window of a device address of space 0x03 (R394, R397). -/
def mirrorKey (da : Nat) : Nat := da / 2 ^ 32 % 256 * 16 + da / 2 ^ 28 % 16

/-- R394, R397: send a read or a write to the module that a device address names; its tag. With no port to it no frame is sent. -/
def State.remoteReq (s : State) (who : RemWho) (write : Bool) (da len : Nat) (data : Bytes) : State × Nat :=
  let l := s.portsTo (da / 2 ^ 32 % 256)
  let p := l.getD (da / 2 ^ 7 % 16 % l.length) 8
  let t := freeTag s.lnk.rem s.lnk.tag (s.lnk.rem.length + 1)
  let s := { s with lnk := { s.lnk with rem := s.lnk.rem ++ [({ tag := t, port := p, who := who, write := write, da := da, len := len } : RemReq)], tag := (t + 1) % 2 ^ 16 } }
  let f := { (default : Frame) with off := da % 2 ^ 32, epoch := tget s.lnk.mirror (mirrorKey da), tag := t, len := len, data := data }
  (if l = [] then s else s.sendFrame p (if write then 1 else 2) f, t)

end Sys2Proof.Machine
end

