-- ==== Sys2Proof/Machine/Operands.lean ====
section
/-! DEFINITION. Fields of a Garno instruction word (R117 to R120, R148), and the issue, retirement and
exception of one instruction (R47, R56, R61, R73, R170). -/

namespace Sys2Proof.Machine

/-- Field [lo + len − 1 : lo] of an instruction word's bits 55:0. -/
def fld (f : BitVec 56) (lo len : Nat) : Nat := (f.extractLsb' lo len).toNat

/-- R118: the named ranges, each as lowest bit and length, are all zero. -/
def zeros (f : BitVec 56) (l : List (Nat × Nat)) : Bool := l.all fun r => fld f r.1 r.2 = 0

/-! Register fields common to the formats of R119 -/

def fRD (f : BitVec 56) : Nat := fld f 48 5
def fRA (f : BitVec 56) : Nat := fld f 43 5
def fRB (f : BitVec 56) : Nat := fld f 38 5
def fRC (f : BitVec 56) : Nat := fld f 33 5
def fPG (f : BitVec 56) : Nat := fld f 53 3
/-- Format R: FN, and its Z ranges. -/
def rFN (f : BitVec 56) : Nat := fld f 28 5
def rOk (f : BitVec 56) : Bool := zeros f [(53, 3), (33, 5), (0, 28)]
/-- Format I. -/
def iImm (f : BitVec 56) : Int := sext 43 (fld f 0 43)
def iOk (f : BitVec 56) : Bool := zeros f [(53, 3)]
/-- Format C. -/
def cImm (f : BitVec 56) : Nat := fld f 0 16
/-- Format V. -/
def vET (f : BitVec 56) : Nat := fld f 29 4
def vET2 (f : BitVec 56) : Nat := fld f 25 4
def vRND (f : BitVec 56) : Nat := fld f 23 2
def vPART (f : BitVec 56) : Nat := fld f 20 3
def vSAT (f : BitVec 56) : Nat := fld f 19 1
def vIMM (f : BitVec 56) : Nat := fld f 13 6
def vFN (f : BitVec 56) : Nat := fld f 8 5

/-! Issue -/

/-- What an instruction does when it is presented for issue. -/
inductive Ir where
  /-- Held in D2 (R61); `ev` when RUN reads 4 meanwhile (R170). -/
  | held (ev : Bool)
  /-- A precise exception, with the state that the check itself leaves (error records). -/
  | exc (s : State) (cause addr : Nat)
  /-- Retires; pc advances. -/
  | done (s : State)
  /-- Retires; pc takes the given value. -/
  | jump (s : State) (pc : Nat)
  /-- Has issued and waits for its data. -/
  | wait (s : State)

/-- The core takes instructions: it is backed, its die runs, no load is outstanding, and RUN is 3 or 4 in user mode,
2 or 6 in firmware mode (log entry 10). -/
def State.canIssue (s : State) (c : Nat) : Bool :=
  let x := s.core c
  s.backed c && s.dieRuns (c / 256) && x.wait.isNone &&
    (if x.fw then decide (x.run = 2) || decide (x.run = 6) else decide (x.run = 3) || decide (x.run = 4))

/-- R56, R41, R410: the cause with which a fetch at pc is refused. The checks of the address and the region are made at every
fetch (log entry 73). -/
def State.fetchFault (s : State) (c : Nat) : Option Nat :=
  let x := s.core c
  if x.pc / 2 ^ 40 ≠ 0 then some causeRegion
  else
    match s.decodeDA x.pc with
    | some (.slice k off) =>
      match s.phys k with
      | none => some causeRange
      | some p =>
        if (s.hal p).isOpen (bankOf off) || s.coreRefused x.fw x.ctx k p off false then some causeRegion
        else none
    | _ => some causeRange

/-- The instruction cache holds the code word of pc. -/
def State.lineHeld (s : State) (c : Nat) : Bool :=
  let x := s.core c
  x.icache.any fun e => decide (e.1 = x.pc / 128) && e.2.testBit (x.pc / 32 % 4)

/-- What a fetch at pc comes to. -/
inductive Fetched where
  | ready (s : State)
  | waits (s : State)
  | fails (s : State) (cause : Nat)

/-- R56, R188, R249: fetch at pc. A line that the instruction cache lacks is filled at class 0 from the own slice, and through the
serving cluster cache from any other. -/
def State.fetchWord (s : State) (c : Nat) : Fetched :=
  let x := s.core c
  let line := x.pc / 128
  match s.fetchFault c with
  | some cause => .fails s cause
  | none =>
    if s.lineHeld c then .ready s
    else if x.pc / 2 ^ 28 = c then
      match s.phys c with
      | none => .fails s causeRange
      | some p =>
        let b : By := ⟨.ownCore, 0, x.job, some x.ctx, c / 64, false⟩
        let off := x.pc % 2 ^ 28 / 128 * 128
        let s := (s.turn p b off 128 true).grant p b (bankOf off)
        let (s, good) := (List.range 4).foldl (fun (a : State × Nat) i =>
          match a.1.readWords p b none [(off / 32 + i, true)] with
          | (s, .ok _) => (s, a.2 + 2 ^ i)
          | (s, .error _) => (s, a.2)) (s, 0)
        let s := s.setCore c ((s.core c).cacheLine line good)
        if good.testBit (x.pc / 32 % 4) then .ready s else .fails s causeFetch
    else if x.ifill = some line || !s.bothWays (c / 256) (x.pc / 2 ^ 28 / 256) then .waits s
    else
      let h := servingOf (c / 256) line
      let s := s.setCore c { x with ifill := some line }
      .waits (s.setCache h { s.cache h with
        q := (s.cache h).q ++ [⟨c, .fetch, line * 128, 128, 0, [], 0, x.ctx, x.pc, none, none, false⟩] })

/-- RUN returns to 3 when a held user instruction goes on (R170). -/
def State.goOn (s : State) (c : Nat) : State :=
  if (s.core c).fw then s else s.setCore c { s.core c with run := 3 }

/-- RUN of a held user instruction: 4 while it waits for an event of R170, otherwise 3. -/
def State.noteRun (s : State) (c run : Nat) : State :=
  if (s.core c).fw then s else s.setCore c { s.core c with run := run }

/-- Present one instruction of core `c` for issue. -/
def runCore (c : Nat) (s : State) (body : State → Core → Ir) : Host.Outcome State Fault Refusal :=
  if 1280 ≤ c then .fault .noUnit
  else if !s.canIssue c then .next s
  else
    match s.fetchWord c with
    | .fails s' cause => .next (s'.precise c cause (s.core c).pc)
    | .waits s' => .next s'
    | .ready s' =>
      match body (s'.goOn c) ((s'.goOn c).core c) with
      | .held ev => .next (s'.noteRun c (if ev then 4 else 3))
      | .exc t cause addr => .next (t.precise c cause addr)
      | .done t => .next (t.advance c)
      | .jump t pc => .next (t.setPc c pc)
      | .wait t => .next t

/-- Raise ILLEGAL_OP unless the word is legal (R118). -/
def legal (s : State) (ok : Bool) (k : Ir) : Ir := if ok then k else .exc s causeIllegal 0

/-- Privileged instructions (R58, R142): ILLEGAL_OP first, then PRIV in user mode (R124). -/
def privileged (s : State) (x : Core) (ok : Bool) (k : Ir) : Ir :=
  legal s ok (if x.fw then k else .exc s causePriv 0)

/-- Retire with a scalar result. -/
def doneS (s : State) (c rd : Nat) (w : Word) : Ir := .done (s.setCore c ((s.core c).setS rd w))
/-- Retire with a vector result. -/
def doneV (s : State) (c vd : Nat) (w : V512) : Ir := .done (s.setCore c ((s.core c).setV vd w))

end Sys2Proof.Machine
end

