-- ==== Sys2Proof/Machine/Message.lean ====
section
/-! DEFINITION. Messages: the G class, delivery, returns and credits (R160 to R164, R274 to R280). -/

namespace Sys2Proof.Machine

def Core.port (x : Core) (m : Nat) : Port := tget x.m m
def Core.setPort (x : Core) (m : Nat) (v : Port) : Core := { x with m := tput x.m m v }

/-! Format G -/

def gPort (f : BitVec 56) : Nat := fld f 40 3
def gR1 (f : BitVec 56) : Nat := fld f 48 5
def gR2 (f : BitVec 56) : Nat := fld f 43 5
def gOk (f : BitVec 56) : Bool := zeros f [(53, 3), (0, 40)]

/-! Credits -/

/-- SRC_CORE of HUB's events (R279). -/
def hubCore : Nat := 0x7FF

/-- Credits go back to the senders of messages that leave a ring. -/
def State.returnCredits (s : State) (c m : Nat) (l : List (RingMsg × Nat)) : State :=
  { s with net := { s.net with
      creds := s.net.creds ++ (l.filter (fun e => e.2 ≠ 0)).map (fun e => ⟨e.1.src, e.1.sport, c, m, e.1.epoch, e.2⟩) } }

/-- A send port takes the credits held for it (R276). -/
def State.takeHeld (s : State) (c m : Nat) : State :=
  let x := s.core c
  let p := x.port m
  let mine := fun e : Cred => decide (e.core = c) && decide (e.port = m) && decide (e.dst = p.dst) &&
    decide (e.dport = p.dport) && decide (e.epoch = p.epoch)
  let n := ((s.net.held.filter mine).map (·.units)).sum
  { s.setCore c (x.setPort m { p with credits := p.credits + n }) with
    net := { s.net with held := s.net.held.filter (fun e => !mine e) } }

/-- Ring units still held by messages of one channel. -/
def Port.heldBy (p : Port) (src sport : Nat) : Nat :=
  ((p.ring.filter fun r => decide (r.src = src) && decide (r.sport = sport)).map fun r => r.units - r.freed).sum

/-- Free units of the ring; units skipped at its end count as freed (R163). -/
def Port.freeUnits (p : Port) : Nat := p.size / 64 - (p.ring.map fun r => r.units - r.freed).sum

/-! GBIND (R160, R275, R276) -/

/-- Unbind a port: the messages of a ring leave it. -/
def State.unbindPort (s : State) (c m : Nat) : State :=
  let p := (s.core c).port m
  let s := s.returnCredits c m (p.ring.map fun r => (r, r.units - r.freed))
  s.setCore c ((s.core c).setPort m default)

/-- The grant of a send port for a destination. -/
def State.grantFor (s : State) (c m dst dport : Nat) : Option Grant :=
  s.net.grants.find? fun g => decide (g.src = c) && decide (g.sport = m) && decide (g.dst = dst) && decide (g.dport = dport)

/-- The ring that a record gives a receive port, if it names it (R276, R278). -/
def PlaceRec.ringAt (r : PlaceRec) (c m : Nat) : Option (Nat × Nat) :=
  if m = 7 ∧ (r.cores[r.guidon]?).map (·.lcore) = some c then some (r.eventBase, r.eventUnits * 64)
  else (r.ports.find? fun p => decide (p.dst = c) && decide (p.dport = m)).map fun p => (p.base, p.units * 64)

/-- R276, R280: the ring that the records give a receive port: that of its job, or that of another live job, held or not, that is linked
to it. -/
def State.ringOf (s : State) (c m : Nat) : Option (Nat × Nat) :=
  let j := (s.core c).job
  match (if j = 0 then none else (s.job j).rc.ringAt c m) with
  | some r => some r
  | none => s.jobs.findSome? fun e => if e.2.state = 0 then none else e.2.rc.ringAt c m

/-- Bind a send port. -/
def State.bindSend (s : State) (c m dst dport epoch : Nat) : State :=
  let (e, maxlen) := if epoch ≠ 0 then (epoch, 32) else
    match s.grantFor c m dst dport with
    | some g => (g.epoch, g.maxlen)
    | none => (0, 32)
  let old := (s.core c).port m
  let keep := if old.kind = 1 ∧ old.dst = dst ∧ old.dport = dport ∧ old.epoch = e then old.credits else 0
  let s := if old.kind = 1 then s else s.unbindPort c m
  let s := s.setCore c ((s.core c).setPort m
    { (default : Port) with kind := 1, dst := dst, dport := dport, epoch := e, maxlen := maxlen, credits := keep })
  if e = 0 then s else s.takeHeld c m

/-- Bind a receive port. -/
def State.bindRecv (s : State) (c m base size : Nat) : State :=
  let s := s.unbindPort c m
  s.setCore c ((s.core c).setPort m { (default : Port) with kind := 2, base := base, size := size })

def execGbind (c : Nat) (f : BitVec 56) (s : State) : Host.Outcome State Fault Refusal :=
  runCore c s fun s x =>
    let m := gPort f
    let w := x.sreg (gR2 f)
    let kind := bits w 62 2
    legal s (gOk f && decide (gR1 f = 0))
      (if (x.port m).pending ≠ 0 then .held false
       else if kind = 0 then legal s (bits w 0 62 = 0) (.done (s.unbindPort c m))
       else if kind = 1 then
        legal s (bits w 0 32 = 0) (.done (s.bindSend c m (bits w 51 11) (bits w 48 3) (bits w 32 16)))
       else if kind = 2 then
        let base := bits w 32 20
        let size := bits w 0 20
        let named := match s.ringOf c m with
          | some r => decide (r = (base, size))
          | none => true
        legal s (decide (bits w 52 10 = 0) && decide (bits w 20 12 = 0) && decide (base % 64 = 0) && decide (size % 64 = 0) &&
            decide (size ≠ 0) && named)
          (if 524288 < size ∨ 2 ^ 20 < base + size then .exc s causeLen 0 else .done (s.bindRecv c m base size))
       else .exc s causeIllegal 0)

/-! Sending (R161, R162, R277) -/

/-- What a send of `n` units on a send port does with the payload. -/
def State.sendOn (s : State) (c m n : Nat) (data : Bytes) : Ir :=
  let x := s.core c
  let p := x.port m
  if p.nacked || decide (p.epoch = 0) then
    .done (s.setCore c { x.setPort m { p with nacked := true } with
                         stat := { x.stat with nackRet := x.stat.nackRet + 1 } })
  else if p.credits < n then .held true
  else
    let s := s.setCore c { x.setPort m { p with credits := p.credits - n, pending := p.pending + 1 } with
                           stat := { x.stat with msgUnits := x.stat.msgUnits + n } }
    let s := s.setCtx x.ctx { s.ctx x.ctx with units := (s.ctx x.ctx).units + n }
    .done { s with net := { s.net with msgs := s.net.msgs ++ [⟨c, x.epoch, m, p.dst, p.dport, p.epoch, x.ctx, data⟩] } }

def execGsendv (c : Nat) (f : BitVec 56) (s : State) : Host.Outcome State Fault Refusal :=
  runCore c s fun s x =>
    legal s (gOk f && decide (gR1 f = 0) && decide ((x.port (gPort f)).kind = 1))
      (s.sendOn c (gPort f) 1 (vbytes (x.vreg (gR2 f))))

/-- An uncorrectable word of scratch that it reads raises SCRATCH_UE (log entry 113). -/
def execGsends (c : Nat) (f : BitVec 56) (s : State) : Host.Outcome State Fault Refusal :=
  runCore c s fun s x =>
    let p := x.port (gPort f)
    let len := (x.sreg (gR1 f)).toNat
    let off := (x.sreg (gR2 f)).toNat
    legal s (gOk f && decide (p.kind = 1))
      (if len = 0 then .done s
       else if off % 64 ≠ 0 then .exc s causeAlign 0
       else if len % 64 ≠ 0 ∨ 2048 < len ∨ p.maxlen * 64 < len ∨ 2 ^ 20 < off + len then .exc s causeLen 0
       else if s.scratchUe c off len then .exc s causeScratch (2 ^ 40 + c * 2 ^ 20 + off)
       else (s.scratchFix c off len).sendOn c (gPort f) (len / 64) (s.scratchRead c off len))

/-! Receiving (R163) -/

/-- The oldest message of a ring that GRECV or GRECVV has not taken. -/
def Port.head (p : Port) : Option RingMsg := p.ring.find? (fun r => !r.taken)

/-- Mark the head as taken. -/
def takeHead : List RingMsg → List RingMsg
  | [] => []
  | r :: t => if r.taken then r :: takeHead t else { r with taken := true } :: t

/-- Remove the head. -/
def dropHead : List RingMsg → List RingMsg
  | [] => []
  | r :: t => if r.taken then r :: dropHead t else t

/-- The message header. -/
def RingMsg.header (r : RingMsg) (base : Nat) : Word := packFields [(53, r.src), (50, r.sport), (44, r.units), (0, base + r.off)]

def execGrecv (c : Nat) (f : BitVec 56) (s : State) : Host.Outcome State Fault Refusal :=
  runCore c s fun s x =>
    let p := x.port (gPort f)
    legal s (gOk f && decide (gR2 f = 0) && decide (p.kind = 2))
      (match p.head with
       | none => .held true
       | some r => .done (s.setCore c ((x.setPort (gPort f) { p with ring := takeHead p.ring }).setS (gR1 f) (r.header p.base))))

/-- An uncorrectable word of scratch that it reads raises SCRATCH_UE (log entry 113). -/
def execGrecvv (c : Nat) (f : BitVec 56) (s : State) : Host.Outcome State Fault Refusal :=
  runCore c s fun s x =>
    let p := x.port (gPort f)
    legal s (gOk f && decide (gR2 f = 0) && decide (p.kind = 2))
      (match p.head with
       | none => .held true
       | some r =>
        if r.units ≠ 1 then .exc s causeLen 0
        else if s.scratchUe c (p.base + r.off) 64 then .exc s causeScratch (2 ^ 40 + c * 2 ^ 20 + p.base + r.off)
        else
          let v := vofBytes (s.scratchRead c (p.base + r.off) 64)
          let s := s.scratchFix c (p.base + r.off) 64
          let s := s.setCore c (((s.core c).setPort (gPort f) { p with ring := dropHead p.ring }).setV (gR1 f) v)
          .done (s.returnCredits c (gPort f) [(r, 1)]))

/-- Free `n` units of the oldest messages taken: the ring left, and what each message gave back. -/
def freeUnits : Nat → List RingMsg → List RingMsg × List (RingMsg × Nat)
  | _, [] => ([], [])
  | n, r :: t =>
    let have' := r.units - r.freed
    if n = 0 ∨ !r.taken then (r :: t, [])
    else if n < have' then ({ r with freed := r.freed + n } :: t, [(r, n)])
    else
      let (t', g) := freeUnits (n - have') t
      (t', (r, have') :: g)

def execGfree (c : Nat) (f : BitVec 56) (s : State) : Host.Outcome State Fault Refusal :=
  runCore c s fun s x =>
    let p := x.port (gPort f)
    let n := (x.sreg (gR2 f)).toNat
    let can := ((p.ring.filter (·.taken)).map fun r => r.units - r.freed).sum
    legal s (gOk f && decide (gR1 f = 0) && decide (p.kind = 2))
      (if n % 64 ≠ 0 ∨ can * 64 < n then .exc s causeLen 0
       else
        let (ring, g) := freeUnits (n / 64) p.ring
        .done ((s.setCore c (x.setPort (gPort f) { p with ring := ring })).returnCredits c (gPort f) g))

/-! Status (R164) -/

/-- The status word: PENDING holds its count modulo 2^12 (log entry 78). -/
def Port.status (p : Port) : Word :=
  packFields [(62, p.kind), (32, p.nackEpoch), (31, b2n p.nacked),
    (12, if p.kind = 2 then p.freeUnits else p.credits % 2 ^ 14),
    (0, (if p.kind = 2 then (p.ring.filter (fun r => !r.taken)).length else p.pending) % 2 ^ 12)]

def execGstat (c : Nat) (f : BitVec 56) (s : State) : Host.Outcome State Fault Refusal :=
  runCore c s fun s x =>
    legal s (gOk f && decide (gR2 f = 0)) (doneS s c (gR1 f) (x.port (gPort f)).status)

/-! Delivery (R161, R274) -/

/-- The epoch that the destination's interface compares with; 0 for an unbacked core (R41). -/
def State.epochOf (s : State) (c : Nat) : Nat := if s.backed c then (s.core c).epoch else 0

/-- The message's own interface learns that it was accepted. -/
def State.accepted (s : State) (m : Msg) : State :=
  let x := s.core m.src
  let p := x.port m.sport
  if x.epoch = m.role ∧ p.kind = 1 then s.setCore m.src (x.setPort m.sport { p with pending := p.pending - 1 }) else s

/-- R274: count and log a drop. -/
def State.countDrop (s : State) (m : Msg) (epoch : Nat) : State :=
  let h := m.dst / 64
  let k := s.clu h
  let last := packFields [(48, m.epoch), (32, epoch), (21, m.dst), (18, m.dport), (7, m.src)]
  s.setClu h (if epoch ≠ m.epoch then { k with dropEpoch := (k.dropEpoch + 1) % 2 ^ 32, dropLast := last }
              else { k with dropOther := (k.dropOther + 1) % 2 ^ 32, dropLast := last })

/-- Where a payload of `n` units goes in the ring: it is never split at the ring end. -/
def Port.place (p : Port) (n : Nat) : Nat := if p.size < p.wr + n * 64 then 0 else p.wr

/-- Deliver a message into its ring. -/
def State.deliverMsg (s : State) (m : Msg) : State :=
  let x := s.core m.dst
  let p := x.port m.dport
  let n := m.data.length / 64
  let o := p.place n
  let s := s.scratchWrite m.dst (p.base + o) m.data (fun _ => true)
  let s := s.setCore m.dst (x.setPort m.dport
    { p with wr := o + n * 64, ring := p.ring ++ [⟨m.src, m.sport, n, o, false, 0, m.epoch⟩] })
  s.accepted m

/-- The site that a message comes from: a die, or HUB. -/
def Msg.site (m : Msg) : Nat := if m.src = hubCore then 5 else m.src / 256

/-- No older message of the channel, nor one between the same two dies, is still on its way: messages are one traffic class
(R29, R162; log entry 79). -/
def oldestOfChannel (l : List Msg) (i : Nat) (m : Msg) : Bool :=
  !(l.take i).any fun k =>
    (decide (k.src = m.src) && decide (k.sport = m.sport) && decide (k.dst = m.dst) && decide (k.dport = m.dport)) ||
      (decide (k.site = m.site) && decide (k.dst / 256 = m.dst / 256) && decide (m.site ≠ m.dst / 256))

def execMsgArrive (i : Nat) (s : State) : Host.Outcome State Fault Refusal :=
  match s.net.msgs[i]? with
  | none => .next s
  | some m =>
    if !oldestOfChannel s.net.msgs i m || (s.backed m.dst && !s.dieRuns (m.dst / 256)) ||
        !s.routeUp m.site (m.dst / 256) then .next s
    else
      let s := { s with net := { s.net with msgs := s.net.msgs.eraseIdx i } }
      let x := s.core m.dst
      let e := s.epochOf m.dst
      if s.backed m.dst && decide (m.epoch = e) && decide (m.ctx = x.ctx) && decide ((x.port m.dport).kind = 2) then
        .next (s.deliverMsg m)
      else
        let s := if m.dst < 1280 then s.countDrop m e else s
        .next { s with net := { s.net with
          nacks := s.net.nacks ++ [⟨m.src, m.role, m.sport, m.dst, m.dport, m.epoch, e, m.data.length / 64,
            if m.src = hubCore then m.data else []⟩] } }

/-- The die of a core or of HUB. -/
def siteOf (c : Nat) : Nat := if c = hubCore then 5 else c / 256

/-- R29: entry `i` of the returns, or of the credits, on their way (`ends` gives the source and the destination) may arrive: none between
the same two dies is older, its route is up and its sender's die runs. -/
def State.mayReturn {α : Type} (s : State) (ends : α → Nat × Nat) (l : List α) (i : Nat) (e : α) : Bool :=
  let site := fun e => (siteOf (ends e).1, siteOf (ends e).2)
  !((l.take i).any fun k => decide (site k = site e)) && s.routeUp (site e).1 (site e).2 &&
    (decide ((site e).2 = 5) || s.dieRuns (site e).2)

def Nack.ends (n : Nack) : Nat × Nat := (n.dst, n.core)
def Cred.ends (e : Cred) : Nat × Nat := (e.dst, e.core)

/-- Give a job's event port its credits back (R279). -/
def State.eventCredits (s : State) (dst epoch n : Nat) : State :=
  let j := (s.core dst).job
  if (s.core dst).epoch = epoch ∧ j ≠ 0 then
    s.setJob j { s.job j with evCredits := (s.job j).evCredits + n, evOut := (s.job j).evOut.drop n }
  else s

/-- R279: an event that port 7 returned is due again: its credit is back, and no doorbell is lost (log entry 117). -/
def State.eventReturned (s : State) (n : Nack) : State :=
  let j := (s.core n.dst).job
  if (s.core n.dst).epoch = n.tag ∧ j ≠ 0 then
    let x := s.job j
    let q := leAt n.event 4 4
    let x := { x with evCredits := x.evCredits + n.units }
    s.setJob j (match leAt n.event 0 1 with
      | 1 => { x with evOut := x.evOut.erase (some q), evQueues := if x.evQueues.contains q then x.evQueues else x.evQueues ++ [q] }
      | 2 => { x with evOut := x.evOut.erase none, evRestarted := true }
      | _ => { x with evOut := x.evOut.erase none, evKeys := (leAt n.event 13 1, leAt n.event 12 1) :: x.evKeys })
  else s

/-- R162: a return reaches its send port. -/
def execNackEpoch (i : Nat) (s : State) : Host.Outcome State Fault Refusal :=
  match s.net.nacks[i]? with
  | none => .next s
  | some n =>
    if !s.mayReturn Nack.ends s.net.nacks i n then .next s
    else
      let s := { s with net := { s.net with nacks := s.net.nacks.eraseIdx i } }
      if n.core = hubCore then .next (s.eventReturned n)
      else
        let x := s.core n.core
        let p := x.port n.port
        let x := { x with stat := { x.stat with nackRet := x.stat.nackRet + 1 } }
        if x.epoch = n.role ∧ p.kind = 1 ∧ p.dst = n.dst ∧ p.dport = n.dport ∧ p.epoch = n.tag then
          .next (s.setCore n.core (x.setPort n.port
            { p with nacked := true, nackEpoch := n.epoch, credits := p.credits + n.units, pending := p.pending - 1 }))
        else .next (s.setCore n.core x)

/-- R276: the receiving interface releases a grant's credits, once. -/
def execCreditRelease (i : Nat) (s : State) : Host.Outcome State Fault Refusal :=
  match s.net.grants[i]? with
  | none => .next s
  | some g =>
    let x := s.core g.dst
    let p := x.port g.dport
    if !g.released && decide (x.epoch = g.epoch) && decide (p.kind = 2) && decide (p.base = g.base) && decide (p.size = g.units * 64) then
      .next { s with net := { s.net with
        grants := s.net.grants.set i { g with released := true }
        creds := s.net.creds ++ [⟨g.src, g.sport, g.dst, g.dport, g.epoch, g.credits - p.heldBy g.src g.sport⟩] } }
    else .next s

/-- R276: credits reach the sending interface. -/
def execCreditArrive (i : Nat) (s : State) : Host.Outcome State Fault Refusal :=
  match s.net.creds[i]? with
  | none => .next s
  | some e =>
    if !s.mayReturn Cred.ends s.net.creds i e then .next s
    else
      let s := { s with net := { s.net with creds := s.net.creds.eraseIdx i } }
      if e.core = hubCore then .next (s.eventCredits e.dst e.epoch e.units)
      else
        let x := s.core e.core
        let p := x.port e.port
        if p.kind = 1 ∧ p.dst = e.dst ∧ p.dport = e.dport ∧ p.epoch = e.epoch then
          .next (s.setCore e.core (x.setPort e.port { p with credits := p.credits + e.units }))
        else .next { s with net := { s.net with held := s.net.held ++ [e] } }

end Sys2Proof.Machine
end

