-- ==== Sys2Proof/Machine/Stream.lean ====
section
/-! DEFINITION. Streams (R67 to R72, R152 to R159). -/

namespace Sys2Proof.Machine

/-! Fields of a descriptor (R153) -/

def QDesc.dir (d : QDesc) : Nat := bits d.w0 62 2
def QDesc.cls (d : QDesc) : Nat := bits d.w0 60 2
def QDesc.depth (d : QDesc) : Nat := bits d.w0 52 8
/-- BASE in 16-byte units. -/
def QDesc.base (d : QDesc) : Nat := bits d.w0 4 24
def QDesc.stride (d : QDesc) : Int := sext 24 (bits d.w1 40 24)
def QDesc.count (d : QDesc) : Nat := bits d.w1 20 20
def QDesc.runLen (d : QDesc) : Nat := bits d.w1 0 20
/-- The registered bound in 16-byte units (R152). -/
def QDesc.bound (d : QDesc) : Nat := d.runLen * d.count
/-- Slice offset of unit `u` of the pattern. -/
def QDesc.unitOff (d : QDesc) (u : Nat) : Nat :=
  (((d.base : Int) + (u / d.runLen : Nat) * d.stride + (u % d.runLen : Nat)) * 16).toNat % 2 ^ 28
/-- R154: every byte of the pattern lies in the slice. -/
def QDesc.inside (d : QDesc) : Bool :=
  let last : Int := (d.base : Int) + ((d.count : Int) - 1) * d.stride
  decide (0 ≤ last) && decide (last + d.runLen ≤ 2 ^ 24) && decide (d.base + d.runLen ≤ 2 ^ 24)

def Core.desc (x : Core) (q : Nat) : QDesc := tget x.q q
def Core.setDesc (x : Core) (q : Nat) (d : QDesc) : Core := { x with q := tput x.q q d }

/-- QW2 (R153). -/
def Core.qw2 (x : Core) (q : Nat) : Word :=
  packFields [(62, (x.desc q).state), (32, b2n (x.sbuf.any fun l => decide (l.q = q) && l.failed)), (0, (x.desc q).pos % 2 ^ 32)]

/-- Discard the stream-buffer lines of a descriptor (R70). -/
def Core.dropQ (x : Core) (q : Nat) : Core :=
  let n := (x.sbuf.filter (fun l => decide (l.q = q))).length
  { x with
    sbuf := (x.sbuf.filter (fun l => !(decide (l.q = q) && l.arrived))).map (fun l => if l.q = q then { l with dead := true } else l)
    stat := { x.stat with discarded := x.stat.discarded + n } }

/-- A ticket on which an instruction still waits: outstanding, or failed with its NB_FAULT not yet taken (R74). -/
def Core.ticketOpen (x : Core) (t : Nat) : Bool :=
  decide ((tget x.tickets t).state = 1) || x.impr.any fun f => decide (f.cause = causeNb) && decide (f.ticket = t)

/-- Banks named by the tickets of the core that are still open (R61, R63). -/
def Core.ticketBanks (x : Core) : Nat :=
  x.tickets.foldl (fun m e => if x.ticketOpen e.1 then m ||| e.2.banks else m) 0
/-- Some bank under the byte range is named by an open ticket. -/
def Core.ticketHolds (x : Core) (off len : Nat) : Bool :=
  x.ticketBanks.testBit (bankOf off) || x.ticketBanks.testBit (bankOf (off + len - 1))
/-- Some of `n` units of a stream lie in a bank named by an open ticket: a consumer or put is held in D2 (R61). -/
def Core.ticketUnits (x : Core) (d : QDesc) (u n : Nat) : Bool :=
  decide (x.ticketBanks ≠ 0) && (List.range n).any fun i => x.ticketHolds (d.unitOff (u + i)) 16

/-- A store of the core to one of the bytes waits at the controller (R64). -/
def State.directPending (s : State) (p c off len : Nat) : Bool :=
  (s.hal p).reqs.any fun r => r.write && !r.flush && decide (r.core = c) && decide (r.off < off + len) && decide (off < r.off + r.len)

/-- A store of the core to one of the bytes has not been accepted yet, at the controller or at a cluster cache (R64, R156). -/
def State.storePending (s : State) (p c off len : Nat) : Bool :=
  s.directPending p c off len ||
    s.caches.any fun e => e.2.q.any fun r => (decide (r.kind = .store) || r.post) && decide (r.core = c) &&
      (match s.lcoreOf p with
       | some k => decide (r.da < k * 2 ^ 28 + off + len) && decide (k * 2 ^ 28 + off < r.da + r.len)
       | none => false)

/-- The buffer's line of a stream that holds 16 bytes of it. -/
def Core.buffered (x : Core) (q off : Nat) : Option SbLine :=
  x.sbuf.find? fun l => decide (l.q = q) && !l.dead && decide (l.off ≤ off) && decide (off + 16 ≤ l.off + l.len)

/-- The units of a stream, each with its data where the buffer holds it, joined where one line access serves several (R175). -/
def joinUnits : List (Nat × Option Bytes) → List (Nat × Nat × Option Bytes)
  | [] => []
  | (o, some d) :: t => (o, 16, some d) :: joinUnits t
  | (o, none) :: t =>
    match joinUnits t with
    | (o', n, none) :: r => if o + 16 = o' ∧ o / 128 = o' / 128 then (o, 16 + n, none) :: r else (o, 16, none) :: (o', n, none) :: r
    | r => (o, 16, none) :: r

/-- How a read of a stream's bytes reaches the halyard while its consumer waits for it: class 0 (R72, R188; log entry 75). -/
def Core.byStream (x : Core) (c cls : Nat) : By := ⟨.ownCore, cls, x.job, some x.ctx, c / 64, false⟩

/-- Read the pieces of a take that the buffer does not hold, in order: the bytes, or the cause and the device address. -/
def State.readPieces (s : State) (c p : Nat) : List (Nat × Nat × Option Bytes) → State × Except (Nat × Nat) Bytes
  | [] => (s, .ok [])
  | (o, n, d) :: t =>
    match (match d with | some d => (s, Except.ok d) | none => s.readSlice p o n ((s.core c).byStream c 0)) with
    | (s, .error (cause, w)) => (s, .error (cause, c * 2 ^ 28 + w * 32))
    | (s, .ok a) =>
      match s.readPieces c p t with
      | (s, .ok r) => (s, .ok (a ++ r))
      | (s, .error e) => (s, .error e)

/-- R69, R155, R201: the bytes of `n` units of stream `q` from unit `u` on. A unit in a clean line of the buffer comes from there; the
word of any other is read, a failed one again. -/
def State.readUnits (s : State) (c p q u n : Nat) : State × Except (Nat × Nat) Bytes :=
  let x := s.core c
  let d := x.desc q
  let offs := (List.range n).map fun i => d.unitOff (u + i)
  match offs.find? fun off => s.refused (.ctx x.ctx) c p off false with
  | some off => (s, .error (causeRegion, c * 2 ^ 28 + off))
  | none => s.readPieces c p (joinUnits (offs.map fun off =>
      (off, match x.buffered q off with
        | some l => if l.arrived && !l.failed then some ((l.data.drop (off - l.off)).take 16) else none
        | none => none)))

/-- The data of the units cannot be delivered yet: a line in flight, a ticket on the bank, an older store. -/
def State.unitsWait (s : State) (c p q u n : Nat) : Bool :=
  let x := s.core c
  let d := x.desc q
  (List.range n).any fun i =>
    let off := d.unitOff (u + i)
    x.ticketHolds off 16 || s.storePending p c off 16 ||
      (match x.buffered q off with | some l => !l.arrived | none => false)

/-- Unit `u` has been delivered: it lies below the mark, or in one of the runs delivered ahead of it. -/
def QDesc.passed (d : QDesc) (u : Nat) : Bool := decide (u < d.low) || d.more.any fun e => decide (e.1 ≤ u) && decide (u < e.1 + e.2)

/-- The mark moves over the runs that follow on it, at most so many. -/
def joinRuns : Nat → Nat → List (Nat × Nat) → Nat × List (Nat × Nat)
  | 0, low, l => (low, l)
  | n + 1, low, l =>
    match l.find? fun e => decide (e.1 ≤ low) with
    | some e => joinRuns n (max low (e.1 + e.2)) (l.erase e)
    | none => (low, l)

/-- R155: units `u` to `u + n − 1` have been delivered. -/
def QDesc.pass (d : QDesc) (u n : Nat) : QDesc :=
  let (low, more) := joinRuns (d.more.length + 1) d.low (d.more ++ [(u, n)])
  { d with got := d.got + n, low := low, more := more }

/-- Deliver units: the lines left behind leave the buffer, and the stream ends at its bound (R155). -/
def Core.delivered (x : Core) (q u n : Nat) : Core :=
  let d := (x.desc q).pass u n
  let left := fun l : SbLine => (List.range (l.len / 16)).any fun i => decide (l.unit + i < d.bound) && !d.passed (l.unit + i)
  let x := { x with sbuf := x.sbuf.filter fun l => !(decide (l.q = q) && l.arrived && !left l) }
  x.setDesc q { d with stalled := false, state := if d.state = 1 ∧ d.bound ≤ d.got ∧ d.bound ≤ d.pos then 2 else d.state }

/-- R156, R155: whether `n` units may be taken from the descriptor now; the cause otherwise. -/
def QDesc.takeCause (d : QDesc) (dir n : Nat) : Option Nat :=
  if d.state = 2 ∧ d.dir = dir then some causeLen
  else if d.state ≠ 1 ∨ d.dir ≠ dir then some causeIllegal
  else if d.bound < d.pos + n then some causeLen
  else none

/-! Format Q -/

def qR1 (f : BitVec 56) : Nat := fld f 48 5
def qN (f : BitVec 56) : Nat := fld f 44 4
def qW (f : BitVec 56) : Nat := fld f 42 2
def qOk (f : BitVec 56) : Bool := zeros f [(53, 3), (0, 42)]

/-- The bits of QW0 that exist (R153). -/
def qw0Mask : Word := 0xFFF000000FFFFFF0

/-- R159: QSET. -/
def execQset (c : Nat) (f : BitVec 56) (s : State) : Host.Outcome State Fault Refusal :=
  runCore c s fun s x =>
    let d := x.desc (qN f)
    let v := x.sreg (qR1 f)
    legal s (qOk f && decide (qW f < 2))
      (if d.state = 1 then .held true
       else
        let x := x.dropQ (qN f)
        .done (s.setCore c (x.setDesc (qN f) (if qW f = 0 then { d with w0 := v &&& qw0Mask } else { d with w1 := v }))))

/-- R159: QGET. -/
def execQget (c : Nat) (f : BitVec 56) (s : State) : Host.Outcome State Fault Refusal :=
  runCore c s fun s x =>
    let d := x.desc (qN f)
    legal s (qOk f && decide (qW f < 3))
      (doneS s c (qR1 f) (if qW f = 0 then d.w0 else if qW f = 1 then d.w1 else x.qw2 (qN f)))

/-- R154: QSTART. -/
def execQstart (c : Nat) (f : BitVec 56) (s : State) : Host.Outcome State Fault Refusal :=
  runCore c s fun s x =>
    let q := qN f
    let d := x.desc q
    legal s (qOk f && decide (qR1 f = 0) && decide (qW f = 0))
      (if d.state = 1 then .held true
       else if 2 ≤ d.dir ∨ d.cls = 3 ∨ (d.dir = 1 ∧ d.cls ≠ 2) then .exc s causeIllegal 0
       else
        let x := x.dropQ q
        if d.runLen = 0 ∨ d.count = 0 then .done (s.setCore c (x.setDesc q { d with state := 2, pos := 0, got := 0, low := 0, more := [], puts := [], stalled := false }))
        else if !d.inside then .exc s causeLen 0
        else .done (s.setCore c (x.setDesc q { d with state := 1, pos := 0, got := 0, low := 0, more := [], puts := [], stalled := false })))

/-- R155, R156: QTAKE. -/
def execQtake (c : Nat) (f : BitVec 56) (s : State) : Host.Outcome State Fault Refusal :=
  runCore c s fun s x =>
    let q := qN f
    let d := x.desc q
    legal s (qOk f && decide (qW f = 0))
      (match d.takeCause 0 4 with
       | some cause => .exc s cause 0
       | none =>
        match s.phys c with
        | none => .held false
        | some p =>
          if x.ticketUnits d d.pos 4 then .held true
          else if x.badStreams.contains q then .held false
          else if s.unitsWait c p q d.pos 4 then .wait (s.setCore c (x.setDesc q { d with stalled := true }))
          else
            match s.readUnits c p q d.pos 4 with
            | (s, .error (cause, a)) => .exc s cause a
            | (s, .ok data) =>
              let x := s.core c
              let x := x.setDesc q { d with pos := d.pos + 4 }
              .done (s.setCore c ((x.delivered q d.pos 4).setV (qR1 f) (vofBytes data))))

/-- R157: QPUT. -/
def execQput (c : Nat) (f : BitVec 56) (s : State) : Host.Outcome State Fault Refusal :=
  runCore c s fun s x =>
    let q := qN f
    let d := x.desc q
    legal s (qOk f && decide (qW f = 0))
      (match d.takeCause 1 4 with
       | some cause => .exc s cause 0
       | none =>
        if x.ticketUnits d d.pos 4 then .held true
        else .done (s.setCore c (x.setDesc q { d with pos := d.pos + 4, puts := d.puts ++ [vbytes (x.vreg (qR1 f))] })))

/-- An array operation or stationary load holds a reservation on the descriptor (R158). -/
def Core.reserved (x : Core) (q : Nat) : Bool :=
  (match x.blk.src with | some (k, _) => decide (k = q) | none => false) || x.blkOld.any (fun e => decide (e.1 = q)) ||
    x.arr.any fun e => e.2.any fun o => match o.src with | some (k, _) => decide (k = q) | none => false

/-- R158: QCANCEL. -/
def execQcancel (c : Nat) (f : BitVec 56) (s : State) : Host.Outcome State Fault Refusal :=
  runCore c s fun s x =>
    let q := qN f
    legal s (qOk f && decide (qR1 f = 0) && decide (qW f = 0))
      (if x.reserved q then .held false
       else .done (s.setCore c ((x.dropQ q).setDesc q { x.desc q with state := 3, puts := [] })))

/-! Run-ahead (R67 to R72) -/

/-- The units from `u` on that lie one after another in one line, in one run and below the bound (R67), up to the next one delivered. -/
def QDesc.inLine (d : QDesc) (u : Nat) : Nat :=
  d.more.foldl (fun n e => if u < e.1 then min n (e.1 - u) else n) (min (min (8 - d.unitOff u / 16 % 8) (d.runLen - u % d.runLen)) (d.bound - u))

/-- The first unit from `u` on that is not among the runs `l` of delivered units. -/
def skipPassed (l : List (Nat × Nat)) (u : Nat) : Nat :=
  match l.find? fun e => decide (e.1 ≤ u) && decide (u < e.1 + e.2) with
  | some e => e.1 + e.2
  | none => u

/-- R67, R155: the next unit from `u` on, in the order of the pattern, that has not been delivered and whose line is not in the buffer,
within `fuel` lines. -/
def nextPrefetch (x : Core) (q : Nat) (d : QDesc) : Nat → Nat → Option Nat
  | 0, _ => none
  | n + 1, u =>
    let u := d.more.foldl (fun u _ => skipPassed d.more u) u
    if d.bound ≤ u then none
    else if x.sbuf.any (fun l => decide (l.q = q) && decide (l.off / 128 = d.unitOff u / 128) && !l.dead) then
      nextPrefetch x q d n (u + d.inLine u)
    else some u

/-- R72: a consumer of the stream waits for one of `n` units from `u` on: a QTAKE, the block, or the row at the head of an array. -/
def Core.consumerWaits (x : Core) (q u n : Nat) : Bool :=
  let d := x.desc q
  let meets := fun v k => decide (v < u + n) && decide (u < v + k)
  (d.stalled && meets d.pos 4) ||
    (match x.blk.src with | some (k, v) => decide (k = q) && meets v 16 | none => false) ||
    x.blkOld.any (fun e => decide (e.1 = q) && meets e.2.1 16) ||
    x.arr.any fun e => match e.2 with
      | o :: _ => (match o.src with | some (k, v) => decide (k = q) && x.blk.shifted && meets (v + o.next) 1 | none => false)
      | [] => false

/-- R67, R71: a run-ahead read, where the descriptor's depth and the bank allow one. -/
def execStreamPrefetch (c q : Nat) (s : State) : Host.Outcome State Fault Refusal :=
  let x := s.core c
  let d := x.desc q
  unit (decide (c < 1280) && decide (q < 16))
    (match s.phys c with
     | none => s
     | some p =>
      if s.dieRuns (c / 256) && decide (d.state = 1) && decide (d.dir = 0) && decide (x.sbuf.length < 512) then
        match nextPrefetch x q d d.depth d.low with
        | none => s
        | some u =>
          let off := d.unitOff u
          let n := d.inLine u
          if x.ticketHolds off (16 * n) || s.refused (.ctx x.ctx) c p off false then s
          else
            let cls := if x.consumerWaits q u n then 0 else d.cls
            let h := s.hal p
            (s.setHal p { h with reqs := h.reqs ++ [⟨.ownCore, c, false, cls, off, false, [], 2 ^ (16 * n) - 1, 16 * n, false, false, true⟩] }).setCore c
              { x with sbuf := x.sbuf ++ [⟨q, u, off, 16 * n, cls, [], false, false, false⟩]
                       stat := { x.stat with prefetches := x.stat.prefetches + 1 } }
      else s)

/-- R67, R69, R189: the first run-ahead read of a line takes its turn at the controller, and its line arrives. -/
def execStreamLineArrive (c line : Nat) (u : List Upset) (s : State) : Host.Outcome State Fault Refusal :=
  unit (decide (c < 1280))
    (match s.phys c with
     | none => s
     | some p =>
      match (s.hal p).reqs.find? (fun r => r.pre && decide (r.off / 128 = line)) with
      | some r =>
        if !s.dieRuns (c / 256) then s
        else (s.upsets p line u).serveWhile p (s.bankFree p) (fun _ => true) (fun x _ => x.reqs.contains r) (s.hal p).reqs.length
      | none => s)

/-- R157: the halyard controller performs the oldest put of a write stream in pattern order, one write for each run of units in a line.
Each refused run raises one imprecise exception (log entry 76). -/
def execStreamWrite (c q : Nat) (s : State) : Host.Outcome State Fault Refusal :=
  let x := s.core c
  let d := x.desc q
  unit (decide (c < 1280) && decide (q < 16))
    (match s.phys c, d.puts with
     | some p, data :: rest =>
      if !s.dieRuns (c / 256) || x.ticketUnits d d.got 4 then s
      else
        let runs := joinUnits ((List.range 4).map fun i => (d.unitOff (d.got + i), none))
        let s := (runs.foldl (fun (a : State × Bytes) e =>
          let (off, n, _) := e
          let s := a.1
          (if s.refused (.ctx x.ctx) c p off true then s.imprecise c ⟨causeRegion, c * 2 ^ 28 + off, 0, 0⟩
           else s.writeNow p off (a.2.take n) (fun _ => true) true (x.byStream c d.cls), a.2.drop n)) (s, data)).1
        let x := s.core c
        let d := x.desc q
        s.setCore c (x.setDesc q { d with puts := rest, got := d.got + 4, low := d.low + 4,
                                          state := if d.state = 1 ∧ d.bound ≤ d.got + 4 then 2 else d.state })
     | _, _ => s)

end Sys2Proof.Machine
end

