-- ==== Sys2Proof/Machine/Registers.lean ====
section
/-! DEFINITION. Control space (R18 to R21, R44 to R46): what every register reads, and what a write changes. -/

namespace Sys2Proof.Machine

/-! Fused values (R8, R13) -/

def capW : Nat := match Config.powerCode with | 0 => 2400 | 1 => 1800 | _ => 1200
def minCores : Nat := match Config.powerCode with | 0 => 1248 | 1 => 1216 | _ => 1152
def maxMhz : Nat := match Config.powerCode with | 0 => 2700 | 1 => 2400 | _ => 2000
/-- 25 % of CAP_W (R8). -/
def floorW : Nat := capW / 4
/-- PARTNER_CODE: 0 without a guest site (R13). -/
def partnerCode : Nat := if Config.guestSite then Config.partnerCode.toNat else 0
def variant : Word :=
  packFields [(48, partnerCode), (37, minCores), (25, capW), (13, maxMhz), (2, b2n Config.guestSite),
    (0, Config.powerCode.val)]

/-- The manifest of slot `n` (0 A, 1 B) as the flash holds it. -/
def State.slot (s : State) (n : Nat) : SlotInfo :=
  let x := tget s.flash.slots n
  if x.present then x else Config.slotAtManufacture n

/-- The manifest of the slot that the ROM has accepted. -/
def State.activeSlot (s : State) : SlotInfo := s.slot (s.boot.slot - 1)

/-- Measurement block 2 (R424). -/
def State.block2 (s : State) : Bytes := fitBytes 64 s.activeSlot.manifestDigest ++ leBytes 4 s.boot.svn

/-! The ensign (R422) -/

def ensignSign (m : Bytes) : Bytes := Config.slhSign (Config.slhKeys (fitBytes 32 Config.fusedSecret)).1 m
/-- SPDM certificate slot 0: length, digest of the root, and the three certificates (log entry 36). -/
def ensignChain : Bytes :=
  let l := Config.rootCertificate ++ Config.intermediateCertificate ++
    Config.deviceCertificate Config.serialNumber (Config.slhKeys (fitBytes 32 Config.fusedSecret)).2
  leBytes 4 (l.length + 52) ++ sha3of384 Config.rootCertificate ++ l

/-! HUB (chapters 01, 11, 18, 20, 23) -/

/-- HUB_TOPOLOGY. -/
def State.topology (s : State) : Word :=
  packFields [(48, s.mapGen), (35, ((List.range 5).map fun d => if (s.die d).up then 2 ^ d else 0).sum), (34, b2n s.guestUp),
    (23, s.lcoreCount), (12, s.lcoreLimit)]

def Boot.status (b : Boot) : Word :=
  packFields [(60, b.state), (56, b.step), (48, b.cause), (46, b.slot), (24, b.svn), (0, b.elapsed % 2 ^ 24)]
def Boot.mismatch (b : Boot) : Word :=
  packFields [(44, b.misCluster), (36, b.misPorts), (35, b2n b.misGuest), (30, b.misDie)]
def Alert.word (a : Alert) : Word := packFields [(56, a.first), (0, a.causes.toNat)]
def AccessErr.word (a : AccessErr) : Word :=
  packFields [(63, b2n a.width), (62, b2n a.unmapped), (61, b2n a.unbacked), (56, a.bar), (40, a.count), (0, a.offset)]
def Mbox.status (m : Mbox) : Word := packFields [(63, b2n m.cmd.isSome), (62, b2n m.overrun), (48, m.code), (0, m.seq)]
def State.liveJobs (s : State) : Nat := (s.jobs.filter fun e => e.2.state ≠ 0).length
def State.placeStatus (s : State) : Word :=
  let p := s.place
  packFields [(63, b2n p.cmd.isSome), (62, b2n p.overrun), (48, p.code), (40, p.job), (32, s.liveJobs), (16, p.index), (0, p.kind)]

/-- Fault records (R481). -/
def FltRec.words (r : FltRec) : List Word :=
  [packFields [(63, b2n r.valid), (56, r.cls), (40, r.source), (32, r.job), (16, r.epoch), (0, r.count)],
   BitVec.ofNat 64 r.first,
   packFields [(43, r.reporters), (27, r.lockSeq), (11, r.stage), (3, r.cause)],
   BitVec.ofNat 64 r.detail]
def Collector.status (c : Collector) : Word := packFields [(48, c.overflow), (32, c.recs.length), (0, c.reports)]
def Collector.recWord (c : Collector) (n i : Nat) : Word := (tget c.recs n).words.getD i 0

/-- Eight bytes of a byte table. -/
def cellWord (t : List Host.Cell) (a : Nat) : Word := BitVec.ofNat 64 (ofLe (tgets t a 8))
/-- Eight bytes of a byte string at an offset, zero past its end. -/
def bytesWord (l : Bytes) (o : Nat) : Word := BitVec.ofNat 64 (leAt l o 8)

/-- Vector control of the MSI-X table is held inverted. -/
def State.msixWord (s : State) (i : Nat) : Nat :=
  if i % 4 = 3 then (tget s.host.msix i) ^^^ 1 else tget s.host.msix i

def State.hubReg (s : State) (o : Nat) : Word :=
  if o = 0x08 then variant
  else if o = 0x10 then s.topology
  else if o = 0x18 then BitVec.ofNat 64 s.hubCount
  else if o = 0x20 then s.boot.status
  else if o = 0x28 then s.boot.mismatch
  else if o = 0x30 then s.alert.word
  else if o = 0x38 then s.accessErr.word
  else if o = 0x108 then s.mbox.status
  else if o = 0x400 then BitVec.ofNat 64 s.place.addr
  else if o = 0x410 then s.placeStatus
  else if o = 0x800 then (tget s.flt 0).status
  else if 0x1000 ≤ o ∧ o < 0x2000 then cellWord s.mbox.window (o - 0x1000)
  else if 0x40000 ≤ o ∧ o < 0x42000 then (tget s.flt 0).recWord ((o - 0x40000) / 32) (o / 8 % 4)
  else if 0xF0000 ≤ o ∧ o < 0xF8000 then
    let i := (o - 0xF0000) / 4
    BitVec.ofNat 64 (s.msixWord i + s.msixWord (i + 1) * 2 ^ 32)
  else if 0xF8000 ≤ o ∧ o < 0xF8100 then
    let b := (o - 0xF8000) * 8
    BitVec.ofNat 64 (((List.range 64).map fun i => if s.host.pba.contains (b + i) then 2 ^ i else 0).sum)
  else 0

/-! QUE, DMA, CRC, SEC (chapters 14, 15, 17) -/

def State.copyDA (s : State) (base : Nat) : Nat := match s.que.copies with | c :: _ => c * 2 ^ 28 + base | [] => 0

def State.queReg (s : State) (o : Nat) : Word :=
  let q := s.que
  if o = 0x00 then BitVec.ofNat 64 (s.copyDA tableBase)
  else if o = 0x08 then BitVec.ofNat 64 (s.copyDA indexBase)
  else if o = 0x10 then q.cfg0
  else if o = 0x18 then q.cfg1
  else if o = 0x20 then q.cfg2
  else if o = 0x30 then packFields [(63, b2n q.cmd.isSome), (62, b2n q.overrun), (48, q.code), (40, q.job)]
  else if o = 0x38 then packFields [(32, q.readM), (0, q.readH)]
  else if o = 0x40 then packFields [(48, q.rejQueue), (40, q.rejReason), (0, q.rejCount)]
  else 0

/-- A channel that waits for a slot (R353). -/
def Chan.ready (x : Chan) : Bool := x.enable && x.run.isNone && !x.stopped && decide (x.prod ≠ x.cons)

def Chan.ctl (x : Chan) : Word :=
  packFields [(63, b2n x.enable), (62, b2n x.host), (61, b2n x.overrun), (60, b2n (x.run.isSome || x.ready)), (59, b2n x.ringErr), (48, x.ctx), (0, x.bell)]
def Chan.reg (x : Chan) (o : Nat) : Word :=
  if o = 0x00 then x.ctl
  else if o = 0x08 then packFields [(60, x.log2), (0, x.base)]
  else if o = 0x10 then BitVec.ofNat 64 x.prod
  else if o = 0x18 then BitVec.ofNat 64 x.cons
  else 0


/-- A running descriptor feeds the channel. -/
def State.crcBusy (s : State) (n : Nat) : Bool :=
  s.dma.ch.any fun e => match e.2.run with | some r => decide (r.crc = some n) | none => false

/-- R363: in MODE 0 there are no channels 4 to 15. -/
def State.crcGone (s : State) (n : Nat) : Bool := s.dma.mode0 && decide (4 ≤ n)

/-- RESULT of a channel (R361). -/
def State.crcResult (s : State) (n : Nat) : Nat :=
  if s.crcGone n then 0 else (tget s.dma.crc n).value ^^^ crcFinal (tget s.dma.crc n).alg

/-- A register of the check-value unit; `fw`: management firmware reads the values of every owner (R361), the host those of its own
channels (R362). -/
def State.crcReg (s : State) (o : Nat) (fw : Bool) : Word :=
  let n := (o - 0x100) / 0x20
  let x := tget s.dma.crc n
  if o = 0 then (if s.dma.mode0 then 0 else 1)
  else if o < 0x100 ∨ 0x300 ≤ o then 0
  else if s.crcGone n then 0
  else if o % 0x20 = 0 then packFields [(63, b2n x.host), (62, b2n x.collide), (61, b2n (s.crcBusy n)), (8, x.alg), (0, x.ctx)]
  else if !x.host && !fw then 0
  else if o % 0x20 = 8 then BitVec.ofNat 64 x.value
  else if o % 0x20 = 16 then BitVec.ofNat 64 (s.crcResult n)
  else 0

/-- PAY_STATE (R420). -/
def Ctx.payState (x : Ctx) : Nat :=
  if x.payPend.isSome then 3 else if x.payPrev.isSome then 2 else if x.payCur.isSome then 1 else 0
def State.ctxBanks (s : State) (n : Nat) : Nat := (s.own.filter fun e => e.2.owned && decide (e.2.ctx = n)).length
def State.ctxJobs (s : State) (n : Nat) : Tbl Job := s.jobs.filter fun e => decide (e.2.state ≠ 0) && decide (e.2.rc.ctx = n)
def State.ctxClusters (s : State) (n : Nat) : Nat := ((List.range 20).filter fun h => s.claimed h && decide ((s.clu h).ctx = n)).length
def State.ctxState (s : State) (n : Nat) : Word :=
  let x := s.ctx n
  packFields [(63, b2n x.defined), (62, b2n x.bound), (60, x.payState), (58, x.payGen), (56, x.kvGen), (55, b2n x.kvPrev.isSome),
    (32, x.creation), (14, s.ctxBanks n), (8, s.ctxClusters n), (0, (s.ctxJobs n).length)]
def Owner.entry (o : Owner) : Nat := b2n o.owned * 2 ^ 15 + b2n o.hub * 2 ^ 14 + o.host * 2 ^ 8 + o.ctx

def State.secReg (s : State) (o : Nat) : Word :=
  let x := s.sec
  if o = 0x08 then x.arg
  else if o = 0x10 then packFields [(63, b2n x.cmd.isSome), (62, b2n x.overrun), (61, b2n x.genBusy), (48, x.code)]
  else if o = 0x18 then (if x.ideRequired then 1 else 0)
  else if o = 0x20 then BitVec.ofNat 64 x.deny
  else if 0x10000 ≤ o ∧ o < 0x11000 then
    let n := (o - 0x10000) / 16
    if o % 16 = 0 then s.ctxState n else packFields [(32, (s.ctx n).prevImages), (0, (s.ctx n).curImages)]
  else if 0x20008 ≤ o ∧ o < 0x20800 then
    let j := (o - 0x20000) / 8
    let b := s.job j
    packFields [(62, b.state), (48, if b.state = 0 then 0 else b.rc.ctx), (40, b.payCh), (0, b.openSerials)]
  else if 0x80000 ≤ o ∧ o < 0xD0000 then
    let c := (o - 0x80000) / 0x100
    let b := (o - 0x80000) % 0x100 / 8 * 4
    packFields ((List.range 4).map fun k => (16 * k, (s.owner c (b + k)).entry))
  else 0

/-! THM and PWR, MTR, LNK, D2D (chapters 16, 19, 21) -/

def State.sens (s : State) (k : Nat) : Sens := tget s.thm.sens k
def Sens.entry (x : Sens) : Nat := x.flag * 2 ^ 14 + x.temp
/-- Four sensor entries of a word, from the keys given. -/
def State.sensWord (s : State) (l : List (Option Nat)) : Word :=
  packFields (l.zipIdx.map fun e => (16 * e.2, match e.1 with | some k => (s.sens k).entry | none => 0))

/-- The highest spot among the keys: governing value, forecast, key. -/
def State.hottest (s : State) (keys : List Nat) : Nat × Nat × Nat :=
  keys.foldl (fun a k => let x := tget s.thm.spots k; if a.1 < x.gov then (x.gov, x.fcst, k) else a) (0, 0, keys.headD 0)

def dramKeys : List Nat := List.range 1440
def logicKeys : List Nat := (List.range 180).map (2000 + ·) ++ [3000, 3001]

def State.hotspot (s : State) : Word :=
  let l := s.hottest logicKeys
  let d := s.hottest dramKeys
  let hub := decide (3000 ≤ l.2.2)
  packFields [(54, l.1), (44, l.2.1), (34, d.1), (24, d.2.1), (19, if hub then 20 else (l.2.2 - 2000) / 9), (14, d.2.2 / 72),
    (11, d.2.2 % 72 / 9), (7, d.2.2 % 9), (3, if hub then l.2.2 - 3000 else (l.2.2 - 2000) % 9)]

/-- Dip level of a cluster (R464). -/
def Clu.dip (x : Clu) : Nat := 15 - x.undip
def State.dipMax (s : State) : Nat := ((List.range 20).map fun h => (s.clu h).dip).foldl max 0

/-- Draw averaged over the last 100 ms, and the highest 10 ms average of the last second (rounds of 2 ms). -/
def Pwr.avg (p : Pwr) : Nat := (p.draws.take 50).sum / 50
def Pwr.peak (p : Pwr) : Nat :=
  ((List.range p.draws.length).map fun i => ((p.draws.drop i).take 5).sum / 5).foldl max 0

def Pwr.capNow (p : Pwr) : Nat := p.cap.getD capW
def Pwr.limitNow (p : Pwr) : Nat := p.limit.getD capW

/-- The largest fused Rθ of any spot (R461). -/
def fusedRth : Nat := (dramKeys ++ logicKeys).foldl (fun m k => max m (Config.rthFused k)) 0

def State.thmReg (s : State) (o : Nat) : Word :=
  let t := s.thm
  let p := s.pwr
  if o = 0x00 then packFields [(54, t.inlet), (44, t.outlet), (32, t.flowTach), (20, t.flowEst), (1, b2n t.tach.isSome), (0, b2n t.flowLow)]
  else if o = 0x08 then s.hotspot
  else if o = 0x10 then s.sensWord [some 3000, some 3001, some 3002, some 3003]
  else if 0x10000 ≤ o ∧ o < 0x10000 + 20 * 0x100 then
    let h := (o - 0x10000) / 0x100
    let l := o % 0x100 / 0x20
    let w := o % 0x20 / 8
    s.sensWord ((List.range 4).map fun i => if w * 4 + i < 9 then some (h * 72 + l * 9 + w * 4 + i) else none)
  else if 0x20000 ≤ o ∧ o < 0x20000 + 20 * 0x40 then
    let h := (o - 0x20000) / 0x40
    let w := o % 0x40 / 8
    s.sensWord ((List.range 4).map fun i => if w * 4 + i < 18 then some (2000 + h * 18 + w * 4 + i) else none)
  else if o = 0x40000 then
    packFields [(61, p.state), (60, b2n p.emergency), (59, b2n p.clamp), (58, b2n p.belowFloor), (57, b2n p.shutdown), (56, b2n p.sdDram),
      (51, p.sdSite), (41, p.sdTemp), (32, s.dipMax)]
  else if o = 0x40008 then
    packFields [(52, p.capNow), (40, p.thermal.getD 0xFFF), (28, max floorW (min capW p.limitNow)), (16, floorW), (0, p.rth.getD fusedRth % 2 ^ 16)]
  else if o = 0x40010 then BitVec.ofNat 64 p.limitNow
  else if o = 0x40018 then packFields [(48, p.volt), (32, p.current), (20, p.avg % 2 ^ 12), (8, p.peak % 2 ^ 12)]
  else if o = 0x40020 then packFields ((List.range 16).map fun h => (4 * h, (s.clu h).dip))
  else if o = 0x40028 then packFields ((List.range 4).map fun h => (4 * h, (s.clu (16 + h)).dip))
  else if o = 0x40030 then packFields [(48, p.dipRaises), (32, p.emergencies), (16, p.clamps), (0, p.stuck)]
  else 0

def Mirror.status (m : Mirror) : Word :=
  packFields [(32, m.lastSeq % 2 ^ 32), (16, m.updates), (2, b2n m.lost), (1, b2n m.tamper), (0, b2n m.present)]
def Mirror.reg (m : Mirror) (o : Nat) : Word :=
  if o = 0x00 then BitVec.ofNat 64 m.id
  else if o = 0x08 then packFields [(48, m.sw), (0, m.digestHi)]
  else if o = 0x10 then BitVec.ofNat 64 m.energy
  else if o = 0x18 then packFields [(48, m.volt), (32, m.current), (16, m.power)]
  else if o = 0x20 then m.status
  else if 0x10000 ≤ o ∧ o < 0x20000 then bytesWord m.cert (o - 0x10000)
  else if 0x40000 ≤ o then bytesWord (tget m.recs ((o - 0x40000) / 0x8000)) (o % 0x8000)
  else 0

def LPort.status (p : LPort) : Word :=
  packFields [(61, p.state), (60, b2n p.narrow), (56, p.width), (55, b2n p.bridge), (54, b2n p.phase), (40, p.peer), (0, p.tx / 2 ^ 8 % 2 ^ 40)]
def LPort.count (p : LPort) : Word := packFields [(48, p.replay), (32, p.tagFail), (16, p.nak), (0, p.retrain)]

def State.lnkReg (s : State) (o : Nat) : Word :=
  if o = 0 then packFields [(8, s.boot.expPorts), (0, s.flash.fabricId.getD 0)]
  else if 0x100 ≤ o ∧ o < 0x300 then
    let p := tget s.lnk.ports ((o - 0x100) / 0x40)
    if o % 0x40 = 0 then p.status else if o % 0x40 = 8 then p.count else 0
  else if o = 0x800 then s.lnk.stage0
  else if o = 0x808 then s.lnk.stage1
  else if o = 0x810 then packFields [(61, b2n s.lnk.cmd.isSome), (16, s.lnk.code)]
  else if 0x10000 ≤ o ∧ o < 0x10800 then
    let w := tget s.lnk.wins ((o - 0x10000) / 0x10)
    if o % 16 = 0 then w.w0 else w.w1
  else 0

/-- Lanes in use of one module, and over both modules of a pair (R401). -/
def Pair.lanesOf (p : Pair) (m : Nat) : Nat := if !p.modules.testBit m then 0 else if p.narrow.testBit m then min 32 p.base else p.base
def Pair.lanes (p : Pair) : Nat := p.lanesOf 0 + p.lanesOf 1

def State.d2dReg (s : State) (o : Nat) : Word :=
  let g := s.guest
  if o < 0x40 then
    let p := tget s.pairs (o / 8)
    packFields [(62, p.state), (61, b2n p.degraded), (58, p.rate), (56, p.modules), (48, p.lanes), (32, p.repairs), (0, p.retries)]
  else if o = 0x100 then packFields [(48, g.vendor), (32, g.partner), (16, g.device), (8, g.power), (0, g.csr)]
  else if o = 0x108 then packFields [(32, g.timeouts), (8, b2n g.present), (0, g.temp)]
  else 0

/-! Windows of the dies (chapters 01 to 03, 07 to 11, 17 to 20) -/

def Core.stateReg (x : Core) : Word :=
  packFields [(48, x.epoch), (40, x.ctx), (24, x.ticketMask), (16, x.mPending), (8, x.sActive), (7, b2n x.fw), (0, x.run)]
def Exc.causeReg (e : Exc) : Word :=
  packFields [(48, e.mseq), (44, e.ticket), (32, e.second), (8, b2n e.imprecise), (0, e.cause)]
def Core.reg (x : Core) (o : Nat) : Word :=
  if o = 0x00 then x.stateReg
  else if o = 0x08 then x.exc.causeReg
  else if o = 0x10 then BitVec.ofNat 64 (x.exc.pc % 2 ^ 48 / 8 * 8)
  else if o = 0x18 then BitVec.ofNat 64 (x.exc.addr % 2 ^ 48)
  else if o = 0x20 then x.exc.chk0
  else if o = 0x28 then x.exc.chk1
  else 0

def Hal.status (x : Hal) : Word :=
  packFields ([(56, x.recalCount), (26, ((List.range 32).filter fun k => (tget x.via.spares k).valid).length),
    (23, ((List.range 4).filter fun k => (tget x.via.spares (32 + k)).valid).length), (22, b2n x.half), (21, b2n x.halfSel),
    (20, b2n x.degraded), (16, x.train)] ++ (List.range 8).map fun l => (32 + 2 * l, tget x.bands l))

def HalErr.log0 (e : HalErr) : Word := packFields [(63, b2n e.v0), (62, e.kind0), (58, e.req0), (0, e.off0)]
def HalErr.log1 (e : HalErr) : Word := packFields [(63, b2n e.v1), (48, e.sym1), (40, e.pat1), (0, e.off1)]
def HalErr.count (e : HalErr) : Word := packFields [(32, e.corrected), (16, e.uncorrectable), (0, e.residue)]
def Hal.mergeReg (x : Hal) : Word := packFields [(32, x.flushes), (16, x.rmwErrors), (0, x.merge.length)]
def Hal.starveReg (x : Hal) : Word := packFields [(32, x.starved1), (0, x.starved2)]
def HalScrub.limitReg (x : HalScrub) : Nat := x.limit.getD 0x00A4CB80

def Hal.reg (x : Hal) (o : Nat) : Word :=
  let v := x.via
  if o = 0x000 then x.status
  else if o = 0x020 then packFields ((32, x.pauses) :: (List.range 8).map fun l => (3 * l, tget x.owedMax l))
  else if o = 0x040 then packFields [(54, v.lastVia), (48, v.lastCa), (40, v.retired), (32, v.capRetry), (0, v.attributed)]
  else if 0x060 ≤ o ∧ o < 0x080 then BitVec.ofNat 64 (tget x.grants ((o - 0x60) / 8))
  else if o = 0x080 then x.starveReg
  else if 0x100 ≤ o ∧ o < 0x220 then
    let p := tget v.spares ((o - 0x100) / 8)
    packFields [(63, b2n p.valid), (62, b2n p.inService), (0, p.target)]
  else if o = 0x300 then x.region.extractLsb' 0 64
  else if o = 0x308 then x.region.extractLsb' 64 64
  else if o = 0x310 then packFields [(48, x.changes)]
  else if o = 0x320 then x.err.count
  else if o = 0x328 then x.err.log0
  else if o = 0x330 then x.err.log1
  else if o = 0x340 then x.mergeReg
  else if o = 0x380 then packFields [(48, x.scrub.laps), (31, b2n x.scrub.enabled), (7, x.scrub.line)]
  else if o = 0x388 then packFields [(63, b2n x.scrub.valid), (62, b2n x.scrub.late), (32, x.scrub.lockSeq), (0, x.scrub.cycles)]
  else if o = 0x390 then BitVec.ofNat 64 x.scrub.limitReg
  else if o = 0x3C0 then packFields [(62, x.test.mode), (61, b2n x.test.refused), (53, x.test.bank / 16), (49, x.test.bank % 16)]
  else if o = 0x3C8 then BitVec.ofNat 64 x.test.check
  else if 0x400 ≤ o ∧ o < 0x440 then
    let r := tget x.repair ((o - 0x400) / 8)
    packFields [(56, r.rowsFuse), (48, r.rowsTest), (40, r.colsFuse), (32, r.colsTest), (16, r.unrepairable), (0, r.disagree)]
  else 0

def Nbu.countReg (x : Nbu) : Word := packFields [(32, x.steps), (0, x.held)]
def Nbu.activeMask (x : Nbu) (lo : Nat) : Word :=
  packFields ((List.range 64).map fun b => (b, b2n (tget x.units (lo + b)).active))
def Ticket.reg (t : Ticket) : Word :=
  packFields [(61, t.state), (58, t.error), (52, t.pc), (49, t.layer), (45, t.bank), (29, t.word), (0, t.left)]
def nbuReg (x : Nbu) (core : Core) (o : Nat) : Word :=
  if o = 0x00 then packFields [(48, x.ended), (32, x.queue.length), (8, (x.units.filter (·.2.active)).length), (0, x.limit.getD 32)]
  else if o = 0x08 then x.activeMask 0
  else if o = 0x10 then x.activeMask 64
  else if o = 0x18 then x.countReg
  else if 0x100 ≤ o ∧ o < 0x180 then (tget core.tickets ((o - 0x100) / 8)).reg
  else 0

def Cache.reg (x : Cache) (o : Nat) : Word :=
  if o = 0x00 then packFields [(56, x.invCtx), (55, b2n !x.leaving.isEmpty), (54, b2n x.enabled), (0, x.lines.length)]
  else if o = 0x08 then packFields [(32, x.hits), (0, x.misses)]
  else if o = 0x10 then packFields [(32, x.invalSent), (0, x.invalWrite)]
  else if o = 0x18 then packFields [(32, x.performed), (0, x.ctxMiss)]
  else if o = 0x20 then
    packFields [(63, b2n x.errValid), (62, x.errKind), (46, x.errCorrected), (30, x.errUncorrectable), (17, x.errSet), (13, x.errWay)]
  else 0

/-- Backed logical cores of a cluster. -/
def State.backedOf (s : State) (h : Nat) : List Nat := (List.range 64).filter fun k => s.backed (64 * h + k)

def Clu.mhzReg (x : Clu) : Word := packFields [(48, x.changes), (32, x.dip), (0, x.mhz)]
def State.cluContext (s : State) (h : Nat) : Word :=
  let x := s.clu h
  packFields [(48, x.switches), (9, b2n x.served), (8, b2n (s.claimed h)), (0, x.ctx)]
def Clu.dropReg (x : Clu) : Word := packFields [(32, x.dropEpoch), (0, x.dropOther)]

def State.cluReg (s : State) (h o : Nat) : Word :=
  let x := s.clu h
  if o = 0x00 then packFields [(48, x.mapGen), (8, x.spares.length), (0, (s.backedOf h).length)]
  else if o = 0x08 then packFields ((s.backedOf h).map fun k => (k, 1))
  else if o = 0x10 then x.dropReg
  else if o = 0x18 then x.dropLast
  else if o = 0x20 then s.cluContext h
  else if o = 0x28 then
    packFields [(56, x.recFuse), (48, x.recTest), (40, x.recDisagree), (32, x.recHalf), (24, x.recBunting), (0, x.recGood)]
  else if o = 0x30 then x.mhzReg
  else if 0x10000 ≤ o ∧ o < 0x10400 then (tget s.dma.ch (256 + 16 * h + (o - 0x10000) / 0x40)).reg (o % 0x40)
  else 0

def State.dieReg (s : State) (d o : Nat) : Word :=
  let x := s.die d
  let mhz := fun c => (s.clu (4 * d + c)).mhz
  if o = 0x08 then BitVec.ofNat 64 x.count
  else if o = 0x10 then
    packFields [(48, x.lockSeq), (32, mhz 3), (20, mhz 2), (8, mhz 1), (7, b2n x.locked), (0, min 0x1F ((mhz 0 - 500) / 50))]
  else if o = 0x100 then (tget s.flt (d + 1)).status
  else if 0x10000 ≤ o ∧ o < 0x12000 then (tget s.flt (d + 1)).recWord ((o - 0x10000) / 32) (o / 8 % 4)
  else 0

/-- TRC (R489 to R492). -/
def Sync.words (x : Sync) : List Word :=
  [BitVec.ofNat 64 x.t1, BitVec.ofNat 64 x.t2, BitVec.ofNat 64 x.d, packFields [(48, x.lockSeq), (0, b2n x.valid)]]
def State.trcReg (s : State) (o : Nat) : Word :=
  if o = 0 then packFields [(48, 1), (0, s.trc.skipped)]
  else if 0x100 ≤ o ∧ o < 0x1A0 then (tget s.trc.sync ((o - 0x100) / 32)).words.getD (o / 8 % 4) 0
  else if 0x1000 ≤ o ∧ o < 0xD000 then
    let k := o - 0x1000
    (tget s.flt (k / 0x2000)).recWord (k % 0x2000 / 32) (o / 8 % 4)
  else if 0x10000 ≤ o ∧ o < 0x60000 then (tget s.trc.cores ((o - 0x10000) / 256)).getD (o % 256 / 8) 0
  else if 0x60000 ≤ o ∧ o < 0x61400 then (tget s.trc.clus ((o - 0x60000) / 256)).getD (o % 256 / 8) 0
  else 0

/-! The map of R44 -/

/-- The per-core instance at an offset, if it is one (R45): its logical core. -/
def coreAt (o : Nat) : Option Nat :=
  if o < 0x800000 ∨ 0x3000000 ≤ o then none
  else
    let d := (o - 0x800000) / 0x800000
    let w := o % 0x800000
    if 0x100000 ≤ w ∧ w < 0x200000 then
      if 0x20000 ≤ w % 0x40000 then some (d * 256 + (w - 0x100000) / 0x40000 * 64 + (w % 0x40000 - 0x20000) / 0x800) else none
    else if 0x200000 ≤ w ∧ w < 0x600000 then some (d * 256 + w % 0x200000 / 0x2000)
    else none

def State.winReg (s : State) (o : Nat) : Word :=
  let d := (o - 0x800000) / 0x800000
  let w := o % 0x800000
  match coreAt o with
  | some c =>
    match s.phys c with
    | none => 0
    | some p =>
      if w < 0x200000 then (s.core c).reg (w % 0x800)
      else if w < 0x400000 then (s.hal p).reg (w % 0x2000)
      else nbuReg (s.nbu p) (s.core c) (w % 0x2000)
  | none =>
    if w < 0x100000 then s.dieReg d w
    else if w < 0x200000 then s.cluReg (4 * d + (w - 0x100000) / 0x40000) (w % 0x40000)
    else if 0x600000 ≤ w ∧ w < 0x700000 then (s.cache (4 * d + (w - 0x600000) / 0x40000)).reg (w % 0x40000)
    else 0

/-- What the register at a BAR0 offset reads (the offset's bits 2:0 do not count). -/
def State.readReg (s : State) (off : Nat) (fw : Bool := false) : Word :=
  let o := off / 8 * 8
  if o < 0x100000 then s.hubReg o
  else if o < 0x200000 then s.queReg (o - 0x100000)
  else if o < 0x280000 then (if o < 0x204000 then (tget s.dma.ch ((o - 0x200000) / 0x40)).reg (o % 0x40) else 0)
  else if o < 0x300000 then s.crcReg (o - 0x280000) fw
  else if o < 0x400000 then s.secReg (o - 0x300000)
  else if o < 0x480000 then s.thmReg (o - 0x400000)
  else if o < 0x500000 then s.mtr.reg (o - 0x480000)
  else if o < 0x580000 then s.lnkReg (o - 0x500000)
  else if o < 0x600000 then s.d2dReg (o - 0x580000)
  else if o < 0x800000 then s.trcReg (o - 0x600000)
  else if o < 0x3000000 then s.winReg o
  else 0

/-! Access errors (R527) -/

/-- Kinds of access error: 0 WIDTH, 1 UNMAPPED, 2 UNBACKED. -/
def State.accessFault (s : State) (kind bar off : Nat) : State :=
  let a := s.accessErr
  { s with accessErr := { width := a.width || decide (kind = 0), unmapped := a.unmapped || decide (kind = 1),
                          unbacked := a.unbacked || decide (kind = 2), bar := bar, count := sat 16 (a.count + 1), offset := off } }

/-- R45: an access to the instance of an unbacked core is recorded. -/
def State.noteUnbacked (s : State) (off : Nat) : State :=
  match coreAt off with
  | some c => if s.backed c then s else s.accessFault 2 0 off
  | none => s

/-! Writing -/

/-- The word that a command register takes from a write of its upper half or of all of it (R18, R20); a write of the lower half alone is kept
until then (log entry 110). -/
def State.commandWord (s : State) (off half v : Nat) : State × Option Word :=
  if half = 1 then ({ s with host := { s.host with lo := tput s.host.lo off (v % 2 ^ 32) } }, none)
  else if half = 2 then (s, some (BitVec.ofNat 64 (v % 2 ^ 32 * 2 ^ 32 + tget s.host.lo off)))
  else ({ s with host := { s.host with lo := tput s.host.lo off (v % 2 ^ 32) } }, some (BitVec.ofNat 64 v))

/-- The new value of a register that is written whole (0), in its lower half (1) or its upper half (2). -/
def mergeHalf (old : Word) (half v : Nat) : Word :=
  let o := old.toNat
  if half = 0 then BitVec.ofNat 64 v
  else if half = 1 then BitVec.ofNat 64 (o / 2 ^ 32 * 2 ^ 32 + v % 2 ^ 32)
  else BitVec.ofNat 64 (o % 2 ^ 32 + v % 2 ^ 32 * 2 ^ 32)

/-- The bits of a register that a write puts as ones. -/
def onesOf (half v : Nat) : Word := mergeHalf 0 half v

/-- R526: clear the causes that are written as 1 and are RW1C. -/
def State.clearAlerts (s : State) (w : Word) : State :=
  [4, 5, 9].foldl (fun s k => if bit w k then s.alertOff k else s) s

/-- A write to the HUB block: none where the host may not write there. -/
def State.writeHub (s : State) (o half v : Nat) : Option State :=
  let w := onesOf half v
  if o = 0x30 then some (s.clearAlerts w)
  else if o = 0x38 then
    let a := s.accessErr
    some { s with accessErr := { a with width := a.width && !bit w 63, unmapped := a.unmapped && !bit w 62, unbacked := a.unbacked && !bit w 61 } }
  else if o = 0x100 then
    let (s, c) := s.commandWord o half v
    match c with
    | none => some s
    | some c =>
      if s.mbox.cmd.isSome then some { s with mbox := { s.mbox with overrun := true } }
      else if 1 ≤ bits c 60 4 ∧ bits c 60 4 ≤ 4 then some { s with mbox := { s.mbox with cmd := some c } } else some s
  else if o = 0x108 then some { s with mbox := { s.mbox with overrun := s.mbox.overrun && !bit w 62 } }
  else if o = 0x400 then some { s with place := { s.place with addr := (mergeHalf (BitVec.ofNat 64 s.place.addr) half v).toNat % 2 ^ 48 } }
  else if o = 0x408 then
    let (s, c) := s.commandWord o half v
    match c with
    | none => some s
    | some c =>
      if s.place.cmd.isSome then some { s with place := { s.place with overrun := true } }
      else if bits c 62 2 = 1 ∨ bits c 62 2 = 2 then some { s with place := { s.place with cmd := some c } } else some s
  else if o = 0x410 then some { s with place := { s.place with overrun := s.place.overrun && !bit w 62 } }
  else if 0x1000 ≤ o ∧ o < 0x2000 then
    let n := mergeHalf (cellWord s.mbox.window (o - 0x1000)) half v
    some { s with mbox := { s.mbox with window := tputs s.mbox.window (o - 0x1000) (leBytes 8 n.toNat) } }
  else if 0xF0000 ≤ o ∧ o < 0xF8000 then
    let i := (o - 0xF0000) / 4
    let n := mergeHalf (BitVec.ofNat 64 (s.msixWord i + s.msixWord (i + 1) * 2 ^ 32)) half v
    let inv := fun k x => if k % 4 = 3 then (x % 2) ^^^ 1 else x
    let t := tput (tput s.host.msix i (inv i (n.toNat % 2 ^ 32))) (i + 1) (inv (i + 1) (n.toNat / 2 ^ 32))
    some { s with host := { s.host with msix := t } }
  else none

/-- The bits of QUE_CFG0 that exist. -/
def cfg0Mask : Word := 0x000000FFFFFF0103
def daMask : Word := 0x0000FFFFFFFFFFFF

def State.writeQue (s : State) (o half v : Nat) : Option State :=
  let q := s.que
  let w := onesOf half v
  if o = 0x10 then some { s with que := { q with cfg0 := mergeHalf q.cfg0 half v &&& cfg0Mask } }
  else if o = 0x18 then some { s with que := { q with cfg1 := mergeHalf q.cfg1 half v &&& daMask } }
  else if o = 0x20 then some { s with que := { q with cfg2 := mergeHalf q.cfg2 half v &&& daMask } }
  else if o = 0x28 then
    let (s, c) := s.commandWord (0x100000 + o) half v
    match c with
    | none => some s
    | some c =>
      if q.cmd.isSome then some { s with que := { s.que with overrun := true } }
      else if bits c 62 2 ≠ 0 then some { s with que := { s.que with cmd := some c } } else some s
  else if o = 0x30 then some { s with que := { q with overrun := q.overrun && !bit w 62 } }
  else none

/-- DMA channel k: OVERRUN, and PROD of a host-owned HUB channel (R345). `fw`: firmware may write CTL and RING too. -/
def State.writeChan (s : State) (k o half v : Nat) (fw : Bool) : Option State :=
  let x := tget s.dma.ch k
  let w := onesOf half v
  let put := fun x : Chan => some { s with dma := { s.dma with ch := tput s.dma.ch k x } }
  if o = 0x00 then
    let x := { x with overrun := x.overrun && !bit w 61 }
    if fw then
      let n := mergeHalf x.ctl half v
      put { x with enable := bit n 63, host := bit n 62, ctx := bits n 48 8, bell := bits n 0 48
                   run := x.run.map fun r => { r with stop := r.stop || !bit n 63 } }
    else put x
  else if o = 0x08 ∧ fw then
    let n := mergeHalf (x.reg 8) half v
    put { x with log2 := min 12 (bits n 60 4), base := bits n 0 48 / 64 * 64 }
  else if o = 0x10 ∧ k < 256 ∧ (x.host ∨ fw) then
    if half = 2 then some s else some (s.ringChannel k (v % 2 ^ 16) true)
  else none


/-- R362: a write of VALUE. -/
def State.writeCrcValue (s : State) (n : Nat) (w : Word) : State :=
  let x := tget s.dma.crc n
  let put := fun x : CrcCh => { s with dma := { s.dma with crc := tput s.dma.crc n x } }
  if s.crcGone n then s
  else if s.crcBusy n then put { x with collide := true }
  else put { x with value := w.toNat % 2 ^ crcWidth x.alg }

def State.writeCrc (s : State) (o half v : Nat) (fw : Bool) : Option State :=
  let n := (o - 0x100) / 0x20
  let x := tget s.dma.crc n
  let w := onesOf half v
  if o < 0x100 ∨ 0x300 ≤ o then none
  else if o % 0x20 = 0 then
    let x := { x with collide := x.collide && !bit w 62 }
    let m := mergeHalf (s.crcReg o fw) half v
    let x := if fw then { x with host := bit m 63, off := false, alg := bits m 8 2, ctx := bits m 0 8 } else x
    some { s with dma := { s.dma with crc := tput s.dma.crc n x } }
  else if o % 0x20 = 8 ∧ (x.host ∨ fw) then some (s.writeCrcValue n (mergeHalf (BitVec.ofNat 64 x.value) half v))
  else none

def State.writeSec (s : State) (o half v : Nat) : Option State :=
  let x := s.sec
  let w := onesOf half v
  if o = 0x00 then
    let (s, c) := s.commandWord (0x300000 + o) half v
    match c with
    | none => some s
    | some c =>
      if x.cmd.isSome then some { s with sec := { s.sec with overrun := true } }
      else if 1 ≤ bits c 59 5 ∧ bits c 59 5 ≤ 9 then some { s with sec := { s.sec with cmd := some c } } else some s
  else if o = 0x08 then some { s with sec := { x with arg := mergeHalf x.arg half v } }
  else if o = 0x10 then some { s with sec := { x with overrun := x.overrun && !bit w 62 } }
  else none

def State.writeLnk (s : State) (o half v : Nat) : Option State :=
  let x := s.lnk
  if o = 0x800 then some { s with lnk := { x with stage0 := mergeHalf x.stage0 half v } }
  else if o = 0x808 then some { s with lnk := { x with stage1 := mergeHalf x.stage1 half v } }
  else if o = 0x810 then
    let (s, c) := s.commandWord (0x500000 + o) half v
    match c with
    | none => some s
    | some c => if x.cmd.isNone ∧ (bits c 62 2 = 1 ∨ bits c 62 2 = 2) then some { s with lnk := { s.lnk with cmd := some c } } else some s
  else none

/-- Registers of a core's halyard, near-bank units and cache that management firmware writes (R200, R210, R218, R240, R260). -/
def State.writeWinFw (s : State) (o half v : Nat) : Option State :=
  let w := o % 0x800000
  let d := (o - 0x800000) / 0x800000
  match coreAt o with
  | some c =>
    match s.phys c with
    | none => none
    | some p =>
      let x := s.hal p
      let i := w % 0x2000
      if 0x200000 ≤ w ∧ w < 0x400000 then
        if i = 0x328 then some (s.setHal p { x with err := { x.err with v0 := bit (mergeHalf x.err.log0 half v) 63 && x.err.v0 } })
        else if i = 0x330 then some (s.setHal p { x with err := { x.err with v1 := bit (mergeHalf x.err.log1 half v) 63 && x.err.v1 } })
        else if i = 0x390 then
          let n := (mergeHalf (x.reg 0x390) half v).toNat % 2 ^ 32
          let late := x.scrub.enabled && decide (n < (s.die (c / 256)).count - x.scrub.lapStart)
          some (s.setHal p { x with scrub := { x.scrub with limit := some n, late := late } })
        else if i = 0x3C8 then
          some (s.setHal p { x with test := { x.test with check := (mergeHalf (x.reg 0x3C8) half v).toNat % 2 ^ 32 } })
        else none
      else if 0x400000 ≤ w ∧ i = 0 then
        let n := bits (mergeHalf (nbuReg (s.nbu p) (s.core c) 0) half v) 0 6
        some (s.setNbu p { s.nbu p with limit := some (max 1 (min 32 n)) })
      else none
  | none =>
    if 0x600000 ≤ w ∧ w < 0x700000 ∧ w % 0x40000 = 0x20 then
      let h := 4 * d + (w - 0x600000) / 0x40000
      let x := s.cache h
      some (s.setCache h { x with errValid := x.errValid && bit (mergeHalf (x.reg 0x20) half v) 63 })
    else none

/-- A write of 8 bytes (half 0) or of one half: none where the writer may not write. -/
def State.writeReg (s : State) (off half v : Nat) (fw : Bool) : Option State :=
  let o := off / 8 * 8
  if o < 0x100000 then s.writeHub o half v
  else if o < 0x200000 then s.writeQue (o - 0x100000) half v
  else if o < 0x204000 then s.writeChan ((o - 0x200000) / 0x40) (o % 0x40) half v fw
  else if o < 0x280000 then none
  else if o < 0x300000 then s.writeCrc (o - 0x280000) half v fw
  else if o < 0x400000 then s.writeSec (o - 0x300000) half v
  else if o = 0x440010 then
    some { s with pwr := { s.pwr with limit := some ((mergeHalf (BitVec.ofNat 64 s.pwr.limitNow) half v).toNat % 2 ^ 12) } }
  else if 0x500000 ≤ o ∧ o < 0x580000 then s.writeLnk (o - 0x500000) half v
  else if 0x800000 ≤ o ∧ o < 0x3000000 then
    let w := o % 0x800000
    if 0x100000 ≤ w ∧ w < 0x200000 ∧ 0x10000 ≤ w % 0x40000 ∧ w % 0x40000 < 0x10400 then
      s.writeChan (256 + 16 * (4 * ((o - 0x800000) / 0x800000) + (w - 0x100000) / 0x40000) + (w % 0x40000 - 0x10000) / 0x40) (w % 0x40) half v fw
    else if fw then s.writeWinFw o half v else none
  else none

/-! The guest window (R405) -/

/-- BAR0 offset of the guest window. -/
def guestBase : Nat := 0x3800000

/-- The guest die answers an access of firmware, with free data, or is silent for 500 µs (log entry 106). -/
def State.guestForward (s : State) (off width : Nat) (data : Bytes) : State × Word :=
  let s := s.send (.guestAccess off (decide (data ≠ [])) data)
  let (v, s) := s.free
  if v % 2 = 0 then ({ s with guest := { s.guest with timeouts := wrap 32 (s.guest.timeouts + 1) } }, 0)
  else
    let (w, s) := s.free
    (s, BitVec.ofNat 64 (w % 2 ^ (8 * width)))

/-- The guest's control space holds the offset. -/
def State.guestHolds (s : State) (off : Nat) : Bool := s.guestUp && decide (guestBase ≤ off) && decide (off - guestBase < s.guest.csr * 2 ^ 20)

/-- An aligned read of 4 or 8 bytes; `fw`: by management firmware. -/
def State.loadReg (s : State) (off width : Nat) (fw : Bool) : State × Word :=
  if s.guestHolds off then s.guestForward (off - guestBase) width []
  else
    let w := s.readReg off fw
    (s.noteUnbacked off,
      if width = 8 then w else if off % 8 = 0 then w &&& 0xFFFFFFFF else w >>> 32)

/-- R18, R20, R45, R46: an aligned write of 4 or 8 bytes to control space. -/
def State.storeReg (s : State) (off width v : Nat) (fw : Bool) : State :=
  let half := if width = 8 then 0 else if off % 8 = 0 then 1 else 2
  if s.guestHolds off then (s.guestForward (off - guestBase) width (leBytes width v)).1 else
  match coreAt off with
  | some c =>
    if !s.backed c then s.accessFault 2 0 off
    else match s.writeReg off half v fw with
      | some t => t
      | none => s.accessFault 1 0 off
  | none =>
    match s.writeReg off half v fw with
    | some t => t
    | none => s.accessFault 1 0 off


/-! Writes of the host (R378) -/

/-- HUB serves: out of reset, with its clock. -/
def State.hubRuns (s : State) : Bool := !s.struck && s.perstOut && !s.hubPllLost

/-- R378: the request may be served: on a Secure stream where policy requires one; function 0 takes none in D3hot. -/
def State.takes (s : State) (secure : Bool) : Bool :=
  !s.host.d3hot && (!s.sec.ideRequired || (secure && !s.host.secure.isEmpty))

/-- The blocks that answer in recovery (R438) and after a thermal shutdown (R472). -/
def State.blockAnswers (s : State) (off : Nat) : Bool :=
  if s.boot.state = 4 then decide (off < 0x100000)
  else if s.pwr.shutdown then decide (off < 0x100000) || (decide (0x400000 ≤ off) && decide (off < 0x480000))
  else true

/-- R18, R20, R378: a write of the host to control space. -/
def State.hostStore (s : State) (off : Nat) (a : HostAcc) (v : Nat) : State :=
  if !s.takes a.secure then s.send .hostUrPosted
  else if (a.width ≠ 4 ∧ a.width ≠ 8) ∨ off % a.width ≠ 0 then (s.accessFault 0 0 off).send .hostUrPosted
  else if !s.blockAnswers off then s
  else s.storeReg off a.width v false

end Sys2Proof.Machine
end

