-- ==== Sys2Proof/Machine/Flags.lean ====
section
/-! DEFINITION. Conditions and comparisons: branch conditions (R139), set-less-than (R126), vector compares (R132). -/

namespace Sys2Proof.Machine

/-- R139: condition `k` on two scalars; 6 and 7 look at the predicate value `p`. -/
def branchCond (k : Nat) (a b p : Word) : Bool :=
  match k with
  | 0 => a == b
  | 1 => a != b
  | 2 => a.slt b
  | 3 => !a.slt b
  | 4 => a.ult b
  | 5 => !a.ult b
  | 6 => p != 0
  | _ => p == 0

/-- A truth value as a register value. -/
def flagWord (b : Bool) : Word := if b then 1 else 0

/-- R132, VCMP: comparison `fn` of two elements of a type; a NaN operand gives false except for NE. -/
def cmpElem (t : EType) (fn a b : Nat) : Bool :=
  let va := t.val a
  let vb := t.val b
  let nan := va.isNan || vb.isNan
  match fn with
  | 0 => va.eqv vb
  | 1 => !va.eqv vb
  | 2 => va.lt vb
  | 3 => !nan && !vb.lt va
  | 4 => vb.lt va
  | _ => !nan && !va.lt vb

end Sys2Proof.Machine
end

