-- ==== Sys2Proof/Machine/Vector.lean ====
section
/-! DEFINITION. Vector class without memory accesses (R130 to R137). -/

namespace Sys2Proof.Machine

/-- The fields of format V that a row may leave unused, each as lowest bit and length. -/
def vfPG : Nat × Nat := (53, 3)
def vfVB : Nat × Nat := (38, 5)
def vfVC : Nat × Nat := (33, 5)
def vfET : Nat × Nat := (29, 4)
def vfET2 : Nat × Nat := (25, 4)
def vfRND : Nat × Nat := (23, 2)
def vfPART : Nat × Nat := (20, 3)
def vfSAT : Nat × Nat := (19, 1)
def vfIMM : Nat × Nat := (13, 6)
def vfFN : Nat × Nat := (8, 5)
def vfZ : Nat × Nat := (0, 8)

/-- Write an element-wise result under the governing predicate (R130). -/
def Core.blendV (x : Core) (f : BitVec 56) (w : Nat) (new : V512) : V512 :=
  blend w (x.preg (fPG f)) (x.vreg (fRD f)) new

/-- R132, VINT: operation `fn` on two elements of an integer type. -/
def vintOp (t : EType) (sat : Bool) (fn a b : Nat) : Option Nat :=
  let w := t.width
  let ia := t.int a
  let ib := t.int b
  let fit := fun i : Int => toTwos w (if sat then clampInt t.range.1 t.range.2 i else i)
  let n := b % w
  match fn with
  | 0 => some (fit (ia + ib))
  | 1 => some (fit (ia - ib))
  | 2 => some (toTwos w (ia * ib))
  | 3 => some (a &&& b)
  | 4 => some (a ||| b)
  | 5 => some (a ^^^ b)
  | 6 => some (a &&& (2 ^ w - 1 - b))
  | 7 => some (a * 2 ^ n % 2 ^ w)
  | 8 => some (a / 2 ^ n)
  | 9 => some (toTwos w (ia / 2 ^ n))
  | 10 => some (if ib < ia then b else a)
  | 11 => some (if ia < ib then b else a)
  | _ => none

/-- The integer types that VINT, VCMP and VRED allow. -/
def EType.isVInt : EType → Bool
  | .int8 | .uint8 | .int16 | .int32 => true
  | _ => false

def execVint (c : Nat) (f : BitVec 56) (s : State) : Host.Outcome State Fault Refusal :=
  runCore c s fun s x =>
    match etypeOf (vET f) with
    | none => .exc s causeIllegal 0
    | some t =>
      let fn := vFN f
      legal s (t.isVInt && zeros f [vfVC, vfET2, vfRND, vfPART, vfIMM, vfZ] && decide (fn < 12) &&
          (decide (vSAT f = 0) || decide (fn < 2)))
        (doneV s c (fRD f) (x.blendV f t.width (packLanes t.width (List.zipWith
          (fun a b => (vintOp t (vSAT f = 1) fn a b).getD 0) (lanes t.width (x.vreg (fRA f))) (lanes t.width (x.vreg (fRB f)))))))

/-- R132, VFP. -/
def vfpOp (fn a b : Nat) : Nat :=
  match fn with
  | 0 => fadd32 a b
  | 1 => fsub32 a b
  | 2 => fmul32 a b
  | 3 => fmin32 a b
  | 4 => fmax32 a b
  | 5 => fabs32 a
  | _ => fneg32 a

def execVfp (c : Nat) (f : BitVec 56) (s : State) : Host.Outcome State Fault Refusal :=
  runCore c s fun s x =>
    let fn := vFN f
    legal s (decide (vET f = 8) && zeros f [vfVC, vfET2, vfRND, vfPART, vfSAT, vfIMM, vfZ] && decide (fn < 7) &&
        (decide (fn < 5) || decide (fRB f = 0)))
      (doneV s c (fRD f) (x.blendV f 32 (packLanes 32 (List.zipWith (vfpOp fn)
        (lanes 32 (x.vreg (fRA f))) (lanes 32 (x.vreg (fRB f)))))))

/-- R132, VFMA: one rounding per element. -/
def vfmaOp (fn a b d : Nat) : Nat :=
  match fn with
  | 0 => ffma32 a b d
  | 1 => rnd32 (((f32 a).mul (f32 b)).add (f32 d).neg)
  | _ => rnd32 (((f32 a).mul (f32 b)).neg.add (f32 d))

def execVfma (c : Nat) (f : BitVec 56) (s : State) : Host.Outcome State Fault Refusal :=
  runCore c s fun s x =>
    let fn := vFN f
    legal s (decide (vET f = 8) && zeros f [vfET2, vfRND, vfPART, vfSAT, vfIMM, vfZ] && decide (fn < 3))
      (doneV s c (fRD f) (x.blendV f 32 (packLanes 32 ((List.range 16).map fun k =>
        vfmaOp fn (lane 32 (x.vreg (fRA f)) k) (lane 32 (x.vreg (fRB f)) k) (lane 32 (x.vreg (fRC f)) k)))))

/-- R109: EXP2, RCP, RSQRT. -/
def vfnOp (fn a : Nat) : Nat :=
  match fn with
  | 0 => exp2F a
  | 1 => rcpF a
  | _ => rsqrtF a

def execVfn (c : Nat) (f : BitVec 56) (s : State) : Host.Outcome State Fault Refusal :=
  runCore c s fun s x =>
    let fn := vFN f
    legal s (decide (vET f = 8) && zeros f [vfVB, vfVC, vfET2, vfRND, vfPART, vfSAT, vfIMM, vfZ] && decide (fn < 3))
      (doneV s c (fRD f) (x.blendV f 32 (packLanes 32 ((lanes 32 (x.vreg (fRA f))).map (vfnOp fn)))))

/-- R132: the predicate of a compare: every byte bit of an active element set to its result. -/
def vcmpMask (t : EType) (fn : Nat) (pg : Word) (a b : V512) : Word :=
  let w := t.width
  let wb := w / 8
  BitVec.ofNat 64 ((List.range 64).foldl (fun m k =>
    if laneActive pg w (k / wb) && cmpElem t fn (lane w a (k / wb)) (lane w b (k / wb)) then m + 2 ^ k else m) 0)

def execVcmp (c : Nat) (f : BitVec 56) (s : State) : Host.Outcome State Fault Refusal :=
  runCore c s fun s x =>
    match etypeOf (vET f) with
    | none => .exc s causeIllegal 0
    | some t =>
      let fn := vFN f
      legal s ((t.isVInt || decide (t = .fp32)) && zeros f [vfVC, vfET2, vfRND, vfPART, vfSAT, vfIMM, vfZ] && decide (fn < 6) &&
          decide (fRD f < 8))
        (.done (s.setCore c ((s.core c).setP (fRD f)
          (vcmpMask t fn (x.preg (fPG f)) (x.vreg (fRA f)) (x.vreg (fRB f))))))

/-- R134: the values combined: FP32 patterns, or integer elements extended to 32 bits; an inactive element gives the identity. -/
def vredTerms (t : EType) (fn : Nat) (pg : Word) (a : V512) : List Nat :=
  (List.range (512 / t.width)).map fun k =>
    if laneActive pg t.width k then
      (if t = .fp32 then lane 32 a k else toTwos 32 (t.int (lane t.width a k)))
    else
      match fn with
      | 0 => if t = .fp32 then f32NegZero else 0
      | 1 => if t = .fp32 then f32NegInf else 0x80000000
      | _ => if t = .fp32 then f32PosInf else 0x7FFFFFFF

def vredOp (t : EType) (fn a b : Nat) : Nat :=
  if t = .fp32 then
    match fn with
    | 0 => fadd32 a b
    | 1 => fmax32 a b
    | _ => fmin32 a b
  else
    match fn with
    | 0 => (a + b) % 2 ^ 32
    | 1 => if sext 32 a < sext 32 b then b else a
    | _ => if sext 32 b < sext 32 a then b else a

def execVred (c : Nat) (f : BitVec 56) (s : State) : Host.Outcome State Fault Refusal :=
  runCore c s fun s x =>
    match etypeOf (vET f) with
    | none => .exc s causeIllegal 0
    | some t =>
      let fn := vFN f
      legal s ((t.isVInt || decide (t = .fp32)) && zeros f [vfVB, vfVC, vfET2, vfRND, vfPART, vfSAT, vfIMM, vfZ] && decide (fn < 3))
        (doneV s c (fRD f) (BitVec.ofNat 512 (pairTree (vredOp t fn) (512 / t.width).log2
          (vredTerms t fn (x.preg (fPG f)) (x.vreg (fRA f))))))

/-- R137. -/
def vpermOp (fn w imm : Nat) (a b : V512) : V512 :=
  let n := 512 / w
  match fn with
  | 0 => packLanes 8 ((lanes 8 b).map fun k => if 128 ≤ k then 0 else lane 8 a (k % 64))
  | 1 => packLanes w ((List.range n).map fun i => if i % 2 = 0 then lane w a (i / 2) else lane w b (i / 2))
  | 2 => packLanes w ((List.range n).map fun i => if i % 2 = 0 then lane w a (n / 2 + i / 2) else lane w b (n / 2 + i / 2))
  | 3 => packLanes w ((List.range n).map fun i => if i < n / 2 then lane w a (2 * i) else lane w b (2 * (i - n / 2)))
  | 4 => packLanes w ((List.range n).map fun i => if i < n / 2 then lane w a (2 * i + 1) else lane w b (2 * (i - n / 2) + 1))
  | _ => packLanes 8 ((List.range 64).map fun k => lane 8 a ((k + imm) % 64))

def execVperm (c : Nat) (f : BitVec 56) (s : State) : Host.Outcome State Fault Refusal :=
  runCore c s fun s x =>
    let fn := vFN f
    let bytes := decide (fn = 0) || decide (fn = 5)
    match if bytes then some EType.uint8 else etypeOf (vET f) with
    | none => .exc s causeIllegal 0
    | some t =>
      legal s (zeros f [vfVC, vfET2, vfRND, vfPART, vfSAT, vfZ] && decide (fn < 6) && (!bytes || decide (vET f = 0)) &&
          (decide (fn ≠ 5) || decide (fRB f = 0)) && (decide (fn = 5) || decide (vIMM f = 0)))
        (doneV s c (fRD f) (x.blendV f t.width (vpermOp fn t.width (vIMM f) (x.vreg (fRA f)) (x.vreg (fRB f)))))

/-- R132: VBCAST, from a scalar or from one lane. -/
def execVbcast (c : Nat) (f : BitVec 56) (s : State) : Host.Outcome State Fault Refusal :=
  runCore c s fun s x =>
    match etypeOf (vET f) with
    | none => .exc s causeIllegal 0
    | some t =>
      let fn := vFN f
      let w := t.width
      let e := if fn = 0 then (x.sreg (fRA f)).toNat % 2 ^ w else lane w (x.vreg (fRA f)) (vIMM f)
      legal s (zeros f [vfPG, vfVB, vfVC, vfET2, vfRND, vfPART, vfSAT, vfZ] && decide (fn < 2) &&
          (decide (fn = 1) || decide (vIMM f = 0)) && decide (vIMM f < 512 / w))
        (doneV s c (fRD f) (packLanes w (List.replicate (512 / w) e)))

/-- R132: VMOVS: sign-extended for signed integer types, zero-extended for all others. -/
def vmovsVal (t : EType) (e : Nat) : Word :=
  if t.isFloat || decide (t = .uint8) then BitVec.ofNat 64 e else ofI (t.int e)

def execVmovs (c : Nat) (f : BitVec 56) (s : State) : Host.Outcome State Fault Refusal :=
  runCore c s fun s x =>
    match etypeOf (vET f) with
    | none => .exc s causeIllegal 0
    | some t =>
      legal s (zeros f [vfPG, vfVB, vfVC, vfET2, vfRND, vfPART, vfSAT, vfFN, vfZ] && decide (vIMM f < 512 / t.width))
        (doneS s c (fRD f) (vmovsVal t (lane t.width (x.vreg (fRA f)) (vIMM f))))

/-- R133: the elements of va that are converted, and the first element of vd that they fill. -/
def vcvtPlace (ws wt part : Nat) : Nat × Nat × Nat :=
  if wt < ws then (0, 512 / ws, part * (512 / ws))
  else if ws < wt then (part * (512 / wt), 512 / wt, 0)
  else (0, 512 / ws, 0)

/-- R133: number of legal PART values. -/
def vcvtParts (ws wt : Nat) : Nat := if wt < ws then ws / wt else if ws < wt then wt / ws else 1

def execVcvt (c : Nat) (f : BitVec 56) (s : State) : Host.Outcome State Fault Refusal :=
  runCore c s fun s x =>
    match etypeOf (vET f), etypeOf (vET2 f) with
    | some t, some u =>
      let (first, n, dst) := vcvtPlace t.width u.width (vPART f)
      let va := x.vreg (fRA f)
      let src := (List.range n).map fun k => lane t.width va (first + k)
      let out := src.map fun e => u.conv (vRND f = 1) (vSAT f = 1) (t.val e)
      let old := lanes u.width (x.vreg (fRD f))
      let new := old.take dst ++ out ++ old.drop (dst + n)
      let nans := if u.losesNan then
          ((src.mapIdx fun k e => b2n ((t.val e).isNan && laneActive (x.preg (fPG f)) u.width (dst + k))).sum) else 0
      let x' := (x.setV (fRD f) (x.blendV f u.width (packLanes u.width new)))
      legal s (zeros f [vfVB, vfVC, vfIMM, vfFN, vfZ] && decide (vRND f < 2) && (decide (vSAT f = 0) || decide (u = .e5m2)) &&
          decide (vPART f < vcvtParts t.width u.width))
        (.done (s.setCore c { x' with stat := { x'.stat with nanSrc := x'.stat.nanSrc + nans } }))
    | _, _ => .exc s causeIllegal 0

/-! Quantisation (R112, R135) -/

def emaxOf (t : EType) : Int := if t = .e4m3 then 8 else if t = .e5m2 then 15 else 2

/-- Largest unbiased exponent over the non-zero elements, none when every element is zero. -/
def maxExp (l : List Fv) : Option Int :=
  l.foldl (fun a v => if v.isZero then a else
    match a with
    | none => some (unbiased v)
    | some e => some (max e (unbiased v))) none

/-- R112: the scale of a group, and its elements quantised. -/
def quantGroup (t : EType) (sat : Bool) (l : List Fv) : Nat × List Nat :=
  if l.any (fun v => !v.isFinite) then (0xFF, l.map fun _ => 0)
  else
    let e := (maxExp l).getD (emaxOf t)
    let b := clampInt 0 254 (e - emaxOf t + 127)
    (b.toNat, l.map fun v => t.conv false sat (v.scale (127 - b)))

/-- R135, FN 1: the elements under a given scale. -/
def quantGiven (t : EType) (sat : Bool) (b : Nat) (l : List Fv) : List Nat :=
  if b = 0xFF then l.map fun _ => 0 else l.map fun v => t.conv false sat (v.scale (127 - (b : Int)))

/-- Replace bytes of a vector from byte `k`, where the predicate allows it. -/
def putBytes (v : V512) (k : Nat) (d : Bytes) (pg : Word) : V512 :=
  vofBytes ((List.range 64).map fun i =>
    if k ≤ i ∧ i < k + d.length ∧ bit pg i then d.getD (i - k) 0 else BitVec.ofNat 8 (lane 8 v i))

/-- Bytes of a list of elements of 4 or 8 bits. -/
def elemBytes (w : Nat) (l : List Nat) : Bytes :=
  if w = 8 then l.map (BitVec.ofNat 8)
  else (List.range (l.length / 2)).map fun i => BitVec.ofNat 8 (l.getD (2 * i) 0 + 16 * l.getD (2 * i + 1) 0)

def execVquant (c : Nat) (f : BitVec 56) (s : State) : Host.Outcome State Fault Refusal :=
  runCore c s fun s x =>
    match etypeOf (vET2 f) with
    | none => .exc s causeIllegal 0
    | some t =>
      let fn := vFN f
      let four := decide (t = .e2m1)
      let src := lanes 32 (x.vreg (fRA f)) ++ (if four then lanes 32 (x.vreg (fRB f)) else [])
      let grp := src.map f32
      let sat := decide (vSAT f = 1)
      let given := lane 8 (x.vreg (fRC f)) (vIMM f)
      let (b, q) := if fn = 0 then quantGroup t sat grp else (given, quantGiven t sat given grp)
      let data := elemBytes t.width q
      let x1 := x.setV (fRD f) (putBytes (x.vreg (fRD f)) (16 * vPART f) data (x.preg (fPG f)))
      let x2 := if fn = 0 then x1.setV (fRC f) (putBytes (x1.vreg (fRC f)) (vIMM f) [BitVec.ofNat 8 b] (BitVec.allOnes 64)) else x1
      let nans := if four && !(decide (fn = 0) && grp.any (fun v => !v.isFinite)) then
          ((grp.mapIdx fun k v => b2n (v.isNan && bit (x.preg (fPG f)) (16 * vPART f + k / 2))).sum) else 0
      legal s (decide (vET f = 8) && (decide (t = .e4m3) || decide (t = .e5m2) || four) && zeros f [vfRND, vfZ] &&
          (four || decide (fRB f = 0)) && (decide (vSAT f = 0) || decide (t = .e5m2)) && decide (vPART f < 4) && decide (fn < 2))
        (.done (s.setCore c { x2 with stat := { x2.stat with nanSrc := x2.stat.nanSrc + nans } }))

/-! Plane split (R96, R136) -/

/-- R96: the planes and the scale byte of a group of BF16 values, E given or none for a group with an infinity or a NaN. -/
def planeSplit (l : List Fv) (e : Option Int) : List Nat × List Nat × Nat :=
  match e with
  | none => (l.map fun _ => 0, l.map fun _ => 0, 0xFF)
  | some e =>
    let e := max e (-113)
    let m := l.map fun v => toInt false (-(2 ^ 300)) (2 ^ 300) (v.scale (14 - e))
    (m.map fun i => toTwos 8 (i / 256), m.map fun i => toTwos 8 i, (e + 113).toNat)

/-- R96, R136: which of the 33 bytes of a split the rules give: both planes of an element whose integer 16 bits hold, and a scale of at most
0xFE. An E of vb below the group's own exponent, or too large, leaves the others open (log entry 112). -/
def planeKnown (l : List Fv) (e : Option Int) : List Bool :=
  match e with
  | none => List.replicate 33 true
  | some e =>
    let e := max e (-113)
    let k := l.map fun v =>
      let i := toInt false (-(2 ^ 300)) (2 ^ 300) (v.scale (14 - e))
      decide (-32768 ≤ i) && decide (i ≤ 32767)
    k ++ k ++ [decide (e ≤ 141)]

/-- The 33 bytes of a split. -/
def splitBytes (l : List Fv) (e : Option Int) : Bytes :=
  let (h, lo, sc) := planeSplit l e
  (h ++ lo ++ [sc]).map (BitVec.ofNat 8)

/-- The bytes of a split with a given E, free where the rules give none. -/
def State.planeBytes (s : State) (l : List Fv) (e : Option Int) : State × Bytes :=
  let b := splitBytes l e
  let k := planeKnown l e
  if k.all id then (s, b)
  else
    let (f, s) := s.freeBytes 33
    (s, b.mapIdx fun i x => if k.getD i true then x else f.getD i 0)

/-- R96: E of a group, none when it holds an infinity or a NaN; −113 when every element is zero. -/
def groupExp (l : List Fv) : Option Int :=
  if l.any (fun v => !v.isFinite) then none else some ((maxExp l).getD (-113))

def execVplane (c : Nat) (f : BitVec 56) (s : State) : Host.Outcome State Fault Refusal :=
  runCore c s fun s x =>
    match etypeOf (vET f) with
    | none => .exc s causeIllegal 0
    | some t =>
      let fn := vFN f
      let va := x.vreg (fRA f)
      let vb0 := lane 32 (x.vreg (fRB f)) 0
      let act := (List.range (512 / t.width)).filterMap fun k =>
        if laneActive (x.preg (fPG f)) t.width k then some (t.val (lane t.width va k)) else none
      let emax :=
        if act.any (fun v => !v.isFinite) || decide (vb0 = 0x7FFFFFFF) then 0x7FFFFFFF
        else match maxExp act with
          | none => vb0
          | some e => toTwos 32 (max (sext 32 vb0) e)
      let grp := (List.range 16).map fun k => EType.bf16.val (lane 16 va (16 * (vPART f % 2) + k))
      let (t', out) := if fn = 1 then (s, splitBytes grp (groupExp grp))
        else s.planeBytes grp (if vb0 = 0x7FFFFFFF ∨ grp.any (fun v => !v.isFinite) then none else some (sext 32 vb0))
      if fn = 0 then
        legal s ((decide (t = .bf16) || decide (t = .fp32)) && zeros f [vfVC, vfET2, vfRND, vfPART, vfSAT, vfIMM, vfZ])
          (doneV s c (fRD f) (BitVec.ofNat 512 emax))
      else
        legal s (decide (t = .bf16) && decide (fn < 3) && zeros f [vfPG, vfVC, vfET2, vfRND, vfSAT, vfIMM, vfZ] &&
            (decide (fn = 2) || decide (fRB f = 0)) && decide (vPART f < 2))
          (doneV t' c (fRD f) (vofBytes out))

end Sys2Proof.Machine
end

