-- ==== Sys2Proof/Machine/Dma.lean ====
section
/-! DEFINITION. DMA engines and the check-value unit (R343 to R363), with the pennant operations (R306 to R311). -/

namespace Sys2Proof.Machine

/-! Descriptors (R348, R349) -/

structure Desc where
  op : Nat
  flags : Nat
  crc : Nat
  keysel : Nat
  len : Nat
  src : Nat
  dst : Nat
  srcLim : Nat
  dstLim : Nat
  p0 : Nat
  p1 : Nat
  aux : Nat
  deriving DecidableEq, Repr, Inhabited

def descOf (b : Bytes) : Desc :=
  { op := leAt b 0 1, flags := leAt b 1 1, crc := leAt b 2 1, keysel := leAt b 3 1, len := leAt b 4 4, src := leAt b 8 8,
    dst := leAt b 0x10 8, srcLim := leAt b 0x18 4, dstLim := leAt b 0x1C 4, p0 := leAt b 0x20 8, p1 := leAt b 0x28 8, aux := leAt b 0x30 8 }

def Desc.feed (d : Desc) : Bool := d.flags.testBit 0
def Desc.init (d : Desc) : Bool := d.flags.testBit 1
def Desc.final (d : Desc) : Bool := d.flags.testBit 2
def Desc.serial (d : Desc) : Bool := d.flags.testBit 3
def Desc.bands (d : Desc) : Nat := d.p0 % 256
/-- Bytes of a sample. -/
def Desc.sample (d : Desc) : Nat := if d.p0.testBit 8 then 2 else 1
def Desc.group (d : Desc) : Nat := if d.p0.testBit 0 then 256 else 16
def Desc.planeOff (d : Desc) : Nat := d.p0 / 2 ^ 32
def Desc.auxLim (d : Desc) : Nat := d.p1 % 2 ^ 32
/-- Scale bytes of a plane operation. -/
def Desc.scales (d : Desc) : Nat := d.len / (2 * d.group)
def Desc.aadLen (d : Desc) : Nat := d.p1 / 2 ^ 40 % 128
/-- The 12 bytes of the IV (R357). -/
def Desc.iv (d : Desc) : Bytes := leBytes 8 d.p0 ++ leBytes 4 d.p1
def Desc.reshuffle (d : Desc) : Bool := decide (4 ≤ d.op) && decide (d.op ≤ 7)
def Desc.pennant (d : Desc) : Bool := decide (0x18 ≤ d.op)
/-- Operations that a cleared ENABLE ends early (R354). -/
def Desc.abortable (d : Desc) : Bool := decide (d.op < 0x10)

/-- R349, check 1: the opcode is listed, its engine runs it, and its owner may ask for it. -/
def Desc.opOk (d : Desc) (hub : Bool) (x : Chan) : Bool :=
  [1, 2, 3, 4, 5, 6, 7, 0x10, 0x11, 0x18, 0x19, 0x1A, 0x1B].contains d.op &&
    (hub || ((decide (d.op = 1) || decide (d.op = 2)) && !d.feed)) && !(x.host && decide (0x10 ≤ d.op))

/-- Fields that an operation does not use are zero (R348). -/
def Desc.unusedZero (d : Desc) : Bool :=
  let z := fun l : List Nat => l.all (fun x => decide (x = 0))
  let aux := if d.final then 0 else d.aux
  match d.op with
  | 1 => z [d.keysel, d.p0, d.p1, aux]
  | 2 => z [d.keysel, d.src, d.srcLim, d.p1, d.aux]
  | 3 => z [d.keysel, d.dst, d.dstLim, d.p0, d.p1, aux]
  | 4 | 5 => z [d.keysel, d.p0 / 2 ^ 9, d.p1, d.aux]
  | 6 | 7 => z [d.keysel, d.p0 / 2 % 2 ^ 31, d.p1 / 2 ^ 32]
  | 0x10 | 0x11 => z [d.keysel / 4, d.p1 / 2 ^ 32 % 2 ^ 8, d.p1 / 2 ^ 47]
  | 0x18 => z [d.keysel, d.src, d.srcLim, d.p1, d.aux]
  | 0x1B => z [d.keysel, d.src, d.srcLim, d.dst, d.dstLim, d.p1, d.aux]
  | _ => z [d.keysel, d.src, d.p1, d.aux]

/-- R350, check 2, with R355, R356, R357, R358, R362, R363: `priv` is a privileged channel, `payload` the payload channel of a job. -/
def Desc.paramOk (d : Desc) (priv payload mode1 : Bool) : Bool :=
  decide (d.flags < 16) && d.unusedZero &&
    (d.feed || (!d.init && !d.final && decide (d.crc = 0))) &&
    (!d.feed || decide (d.crc < 4) || (priv && mode1 && decide (d.crc < 16))) &&
    (!d.final || decide (d.op = 1) || decide (d.op = 3)) && (!d.serial || (decide (d.op = 0x11) && payload)) &&
    (match d.op with
     | 3 => d.feed
     | 4 | 5 => decide (2 ≤ d.bands) && decide (d.bands ≤ 16) && decide (d.src % d.sample = 0) && decide (d.dst % d.sample = 0) &&
         decide (d.len % (d.bands * d.sample) = 0)
     | 6 => decide (d.len % (2 * d.group) = 0) && decide (d.src % 2 = 0) && decide (d.len / 2 ≤ d.planeOff)
     | 7 => decide (d.len % (2 * d.group) = 0) && decide (d.dst % 2 = 0) && decide (d.len / 2 ≤ d.planeOff)
     | 0x10 => decide (d.src % 16 = 0) && decide (d.dst % 16 = 0) && decide (d.aadLen ≤ 64) && decide (d.p1 % 2 ^ 32 ≠ 0)
     | 0x11 => decide (d.src % 16 = 0) && decide (d.dst % 16 = 0) && decide (d.aadLen ≤ 64)
     | 0x18 | 0x1A => decide (d.p0 % 32 = 0) && decide (d.dst % 64 = 0) && decide (d.len = 0)
     | 0x19 | 0x1B => decide (d.p0 % 32 = 0) && decide (d.len = 0)
     | _ => true)

/-- Bytes read from SRC_DA, written at DST_DA and touched at AUX_DA, against their bounds (R350, check 4). -/
def Desc.boundOk (d : Desc) : Bool :=
  let n := d.len
  match d.op with
  | 1 | 4 | 5 => decide (n ≤ d.srcLim) && decide (n ≤ d.dstLim)
  | 2 => decide (n ≤ d.dstLim)
  | 3 => decide (n ≤ d.srcLim)
  | 6 => decide (n ≤ d.srcLim) && decide (d.planeOff + n / 2 ≤ d.dstLim) && decide (d.scales ≤ d.auxLim)
  | 7 => decide (d.planeOff + n / 2 ≤ d.srcLim) && decide (n ≤ d.dstLim) && decide (d.scales ≤ d.auxLim)
  | 0x10 => decide (n ≤ d.srcLim) && decide (n + 16 ≤ d.dstLim)
  | 0x11 => decide (n + 16 ≤ d.srcLim) && decide (n ≤ d.dstLim)
  | _ => true

/-- What an operation reads, in order: from SRC_DA and then from AUX_DA. -/
def Desc.reads (d : Desc) : List (Nat × Nat) :=
  match d.op with
  | 1 | 3 | 4 | 5 | 6 => [(d.src, d.len)]
  | 7 => [(d.src, d.len / 2), (d.src + d.planeOff, d.len / 2), (d.aux, d.scales)]
  | 0x10 => [(d.src, d.len), (d.aux, d.aadLen)]
  | 0x11 => [(d.src, d.len + 16), (d.aux, d.aadLen)]
  | _ => []

/-- Bytes of those that come from SRC_DA: the ones that feed a check value. -/
def Desc.fed (d : Desc) : Nat :=
  match d.op with
  | 1 | 3 | 4 | 5 | 6 | 7 | 0x10 => d.len
  | 0x11 => d.len + 16
  | _ => 0

/-- Where an operation writes what it makes of its source. -/
def Desc.outs (d : Desc) : List (Nat × Nat) :=
  match d.op with
  | 1 | 2 | 4 | 5 | 7 | 0x11 => [(d.dst, d.len)]
  | 6 => [(d.dst, d.len / 2), (d.dst + d.planeOff, d.len / 2), (d.aux, d.scales)]
  | 0x10 => [(d.dst, d.len + 16)]
  | _ => []

/-- Where an operation writes: also the result of CRC_FINAL. -/
def Desc.dests (d : Desc) : List (Nat × Nat) := d.outs ++ (if d.final then [(d.aux, 8)] else [])

/-! Channels -/

def State.chan (s : State) (k : Nat) : Chan := tget s.dma.ch k
def State.setChan (s : State) (k : Nat) (x : Chan) : State := { s with dma := { s.dma with ch := tput s.dma.ch k x } }
def State.setRun (s : State) (k : Nat) (r : Option DRun) : State := s.setChan k { s.chan k with run := r }

/-! Reach (R344, R410) -/

/-- Cut a range where the unit behind it can change. -/
def pieces (da : Nat) : Nat → Nat → List (Nat × Nat)
  | 0, _ => []
  | n + 1, len => if len = 0 then [] else
    let k := min len (2 ^ 20 - da % 2 ^ 20)
    (da, k) :: pieces (da + k) n (len - k)
def piecesOf (r : Nat × Nat) : List (Nat × Nat) := pieces r.1 (r.2 / 2 ^ 20 + 2) r.2

/-- R350, checks 5 and 6, at one address: the code of a refusal. -/
def State.reachCode (s : State) (who : Who) (write : Bool) (da : Nat) : Option Nat :=
  match s.decodeDA da with
  | none => some 4
  | some (.slice c off) =>
    match s.phys c with
    | none => some 4
    | some p => if s.refused who c p off write then some 5 else none
  | some (.scratch c _) => if s.reachesScratch who c then none else some 5
  | some (.host _) => none
  | some (.remote m _) =>
    match who with
    | .host => some 5
    | _ => if s.portsTo m = [] then some 4 else none
  | some (.control _) => if who = .firmware then none else some 4

/-- The first refusal among ranges: ADDR_RANGE anywhere comes before REGION. -/
def State.reachAll (s : State) (who : Who) (rd wr : List (Nat × Nat)) : Option (Nat × Nat) :=
  let all := (rd.flatMap piecesOf).map (fun e => (e.1, s.reachCode who false e.1)) ++
    (wr.flatMap piecesOf).map (fun e => (e.1, s.reachCode who true e.1))
  let first := fun code => (all.find? fun e => e.2 = some code).map fun e => (code, e.1)
  match first 4 with
  | some r => some r
  | none => first 5

def chanHub (k : Nat) : Bool := decide (k < 256)
def Chan.who (x : Chan) (k : Nat) : Who := if chanPriv k then .firmware else if x.host then .host else .ctx x.ctx

/-- R354: the live job whose DMA channel this is. -/
def State.chanJob (s : State) (k : Nat) : Nat :=
  let x := tget s.dma.ch k
  match s.jobs.find? (fun e => decide (e.2.state ≠ 0) && ((decide (k ≠ 0) && decide (e.2.payCh = k)) ||
      (x.hasBell k && decide (x.bell / 2 ^ 40 = 0) && e.2.rc.cores.any fun c => decide (c.lcore = x.bell / 2 ^ 28)))) with
  | some e => e.1
  | none => 0

def State.dmaBy (s : State) (k : Nat) (x : Chan) : By :=
  ⟨.dma, 2, s.chanJob k, if chanPriv k || x.host then none else some x.ctx, 20, false⟩

/-! Reading -/

/-- R208, R54: the status code of an error cause. -/
def dmaCode (cause : Nat) : Nat := if cause = causeResidue then 7 else 6

/-- R351, R210: an uncorrectable word of scratch is a job fault, of the core's job and of the requester's (log entry 72). -/
def State.reportScratch (s : State) (c w : Nat) (b : By) : State :=
  let j := (s.core c).job
  let r : Report :=
    { col := c / 256 + 1, cls := 0x02, source := srcOf 0 c, job := j, reporter := b.reporter, stage := (s.core c).stage,
      cause := causeScratch, detail := w }
  let s := s.report r
  if j ≠ 0 ∧ b.job ≠ 0 ∧ b.job ≠ j then s.report { r with job := b.job } else s

/-- The register accesses of a range of control space: aligned 8-byte ones, then aligned 4-byte ones, and what is left (log entry 80). -/
def ctlParts (off len : Nat) : List (Nat × Nat) :=
  (cuts 8 off len).flatMap fun e => if e.2 = 8 then [e] else cuts 4 e.1 e.2

/-- R20, R45: one register read of a privileged channel: a part that is no aligned 4 or 8 bytes sets WIDTH and reads zero. -/
def State.ctlRead (s : State) (e : Nat × Nat) : State × Bytes :=
  if e.2 = 8 ∨ e.2 = 4 then let (s, w) := s.loadReg e.1 e.2 true; (s, leBytes e.2 w.toNat)
  else (s.accessFault 0 0 e.1, List.replicate e.2 0)

/-- One register write of a privileged channel: a part that is no aligned 4 or 8 bytes sets WIDTH and is discarded. -/
def State.ctlWrite (s : State) (off : Nat) (d : Bytes) : State :=
  if d.length = 8 ∨ d.length = 4 then s.storeReg off d.length (leAt d 0 d.length) true else s.accessFault 0 0 off

/-- Read a piece inside the module. -/
def State.dmaRead (s : State) (b : By) (da len : Nat) : State × Except (Nat × Nat) Bytes :=
  match s.decodeDA da with
  | some (.slice c off) =>
    match s.phys c with
    | none => (s, .error (4, da))
    | some p =>
      match s.readSlice p off len b with
      | (s, .ok d) => (s, .ok d)
      | (s, .error (cause, w)) => (s, .error (dmaCode cause, c * 2 ^ 28 + w * 32))
  | some (.scratch c off) =>
    match s.scratchFails c off len with
    | some w => ((s.scratchFix c off (w - off)).reportScratch c w b, .error (6, 2 ^ 40 + c * 2 ^ 20 + w))
    | none => (s.scratchFix c off len, .ok (s.scratchRead c off len))
  | some (.control off) =>
    let (s, d) := (ctlParts off len).foldl (fun a e => let (s, d) := a.1.ctlRead e; (s, a.2 ++ d)) (s, [])
    (s, .ok d)
  | _ => (s, .error (4, da))

/-- Reads of a descriptor on their way: bytes so far, bytes of host memory not used yet, outstanding remote reads, first error. -/
structure Gather where
  s : State
  inp : Bytes
  ext : HostReply
  reads : Nat
  err : Option (Nat × Nat)

/-- Remote reads of one range, one for each 128-byte line (R394; log entry 32). -/
def remotePieces (da : Nat) : Nat → Nat → List (Nat × Nat)
  | 0, _ => []
  | n + 1, len => if len = 0 then [] else
    let k := min len (128 - da % 128)
    (da, k) :: remotePieces (da + k) n (len - k)
def remotePiecesOf (da len : Nat) : List (Nat × Nat) := remotePieces da (len / 128 + 2) len

/-- The site of a channel's engine (R28): a die, or 5 for HUB. -/
def chanSite (k : Nat) : Nat := if chanHub k then 5 else (k - 256) / 64

/-- R401: a range of which the engine of channel `k` is cut off by a pair that is lost: its requests are never served. -/
def State.cutRange (s : State) (k : Nat) (r : Nat × Nat) : Bool :=
  (piecesOf r).any fun e =>
    match s.decodeDA e.1 with
    | some (.slice c _) | some (.scratch c _) => !s.bothWays (chanSite k) (c / 256)
    | some (.host _) | some (.remote _ _) => !s.bothWays (chanSite k) 5
    | _ => false

/-- Read one piece of a descriptor's source. -/
def gatherPiece (k : Nat) (b : By) (g : Gather) (r : Nat × Nat) : Gather :=
  let (da, len) := r
  if g.err.isSome then g
  else if g.s.cutRange k r then { g with inp := g.inp ++ List.replicate len 0, reads := g.reads + 1 }
  else if da / 2 ^ 40 = 2 then
    if !g.s.hostOk (da % 2 ^ 40) len then { g with err := some (8, da) }
    else
      let s := g.s.hostReads (da % 2 ^ 40) len
      if g.ext.has len then { g with s := s, inp := g.inp ++ g.ext.bytes.take len, ext := g.ext.skip len }
      else { g with s := s, inp := g.inp ++ g.ext.bytes, err := some (g.ext.code, da + g.ext.bytes.length) }
  else if da / 2 ^ 40 = 3 ∧ g.s.portsTo (da / 2 ^ 32 % 256) = [] then { g with err := some (4, da) }
  else if da / 2 ^ 40 = 3 then
    (remotePiecesOf da len).foldl (fun g e =>
      { g with s := (g.s.remoteReq (.dma k g.inp.length) false e.1 e.2 []).1, inp := g.inp ++ List.replicate e.2 0, reads := g.reads + 1 }) g
  else
    match g.s.reachCode ((g.s.chan k).who k) false da with
    | some code => { g with err := some (code, da) }
    | none =>
      match g.s.dmaRead b da len with
      | (s, .ok d) => { g with s := s, inp := g.inp ++ d }
      | (s, .error e) => { g with s := s, err := some e }

def State.gather (s : State) (k : Nat) (b : By) (d : HostReply) (l : List (Nat × Nat)) : Gather :=
  (l.flatMap piecesOf).foldl (gatherPiece k b) ⟨s, [], d, 0, none⟩

/-! The transforms (R349, R355 to R357) -/

/-- The 8-byte pattern of FILL, repeated. -/
def fillBytes (pat n : Nat) : Bytes :=
  let p := leBytes 8 pat
  (List.range n).map fun i => p.getD (i % 8) 0

/-- R355: bytes of `S`-byte samples, the sample of pixel `p` and band `b` taken from sample index `at' p b`. -/
def takeSamples (inp : Bytes) (sz : Nat) (l : List Nat) : Bytes := l.flatMap fun i => (inp.drop (i * sz)).take sz

def bandToPlanar (inp : Bytes) (bands sz : Nat) : Bytes :=
  let px := inp.length / (bands * sz)
  takeSamples inp sz ((List.range bands).flatMap fun b => (List.range px).map fun p => p * bands + b)

def planarToBand (inp : Bytes) (bands sz : Nat) : Bytes :=
  let px := inp.length / (bands * sz)
  takeSamples inp sz ((List.range px).flatMap fun p => (List.range bands).map fun b => b * px + p)

/-- BF16 elements of a byte string. -/
def bf16s (inp : Bytes) : List Fv := (List.range (inp.length / 2)).map fun i => fmtBF16.decode (leAt inp (2 * i) 2)

/-- R356, R96: the planes and the scale byte of each group. -/
def splitGroups (g : Nat) (inp : Bytes) : List (List Nat × List Nat × Nat) :=
  (List.range (inp.length / (2 * g))).map fun j =>
    let l := bf16s ((inp.drop (2 * g * j)).take (2 * g))
    planeSplit l (groupExp l)

def toByteList (l : List Nat) : Bytes := l.map (BitVec.ofNat 8)

/-- R356: one element of PLANE_MERGE (log entry 33). -/
def mergeElem (h l scale : Nat) : Nat :=
  if scale = 0xFF then 0x7FC0
  else fmtBF16.encode false false ((fvOfInt (256 * sext 8 h + (l : Int))).scale ((scale : Int) - 127 - 14))

def planeMerge (g : Nat) (h l sc : Bytes) : Bytes :=
  (List.range h.length).flatMap fun i => leBytes 2 (mergeElem (h.getD i 0).toNat (l.getD i 0).toNat (sc.getD (i / g) 0).toNat)

/-! Pennant descriptors and images (R287, R307 to R311) -/

def pdSize (pd : Bytes) : Nat := leAt pd 0 8 / 2 ^ 48 % 2 ^ 10
def pdAddr (pd : Bytes) : Nat := leAt pd 0 6
def pdTfill (pd : Bytes) : Nat := leAt pd 8 8 / 2 ^ 48 % 2 ^ 9
def pdFill (pd : Bytes) : Nat := leAt pd 8 8 / 2 ^ 32 % 2 ^ 9
def pdSeal (pd : Bytes) : Nat := leAt pd 0x14 4
def pdGen (pd : Bytes) : Nat := leAt pd 0x10 4 / 2 ^ 30
def pdBusy (pd : Bytes) : Bool := (leAt pd 0x10 4).testBit 28
def pdSwapped (pd : Bytes) : Bool := (leAt pd 0x10 4).testBit 25
def pdValid (pd : Bytes) : Bool := (leAt pd 0x10 4).testBit 24
def pdPos (pd : Bytes) : Nat := leAt pd 0x10 4 % 2 ^ 21

def imageLen (size : Nat) : Nat := 64 + size * 4096 + 64

/-- The header of an image (R307). -/
def imageHeader (ctx gen sq da : Nat) (pd : Bytes) : Bytes :=
  leBytes 4 0x4B565031 ++ leBytes 2 1 ++ leBytes 1 ctx ++ leBytes 1 gen ++ leBytes 4 sq ++ leBytes 2 (pdSize pd) ++
    leBytes 2 (pdFill pd) ++ leBytes 4 (pdPos pd) ++ leBytes 4 0 ++ leBytes 8 da ++ List.replicate 32 0

/-- The IV of an image (R308). -/
def imageIv (sq : Nat) : Bytes := leBytes 4 sq ++ List.replicate 8 0

/-- A whole image. -/
def sealImage (key : Bytes) (ctx gen sq da : Nat) (pd body : Bytes) : Bytes :=
  let h := imageHeader ctx gen sq da pd
  h ++ gcmSeal key (imageIv sq) h body ++ List.replicate 48 0

/-- R309: the body of an image that matches its descriptor; none when a header field differs or the tag fails. -/
def openImage (key : Bytes) (ctx da : Nat) (pd img : Bytes) : Option Bytes :=
  let h := img.take 64
  let same := fun o n v => decide (leAt h o n = v)
  if same 0 4 0x4B565031 && same 4 2 1 && same 6 1 ctx && decide (leAt h 7 1 % 4 = pdGen pd) && same 8 4 (pdSeal pd) &&
      same 0xC 2 (pdSize pd) && same 0xE 2 (pdFill pd) && same 0x10 4 (pdPos pd) && same 0x18 8 da then
    gcmOpen key (imageIv (pdSeal pd)) h ((img.drop 64).take (pdSize pd * 4096 + 16))
  else none

/-- Words 0 and 2 of a descriptor after an operation, as the 32 bytes of its masked write. -/
def pdWrite (pd : Bytes) (addr gen sq : Nat) (swapped valid : Bool) : Bytes :=
  let w2 := leAt pd 0x10 4 % 2 ^ 30 - b2n (pdBusy pd) * 2 ^ 28 - b2n (pdSwapped pd) * 2 ^ 25 - b2n (pdValid pd) * 2 ^ 24
  leBytes 6 addr ++ (pd.drop 6).take 2 ++ List.replicate 8 0 ++
    leBytes 4 (w2 + b2n swapped * 2 ^ 25 + b2n valid * 2 ^ 24 + gen * 2 ^ 30) ++ leBytes 4 sq ++ List.replicate 8 0

/-- Bytes 0 to 7 and 16 to 23. -/
def pdMask : Nat := 0x00FF00FF

/-- The KV key of a live generation. -/
def Ctx.kvKeyOf (x : Ctx) (g : Nat) : Option Bytes :=
  if !x.defined then none else if g = x.kvGen then some x.kvKey else if g = (x.kvGen + 3) % 4 then x.kvPrev else none

/-- R311: one image less in a generation; a previous one without images retires. -/
def Ctx.lowerImages (x : Ctx) (g : Nat) : Ctx :=
  if g = x.kvGen then { x with curImages := x.curImages - 1 }
  else if x.prevImages ≤ 1 then { x with prevImages := 0, kvPrev := none } else { x with prevImages := x.prevImages - 1 }

/-- The payload key of a live generation (R357, R420). -/
def Ctx.payKeyOf (x : Ctx) (g : Nat) : Option Bytes :=
  if g = x.payGen ∧ x.payCur.isSome then x.payCur else if g = (x.payGen + 3) % 4 then x.payPrev else none

/-! What a descriptor writes -/

/-- R309: the masked write of a pennant descriptor at the successful end of an operation. -/
def pdUpdate (d : Desc) (r : DRun) : List DWrite :=
  let w := fun b : Bytes => ([⟨d.p0, b, some pdMask⟩] : List DWrite)
  match d.op with
  | 0x18 => w (pdWrite r.pd d.dst r.gen r.sealNo true true)
  | 0x19 => w (pdWrite r.pd d.dst 0 0 false true)
  | 0x1A => if pdGen r.pd = r.gen then w (pdWrite r.pd (pdAddr r.pd) (pdGen r.pd) (pdSeal r.pd) true true) else w (pdWrite r.pd d.dst r.gen r.sealNo true true)
  | 0x1B => w (pdWrite r.pd (pdAddr r.pd) 0 0 false false)
  | _ => []

/-- The writes of a descriptor from the bytes that it has read, and an end code other than OK. -/
def dmaWrites (d : Desc) (r : DRun) (ctx : Nat) : List DWrite × Nat :=
  let inp := r.inp
  let one := fun da x => ([⟨da, x, none⟩] : List DWrite)
  match d.op with
  | 1 => (one d.dst inp, 0)
  | 2 => (one d.dst (fillBytes d.p0 d.len), 0)
  | 4 => (one d.dst (bandToPlanar inp d.bands d.sample), 0)
  | 5 => (one d.dst (planarToBand inp d.bands d.sample), 0)
  | 6 =>
    let g := splitGroups d.group inp
    (one d.dst (toByteList (g.flatMap fun e => e.1)) ++ one (d.dst + d.planeOff) (toByteList (g.flatMap fun e => e.2.1)) ++
      one d.aux (toByteList (g.map fun e => e.2.2)), 0)
  | 7 =>
    let n := d.len / 2
    (one d.dst (planeMerge d.group (inp.take n) ((inp.drop n).take n) (inp.drop (2 * n))), 0)
  | 0x10 => (one d.dst (gcmSeal r.key d.iv (inp.drop d.len) (inp.take d.len)), 0)
  | 0x11 =>
    match gcmOpen r.key d.iv (inp.drop (d.len + 16)) (inp.take (d.len + 16)) with
    | some pt => (one d.dst pt, 0)
    | none => (one d.dst (List.replicate d.len 0), 0xB)
  | 0x18 => (one d.dst (sealImage r.key ctx r.gen r.sealNo d.p0 r.pd inp), 0)
  | 0x19 =>
    match openImage r.key2 ctx d.p0 r.pd inp with
    | some b => (one d.dst b, 0)
    | none => (one d.dst (List.replicate (pdSize r.pd * 4096) 0), 0xD)
  | 0x1A =>
    if pdGen r.pd = r.gen then ([], 0)
    else
      match openImage r.key2 ctx d.p0 r.pd inp with
      | some b => (one d.dst (sealImage r.key ctx r.gen r.sealNo d.p0 r.pd b), 0)
      | none => ([], 0xD)
  | _ => ([], 0)

/-- The enabled bytes as runs: index of the first, bytes. -/
def maskRuns (en : Nat → Bool) : Nat → Bytes → List (Nat × Bytes)
  | _, [] => []
  | i, b :: t =>
    let l := maskRuns en (i + 1) t
    if !en i then l
    else
      match l with
      | (o, x) :: rest => if o = i + 1 then (i, b :: x) :: rest else (i, [b]) :: (o, x) :: rest
      | [] => [(i, [b])]

/-- A scratch write that is refused at the word at `w` (R54): the bytes before stand, and each whole word behind may have been
written or not (R351). -/
def State.scratchPart (s : State) (c off : Nat) (data : Bytes) (en : Nat → Bool) (w : Nat) : State :=
  let s := s.scratchWrite c off data (fun i => en i && decide (off + i < w))
  let (v, s) := s.free
  s.scratchWrite c off data fun i =>
    en i && decide (w + 8 ≤ off + i) && decide ((off + i) / 8 * 8 + 8 ≤ off + data.length) && v.testBit ((off + i) / 8 - off / 8)

/-- Write a run of bytes to another module: one request for each 128-byte line, its tag kept by the descriptor. -/
def State.remoteRun (s : State) (k da : Nat) (data : Bytes) : State :=
  (remotePiecesOf da data.length).foldl (fun s e =>
    let (s, t) := s.remoteReq (.dma k 0) true e.1 e.2 ((data.drop (e.1 - da)).take e.2)
    match (s.chan k).run with
    | some r => s.setRun k (some { r with tags := r.tags ++ [2 * t + 1] })
    | none => s) s

/-- Write the enabled bytes of a piece: the code and the address of a failure. Ownership and test mode are checked again as the write
goes out (R215, R410). -/
def State.dmaWrite (s : State) (k : Nat) (b : By) (da : Nat) (data : Bytes) (en : Nat → Bool) : State × Option (Nat × Nat) :=
  match s.reachCode ((s.chan k).who k) true da with
  | some code => (s, some (code, da))
  | none =>
  match s.decodeDA da with
  | some (.slice c off) =>
    match s.phys c with
    | some p => (s.writeNow p off data en false b, none)
    | none => (s, some (4, da))
  | some (.scratch c off) =>
    match s.scratchRefuses c off en data.length with
    | some w => ((s.scratchPart c off data en w).reportScratch c w b, some (6, 2 ^ 40 + c * 2 ^ 20 + w))
    | none => (s.scratchWrite c off data en, none)
  | some (.host a) =>
    if s.hostOk a data.length then ((maskRuns en 0 data).foldl (fun s r => s.hostWrite (a + r.1) r.2) s, none) else (s, some (8, da))
  | some (.remote _ _) =>
    if s.portsTo (da / 2 ^ 32 % 256) = [] then (s, some (4, da))
    else ((maskRuns en 0 data).foldl (fun s r => s.remoteRun k (da + r.1) r.2) s, none)
  | some (.control off) =>
    ((ctlParts off data.length).foldl (fun s e => if en (e.1 - off) then s.ctlWrite e.1 ((data.drop (e.1 - off)).take e.2) else s) s, none)
  | none => (s, some (4, da))

/-- R351: behind a failing access each byte may have been written or not. -/
def State.maybeWrites (s : State) (k : Nat) (b : By) (l : List (Nat × Bytes × Option Nat)) : State :=
  l.foldl (fun s w =>
    let (v, s) := s.free
    (s.dmaWrite k b w.1 w.2.1 fun i => v.testBit i).1) s

/-- Make the writes in order until one fails. -/
def State.dmaWriteAll (s : State) (k : Nat) (b : By) : List (Nat × Bytes × Option Nat) → State × Option (Nat × Nat)
  | [] => (s, none)
  | (da, data, m) :: t =>
    match s.dmaWrite k b da data (fun i => match m with | some m => m.testBit i | none => true) with
    | (s, none) => s.dmaWriteAll k b t
    | (s, some e) => (s.maybeWrites k b t, some e)

/-- The pieces of a write. -/
def DWrite.pieces (w : DWrite) : List (Nat × Bytes × Option Nat) :=
  (piecesOf (w.da, w.data.length)).map fun e => (e.1, (w.data.drop (e.1 - w.da)).take e.2, w.mask)

/-- R352: read back the last address written outside the module. -/
def State.readBackLast (s : State) (k : Nat) (l : List DWrite) : State :=
  match (l.filter fun w => decide (w.data ≠ []) && ((decide (w.da / 2 ^ 40 = 2) && s.hostOk ((w.da + w.data.length - 1) % 2 ^ 40) 1) || decide (w.da / 2 ^ 40 = 3))).getLast? with
  | none => s
  | some w =>
    let a := w.da + w.data.length - 1
    if a / 2 ^ 40 = 3 ∧ s.portsTo (a / 2 ^ 32 % 256) = [] then
      match (s.chan k).run with
      | some r => s.setRun k (some (if r.code = 0 then { r with code := 4, detail := a } else r))
      | none => s
    else
    let (t, s) := if a / 2 ^ 40 = 2 then
        (let (t, s) := s.hostRead (a % 2 ^ 40) 1; (2 * t, s))
      else (let (s, t) := s.remoteReq (.dma k 0) false a 1 []; (2 * t + 1, s))
    match (s.chan k).run with
    | some r => s.setRun k (some { r with tags := r.tags ++ [t], back := a })
    | none => s

/-- Feed the check-value channel with the first `n` bytes read from the source (R349). -/
def State.feedCrc (s : State) (d : Desc) (r : DRun) (n : Nat) : State :=
  match r.crc with
  | none => s
  | some c =>
    let x := tget s.dma.crc c
    if s.crcGone c then s else
    let v := if d.init then crcInit x.alg else x.value
    { s with dma := { s.dma with crc := tput s.dma.crc c { x with value := crcFeed x.alg v ((r.inp.take d.fed).take n) } } }

/-- R309, R311, R420, R421: what an operation on keys changes once it has succeeded or failed. -/
def State.settleKeys (s : State) (k ctx : Nat) (d : Desc) (r : DRun) (code : Nat) : State × Nat :=
  let c := s.ctx ctx
  let j := s.chanJob k
  match d.op with
  | 0x18 => if code = 0 then (s, r.sealNo) else (s.setCtx ctx (c.lowerImages r.gen), 0)
  | 0x19 => if code = 0 then (s.setCtx ctx (c.lowerImages (pdGen r.pd)), 0) else (s, 0)
  | 0x1A =>
    if pdGen r.pd = r.gen then (s, 0)
    else if code = 0 then (s.setCtx ctx (c.lowerImages (pdGen r.pd)), r.sealNo)
    else (s.setCtx ctx (c.lowerImages r.gen), 0)
  | 0x1B => if code = 0 then (s.setCtx ctx (c.lowerImages (pdGen r.pd)), 0) else (s, 0)
  | 0x11 =>
    if code = 0 ∧ d.serial then
      let s := s.setCtx ctx { c with serial := c.serial + 1 }
      (s.setJob j { s.job j with openSerials := (s.job j).openSerials + 1 }, c.serial + 1)
    else (s, 0)
  | 0x10 =>
    if code = 0 ∧ j ≠ 0 ∧ (s.job j).payCh = k ∧ d.p0 / 2 ^ 32 = 0x40000000 ∧ d.p1 % 2 ^ 32 = 1 then
      (s.setJob j { s.job j with openSerials := (s.job j).openSerials - 1 }, 0)
    else (s, 0)
  | _ => (s, 0)

/-! Ending within the transfer (R208, R310, R351) -/

/-- What a descriptor that ends within its transfer writes, of which each byte may have been written or not: with source bytes
that have not come in free (R351); for a pennant operation the whole destination is undefined (R310). -/
def partWrites (d : Desc) (r : DRun) (ctx : Nat) (dest : Bytes) : List DWrite :=
  if d.pennant then [⟨d.dst, dest, none⟩]
  else if d.op = 0x11 then [⟨d.dst, gcmCrypt r.key d.iv (r.inp.take d.len), none⟩]
  else (dmaWrites d r ctx).1

/-- Bytes that a pennant operation writes at its destination. -/
def Desc.destLen (d : Desc) (pd : Bytes) : Nat := if d.op = 0x19 then pdSize pd * 4096 else imageLen (pdSize pd)

/-- Two ranges share a byte. -/
def overlaps (a b : Nat × Nat) : Bool := decide (a.1 < b.1 + b.2) && decide (b.1 < a.1 + a.2)

/-- Source and destination overlap, so that the destination is undefined (R355; log entry 37 for the operations that keep the
place of a byte, where the same place for both is no such case). -/
def Desc.collides (d : Desc) : Bool :=
  !d.pennant && (d.reads.any fun a => d.outs.any fun b => overlaps a b) && !((d.op = 1 || d.op = 0x10 || d.op = 0x11) && d.src = d.dst)

/-- A descriptor ends within its transfer with a code: its source as far as it has come in is fed and written in part. -/
def State.endEarly (s : State) (k : Nat) (r : DRun) (code detail : Nat) : State :=
  let x := s.chan k
  let d := descOf r.desc
  let known := if r.reads = 0 ∧ !d.collides then r.inp else []
  let (b, s) := s.freeBytes ((d.reads.map (·.2)).sum - known.length)
  let (dest, s) := s.freeBytes (if d.pennant then d.destLen r.pd else 0)
  let (n, s) := s.free
  let r' := { r with inp := known ++ b }
  let s := s.feedCrc d r' (n % (d.fed + 1))
  let ws := (partWrites d r' x.ctx dest).filter (fun w => decide (w.data ≠ []))
  let s := s.maybeWrites k (s.dmaBy k x) (ws.flatMap DWrite.pieces)
  let s := { s with lnk := { s.lnk with rem := s.lnk.rem.filter fun q => decide (q.write = true) ||
    (match q.who with | .dma j _ => decide (j ≠ k) | _ => true) } }
  let r := ((s.chan k).run).getD r
  let s := s.setRun k (some { r with moved := true, parked := false, reads := 0, code := code, detail := detail })
  s.readBackLast k ws

/-! Starting a descriptor (R345, R350) -/

/-- R362, R363: the check-value channel may be fed by this channel: 0 to 3 by those of their owner, the others by the privileged
ones, which own none of 0 to 3. -/
def State.crcOwned (s : State) (k : Nat) (x : Chan) (n : Nat) : Bool :=
  let c := tget s.dma.crc n
  if chanPriv k then decide (4 ≤ n) else !c.off && decide (c.host = x.host) && (x.host || decide (c.ctx = x.ctx))

/-- Reshuffles that hold a staging part (R359). -/
def State.staging (s : State) : Nat :=
  (s.dma.ch.filter fun e => match e.2.run with
    | some r => (descOf r.desc).reshuffle && !r.moved && !r.parked
    | none => false).length

/-- The descriptor has to wait, holding its slot (R359, R362). -/
def State.mustPark (s : State) (d : Desc) : Bool := (d.feed && s.crcBusy d.crc) || (d.reshuffle && decide (4 ≤ s.staging))

/-- Checks 1 to 8 of R350 for an operation other than those on pennants: an end code, or the key to use. -/
def State.checkPlain (s : State) (k : Nat) (x : Chan) (d : Desc) : Except (Nat × Nat) Bytes :=
  let payload := decide (k ≠ 0) && s.jobs.any fun e => decide (e.2.state ≠ 0) && decide (e.2.payCh = k)
  if !d.opOk (chanHub k) x then .error (1, 0)
  else if !d.paramOk (chanPriv k) payload (!s.dma.mode0) then .error (2, 0)
  else if d.len = 0 then .error (0, 0)
  else if !d.boundOk then .error (3, 0)
  else
    match s.reachAll (x.who k) d.reads d.dests with
    | some e => .error e
    | none =>
      if d.feed && !s.crcOwned k x d.crc then .error (5, 0)
      else if d.reshuffle && !s.dma.mode0 then .error (9, 0)
      else if d.op = 0x10 then
        let c := s.ctx x.ctx
        if d.keysel = c.payGen then
          match c.payCur with
          | some key => .ok key
          | none => .error (0xA, 0)
        else .error (0xA, 0)
      else if d.op = 0x11 then
        let c := s.ctx x.ctx
        if d.serial && (c.payPend.isSome || decide (2 ^ 32 - 1 ≤ c.serial)) then .error (0xA, 0)
        else
          match c.payKeyOf d.keysel with
          | some key => .ok key
          | none => .error (0xA, 0)
      else .ok []

/-- A body: in one bank, 4 KiB aligned (R309). -/
def bodyPlaced (da size : Nat) : Bool := decide (da % 4096 = 0) && decide (da % 2 ^ 21 + size * 4096 ≤ 2 ^ 21)

/-- The bank under a body is open. -/
def State.bodyOpen (s : State) (da : Nat) : Bool :=
  match s.decodeDA da with
  | some (.slice c off) => match s.phys c with | some p => (s.hal p).isOpen (bankOf off) | none => false
  | _ => false
def State.bankSealed (s : State) (da : Nat) : Bool :=
  match s.decodeDA da with
  | some (.slice c off) => match s.phys c with | some p => !(s.hal p).isOpen (bankOf off) | none => false
  | _ => false

/-- Checks of a pennant operation (R309, R310, R350, R358; log entry 34), on the descriptor's words: an end code, or none. `crc` says
that the channel may not feed CRC_CH (R362). -/
def State.checkPennant (s : State) (x : Chan) (d : Desc) (pd : Bytes) (crc : Bool) : Option (Nat × Nat) :=
  let z := pdSize pd
  let c := s.ctx x.ctx
  let who : Who := .ctx x.ctx
  let body := if d.op = 0x18 then pdAddr pd else d.dst
  let rd := if d.op = 0x18 then [(body, z * 4096)] else [(pdAddr pd, imageLen z)]
  let wr := if d.op = 0x19 then [(body, z * 4096)] else [(d.dst, imageLen z)]
  let state := pdValid pd && pdBusy pd && decide (pdSwapped pd = decide (d.op ≠ 0x18)) && (decide (d.op ≠ 0x18) || decide (pdFill pd = pdTfill pd))
  if d.op = 0x1B then
    if !state then some (0xC, d.p0) else if crc then some (5, 0) else if (c.kvKeyOf (pdGen pd)).isNone then some (0xA, 0) else none
  else if z = 0 then some (0, 0)
  else if (d.op ≠ 0x19 ∧ d.dstLim < imageLen z) ∨ (d.op = 0x19 ∧ d.dstLim < z * 4096) ∨ (d.op ≠ 0x18 ∧ d.srcLim < imageLen z) then some (3, 0)
  else if !state ∨ 512 < z then some (0xC, d.p0)
  else
    match s.reachAll who rd wr with
    | some e => some e
    | none =>
      if (d.op = 0x18 ∨ d.op = 0x1A) ∧ d.dst / 2 ^ 40 ≠ 2 then some (5, d.dst)
      else if d.op ≠ 0x18 ∧ pdAddr pd / 2 ^ 40 ≠ 2 then some (5, pdAddr pd)
      else if crc then some (5, 0)
      else if d.op ≠ 0x1A ∧ !bodyPlaced body z then some (0xC, d.p0)
      else if d.op ≠ 0x1A ∧ !s.bodyOpen body then some (5, body)
      else if d.op ≠ 0x18 ∧ (c.kvKeyOf (pdGen pd)).isNone then some (0xA, 0)
      else if !c.defined then some (0xA, 0)
      else if d.op ≠ 0x19 ∧ 2 ^ 32 - 1 ≤ c.sealSeq ∧ ¬(d.op = 0x1A ∧ pdGen pd = c.kvGen) then some (0xA, 0)
      else none

/-- A run that ends with a code before it moves anything. -/
def DRun.ended (r : DRun) (code detail : Nat) : DRun := { r with moved := true, code := code, detail := detail }

/-- R431: bytes that a descriptor of a context's channel has read. -/
def State.countRead (s : State) (k : Nat) (x : Chan) (n : Nat) : State :=
  if x.host || chanPriv k then s else s.setCtx x.ctx { s.ctx x.ctx with dmaBytes := (s.ctx x.ctx).dmaBytes + n }

/-- Read what a checked descriptor reads; an error ends it. -/
def State.startReads (s : State) (k : Nat) (r : DRun) (l : List (Nat × Nat)) (d : HostReply) : State :=
  let x := s.chan k
  let g := s.gather k (s.dmaBy k x) d l
  let r := { r with parked := false, begun := true, inp := g.inp, reads := g.reads }
  let s := g.s.countRead k x g.inp.length
  let s := s.setRun k (some r)
  match g.err with
  | some e => s.endEarly k r e.1 e.2
  | none => s

/-- Start a pennant operation: its descriptor's words are read and checked, and the image counts raised (R311). One that waits for
its check-value channel is checked again when that is free. -/
def State.startPennant (s : State) (k : Nat) (x : Chan) (r : DRun) (d : Desc) (h : HostReply) : State :=
  let crc := if d.feed then some d.crc else none
  let far := if d.op = 0x1B then none else (s.reachAll (.ctx x.ctx) [] [(d.dst, 1)]).filter fun e => decide (e.1 = 4)
  match s.reachAll (.ctx x.ctx) [(d.p0, 32)] [(d.p0, 32)] with
  | some e => s.setRun k (some (if e.1 = 4 then r.ended 4 e.2 else r.ended (far.getD e).1 (far.getD e).2))
  | none =>
    if !s.bankSealed d.p0 then s.setRun k (some (r.ended (far.getD (5, d.p0)).1 (far.getD (5, d.p0)).2))
    else if s.cutRange k (d.p0, 32) then s.setRun k (some { r with reads := 1 })
    else
      match s.dmaRead (s.dmaBy k x) d.p0 32 with
      | (s, .error e) => s.setRun k (some (r.ended e.1 e.2))
      | (s, .ok pd) =>
        let s := s.countRead k x 32
        match s.checkPennant x d pd (d.feed && !s.crcOwned k x d.crc) with
        | some e => s.setRun k (some (r.ended e.1 e.2))
        | none =>
          if s.mustPark d then s.setRun k (some { r with parked := true })
          else
          let c := s.ctx x.ctx
          let old := (c.kvKeyOf (pdGen pd)).getD []
          let r := { r with parked := false, begun := true, pd := pd, gen := c.kvGen, key := c.kvKey, key2 := old, crc := crc }
          let same := decide (d.op = 0x1A) && decide (pdGen pd = c.kvGen)
          if d.op = 0x1B ∨ same then s.setRun k (some r)
          else
            let raises := decide (d.op = 0x18) || decide (d.op = 0x1A)
            let s := if raises then s.setCtx x.ctx { c with curImages := c.curImages + 1, sealSeq := c.sealSeq + 1 } else s
            let r := { r with sealNo := if raises then c.sealSeq + 1 else 0 }
            s.startReads k r (if d.op = 0x18 then [(pdAddr pd, pdSize pd * 4096)] else [(pdAddr pd, imageLen (pdSize pd))]) h

/-- One more slot is taken, by a channel whose turn it was (R353). -/
def State.countStart (s : State) (k : Nat) : State :=
  { s with dma := { s.dma with started := s.dma.started + 1,
                               last := if chanPriv k then s.dma.last else tput s.dma.last (if chanHub k then 0 else (k - 256) / 16 + 1) k } }

/-- R401: a channel whose ring a lost pair cuts off holds a slot while its read waits in vain. -/
def State.slotTaken (s : State) (k : Nat) (r : DRun) : State := (s.setRun k (some r)).countStart k

/-- The descriptor itself is still to be read. -/
def DRun.unread (r : DRun) : Bool := r.desc.isEmpty

/-- R345, R350: the descriptor at the consumer index is read, checked and started. -/
def State.startDesc (s : State) (k : Nat) (h : HostReply) : State :=
  let x := s.chan k
  let da := x.base + 64 * (x.cons % 2 ^ x.log2)
  let inHost := decide (da / 2 ^ 40 = 2)
  let fails := fun s : State => s.setChan k { s.chan k with ringErr := true, stopped := true }
  if (s.reachAll (x.who k) [(da, 64)] []).isSome || (!inHost && !s.bankSealed da) || (inHost && !x.host && !chanPriv k) ||
      decide (3 ≤ da / 2 ^ 40) then fails s
  else if s.cutRange k (da, 64) then
    s.slotTaken k ({ (default : DRun) with da := da, order := s.dma.started, reads := 1 })
  else
    let g := s.gather k (s.dmaBy k x) h [(da, 64)]
    match g.err with
    | some _ => fails g.s
    | none =>
      let s := g.s
      let d := descOf g.inp
      let r : DRun := { (default : DRun) with desc := g.inp, da := da, order := s.dma.started, crc := if d.feed && chanHub k then some d.crc else none }
      let s := s.setChan k { s.chan k with ringErr := false, cons := (x.cons + 1) % 2 ^ 16 }
      let s := s.countStart k
      if d.pennant && [0x18, 0x19, 0x1A, 0x1B].contains d.op && !x.host && chanHub k then
        if d.paramOk (chanPriv k) false (!s.dma.mode0) then
          s.startPennant k x { r with crc := none } d g.ext
        else s.setRun k (some ({ r with crc := none }.ended 2 0))
      else
        match s.checkPlain k x d with
        | .error e => s.setRun k (some ({ r with crc := none }.ended e.1 e.2))
        | .ok key =>
          let r := { r with key := key }
          if s.mustPark d then s.setRun k (some { r with parked := true, crc := none })
          else s.startReads k r d.reads g.ext

/-! Slots (R353) -/

/-- Channels of the engine of channel `k`. -/
def sameEngine (k j : Nat) : Bool := if chanHub k then chanHub j else decide (256 ≤ j) && decide ((j - 256) / 16 = (k - 256) / 16)
def engineSlots (k : Nat) : Nat := if chanHub k then 16 else 4
/-- Slots in use at the engine of `k`. -/
def State.slotsUsed (s : State) (k : Nat) : Nat :=
  (s.dma.ch.filter fun e => sameEngine k e.1 && (match e.2.run with | some r => !r.preempted | none => false)).length
/-- A channel that waits for a slot. -/
def State.chanReady (s : State) (k : Nat) : Bool :=
  (s.chan k).ready
/-- Engine-wide: a pre-empted descriptor waits for a slot. -/
def State.preemptedAny (s : State) (k : Nat) : Bool :=
  s.dma.ch.any fun e => sameEngine k e.1 && (match e.2.run with | some r => r.preempted | none => false)

/-- The ordinary channel of an engine whose turn it is. -/
def State.nextTurn (s : State) (k : Nat) : Option Nat :=
  let l := (s.dma.ch.map (·.1)).filter fun j => sameEngine k j && !chanPriv j && s.chanReady j
  let last := tget s.dma.last (if chanHub k then 0 else (k - 256) / 16 + 1)
  match l.find? (fun j => last < j) with
  | some j => some j
  | none => l.head?

/-- The ordinary descriptor that has held a slot longest. -/
def State.longest (s : State) (k : Nat) : Option Nat :=
  (s.dma.ch.foldl (fun a e => match e.2.run with
    | some r => if sameEngine k e.1 && !chanPriv e.1 && !r.preempted then
        (match a with | some (j, o) => if r.order < o then some (e.1, r.order) else some (j, o) | none => some (e.1, r.order)) else a
    | none => a) (none : Option (Nat × Nat))).map (·.1)

def DRun.parkedNow (r : DRun) : Bool := r.parked && !r.preempted

/-- A free slot for channel `k`: an ordinary channel waits for its turn, a privileged one takes the slot of the longest ordinary one. -/
def State.takeSlot (s : State) (k : Nat) : Option State :=
  let free := decide (s.slotsUsed k < engineSlots k)
  if chanPriv k then
    if free then some s
    else match s.longest k with
      | some j => match (s.chan j).run with
        | some r => some (s.setRun j (some { r with preempted := true }))
        | none => none
      | none => none
  else if free && !s.preemptedAny k && decide (s.nextTurn k = some k) then some s
  else none

/-- The opcode of the next descriptor or of the parked one, where it can be told before it is read. -/
def State.peekOp (s : State) (k : Nat) (h : HostReply) : Option Nat :=
  let x := s.chan k
  match x.run with
  | some r => some (descOf r.desc).op
  | none =>
    let da := x.base + 64 * (x.cons % 2 ^ x.log2)
    if da / 2 ^ 40 = 2 then (if h.has 64 then some (leAt h.bytes 0 1) else none)
    else match s.dmaRead (s.dmaBy k x) da 1 with | (_, .ok d) => some (leAt d 0 1) | _ => none

/-- Clock of a channel's engine. -/
def State.engineRuns (s : State) (k : Nat) : Bool := if chanHub k then s.hubRuns else s.dieRuns ((k - 256) / 64)

/-- One row of R349: channel `k` starts a descriptor of this opcode, or goes on with one that waited. COPY also stands for a
descriptor whose opcode is not listed or whose ring cannot be read. -/
def runOp (op k : Nat) (h : HostReply) (s : State) : Host.Outcome State Fault Refusal :=
  let listed := [2, 3, 4, 5, 6, 7, 0x10, 0x11, 0x18, 0x19, 0x1A, 0x1B]
  let mine := match s.peekOp k h with
    | some o => if op = 1 then !listed.contains o else decide (o = op)
    | none => decide (op = 1)
  unit (decide (k < 576))
    (if !s.engineRuns k || !mine then s
     else
      match (s.chan k).run with
      | some r =>
        if r.parkedNow && !r.stop && !s.mustPark (descOf r.desc) && !s.readsFull 1 then
          let d := descOf r.desc
          if d.pennant then s.startPennant k (s.chan k) r d h
          else s.startReads k { r with crc := if d.feed then some d.crc else none } d.reads h
        else s
      | none =>
        if !s.chanReady k || s.sleeping || s.readsFull 1 then s
        else match s.takeSlot k with
          | none => s
          | some s => s.startDesc k h)

def execDmaCopy (k : Nat) (d : HostReply) (s : State) : Host.Outcome State Fault Refusal := runOp 1 k d s
def execDmaFill (k : Nat) (d : HostReply) (s : State) : Host.Outcome State Fault Refusal := runOp 2 k d s
def execDmaCheck (k : Nat) (d : HostReply) (s : State) : Host.Outcome State Fault Refusal := runOp 3 k d s
def execBandToPlanar (k : Nat) (d : HostReply) (s : State) : Host.Outcome State Fault Refusal := runOp 4 k d s
def execPlanarToBand (k : Nat) (d : HostReply) (s : State) : Host.Outcome State Fault Refusal := runOp 5 k d s
def execPlaneSplit (k : Nat) (d : HostReply) (s : State) : Host.Outcome State Fault Refusal := runOp 6 k d s
def execPlaneMerge (k : Nat) (d : HostReply) (s : State) : Host.Outcome State Fault Refusal := runOp 7 k d s
def execSealPayload (k : Nat) (d : HostReply) (s : State) : Host.Outcome State Fault Refusal := runOp 0x10 k d s
def execOpenPayload (k : Nat) (d : HostReply) (s : State) : Host.Outcome State Fault Refusal := runOp 0x11 k d s
def execPseal (k : Nat) (d : HostReply) (s : State) : Host.Outcome State Fault Refusal := runOp 0x18 k d s
def execPopen (k : Nat) (d : HostReply) (s : State) : Host.Outcome State Fault Refusal := runOp 0x19 k d s
def execPrewrap (k : Nat) (d : HostReply) (s : State) : Host.Outcome State Fault Refusal := runOp 0x1A k d s
def execPdiscard (k : Nat) (d : HostReply) (s : State) : Host.Outcome State Fault Refusal := runOp 0x1B k d s

/-! Completion (R352) -/

/-- The bytes of a descriptor move: everything is read, and the writes leave the engine. -/
def State.dmaMove (s : State) (k : Nat) (x : Chan) (r : DRun) : State :=
  let d := descOf r.desc
  let b := s.dmaBy k x
  let s := s.feedCrc d r (d.fed + 1)
  let (ws, code) := dmaWrites d r x.ctx
  let (ws, s) : List DWrite × State :=
    if d.collides then
      let (l, s) := s.freeBytes (d.outs.map (·.2)).sum
      ((d.outs.foldl (fun a e => (a.1 ++ [⟨e.1, (l.drop a.2).take e.2, none⟩], a.2 + e.2)) (([], 0) : List DWrite × Nat)).1, s)
    else if d.op = 0x1A ∧ code = 0xD then
      let (l, s) := s.freeBytes (d.destLen r.pd)
      ([⟨d.dst, l, none⟩], s)
    else (ws, s)
  let ws := match r.crc with
    | some n => if d.final then ws ++ [({ da := d.aux, data := leBytes 8 (s.crcResult n), mask := none } : DWrite)] else ws
    | none => ws
  let ws := ws.filter (fun w => decide (w.data ≠ []))
  let (s, e) := s.dmaWriteAll k b (ws.flatMap DWrite.pieces)
  let (code, detail) := match e with
    | some e => e
    | none => (code, if code = 0xD then d.p0 else 0)
  let r := ((s.chan k).run).getD r
  let s := s.setRun k (some { r with moved := true, code := code, detail := detail })
  s.readBackLast k ws

/-- Write STATUS (R348); in a ring in host memory the write is read back (R352). -/
def State.writeStatus (s : State) (k : Nat) (x : Chan) (r : DRun) : State :=
  let w := leBytes 8 (2 ^ 63 + r.code * 2 ^ 56 + r.detail % 2 ^ 48)
  let a := r.da + 0x38
  let (s, _) := s.dmaWrite k (s.dmaBy k x) a w (fun _ => true)
  if a / 2 ^ 40 = 2 ∧ s.hostOk (a % 2 ^ 40) 8 then
    let (t, s) := s.hostRead ((a + 7) % 2 ^ 40) 1
    s.setRun k (some { r with stated := true, crc := none, tags := [2 * t], back := a + 7 })
  else s.setRun k none

/-- The end of a descriptor whose bytes have arrived: an operation on keys writes its pennant descriptor and settles its counts
(R309 to R311), and then STATUS is written. -/
def State.endDesc (s : State) (k : Nat) (x : Chan) (r : DRun) : State :=
  let d := descOf r.desc
  if r.begun then
    let s := if r.code = 0 then (s.dmaWriteAll k (s.dmaBy k x) ((pdUpdate d r).flatMap DWrite.pieces)).1 else s
    let (s, sn) := s.settleKeys k x.ctx d r r.code
    s.writeStatus k x { r with detail := if r.code = 0 then sn else r.detail }
  else s.writeStatus k x r

/-- R401: the descriptor's next write is cut off by a pair that is lost. -/
def State.writeCut (s : State) (k : Nat) (r : DRun) : Bool :=
  let d := descOf r.desc
  s.cutRange k (r.da, 64) || (!r.moved && (d.dests ++ (if d.pennant then [(d.dst, 1), (d.p0, 32)] else [])).any (s.cutRange k))

/-- End a running descriptor early (R351, R354, R359). -/
def State.abortRun (s : State) (k code : Nat) : State :=
  match (s.chan k).run with
  | none => s
  | some r =>
    if r.unread then s.setRun k none
    else if r.moved then s
    else if r.parked then s.setRun k (some { r with moved := true, parked := false, code := code, detail := 0 })
    else s.endEarly k r code 0

/-- An aborted descriptor that waits for no read-back ends. -/
def State.abortEnd (s : State) (k : Nat) (x : Chan) : State :=
  match (s.chan k).run with
  | some r => if r.tags.isEmpty && !s.writeCut k r then s.endDesc k x r else s
  | none => s

/-- R352: the engine's last write has left, or a read-back has come in; a descriptor whose channel a store to CTL has stopped ends at
this boundary (R354). -/
def execDescriptorComplete (k : Nat) (s : State) : Host.Outcome State Fault Refusal :=
  unit (decide (k < 576))
    (let x := s.chan k
     match x.run with
     | none => s
     | some r =>
      if !s.engineRuns k || r.preempted then s
      else if r.stop && !r.moved && (r.unread || (descOf r.desc).abortable) then (s.abortRun k 0x0E).abortEnd k x
      else if r.parked || decide (r.reads ≠ 0) || !r.tags.isEmpty || s.writeCut k r || s.readsFull 2 then s
      else if !r.moved then
        let s := s.dmaMove k x r
        match (s.chan k).run with
        | some r => if r.tags.isEmpty then s.endDesc k x r else s
        | none => s
      else if !r.stated then s.endDesc k x r
      else s.setRun k none)

/-- The pre-empted descriptor that has held its slot longest, with its order. -/
def State.firstPreempted (s : State) : Option (Nat × Nat) :=
  s.dma.ch.foldl (fun a e => match e.2.run with
    | some r => if r.preempted then
        (match a with | some (j, o) => if r.order < o then some (e.1, r.order) else some (j, o) | none => some (e.1, r.order)) else a
    | none => a) none

/-- R353: a pre-empted descriptor takes the first slot that is free. -/
def execDescriptorResume (s : State) : Host.Outcome State Fault Refusal :=
  .next (match s.firstPreempted with
    | none => s
    | some (k, _) =>
      match (s.chan k).run with
      | some r => if s.hubRuns && decide (s.slotsUsed k < engineSlots k) then
        ({ s with dma := { s.dma with started := s.dma.started + 1 } } : State).setRun k (some { r with preempted := false, order := s.dma.started })
      else s
      | none => s)

/-- R345: the host writes a channel's producer index. -/
def execDmaProdWrite (ch : Nat) (a : HostAcc) (v : Nat) (s : State) : Host.Outcome State Fault Refusal :=
  unit (decide (ch < 256)) (if s.hubRuns then s.hostStore (0x200000 + 0x40 * ch + 0x10) a v else s)

/-- R354: management firmware clears ENABLE. -/
def State.disableChannel (s : State) (k : Nat) : State :=
  let x := s.chan k
  let s := s.setChan k { x with enable := false }
  match x.run with
  | some r => if r.unread || (descOf r.desc).abortable then s.abortRun k 0x0E else s
  | none => s

def execChannelDisable (k : Nat) (s : State) : Host.Outcome State Fault Refusal :=
  unit (decide (k < 576)) (if s.engineRuns k then s.disableChannel k else s)

/-- R354: management firmware enables a channel with its consumer index at the last producer index accepted. -/
def State.enableChannel (s : State) (k : Nat) : State :=
  let x := s.chan k
  s.setChan k { x with enable := true, cons := x.prod, stopped := false, ringErr := false }

def execChannelEnable (k : Nat) (ctl ring : Word) (s : State) : Host.Outcome State Fault Refusal :=
  unit (decide (k < 576))
    (let x := s.chan k
     if !s.engineRuns k || x.run.isSome then s
     else
      let host := bit ctl 62
      (s.setChan k { x with host := host, ctx := if host then 0 else bits ctl 48 8, bell := if host then 0 else bits ctl 0 48,
                            log2 := min 12 (bits ring 60 4), base := bits ring 6 42 * 64 }).enableChannel k)

/-- Channels whose descriptor is a reshuffle that has not ended. -/
def State.reshuffling (s : State) : List Nat :=
  (s.dma.ch.filter fun e => match e.2.run with | some r => (descOf r.desc).reshuffle && !r.moved | none => false).map (·.1)

/-- R359, R363: management firmware sets MODE 1: every running reshuffle stops with RES_BUSY. -/
def execCrcModeSet (s : State) : Host.Outcome State Fault Refusal :=
  .next (if !s.hubRuns || !s.dma.mode0 then s
    else
      let s := s.reshuffling.foldl (fun s k => s.abortRun k 9) s
      { s with dma := { s.dma with mode0 := false } })

/-- R363: back to MODE 0: channels 4 to 15 lose their values. -/
def State.crcMode0 (s : State) : State :=
  { s with dma := { s.dma with mode0 := true, crc := s.dma.crc.filter fun e => decide (e.1 < 4) } }

def execCrcModeClear (s : State) : Host.Outcome State Fault Refusal := .next (if s.hubRuns then s.crcMode0 else s)

/-- R362: the host writes VALUE of a channel that it owns; that of any other channel it may not write. Other widths are
REGISTER_WRITE's. -/
def execCrcValueWrite (n : Nat) (v : Word) (s : State) : Host.Outcome State Fault Refusal :=
  unit (decide (n < 16)) (if s.hubRuns then s.hostStore (0x280100 + 0x20 * n + 8) ⟨true, 8⟩ v.toNat else s)

end Sys2Proof.Machine
end

