-- ==== Sys2Proof/Machine/Access.lean ====
section
/-! DEFINITION. Loads, stores and atomics of a core: LD, ST, VLD, VST, AMO (R121 to R125, R128, R130, R132). -/

namespace Sys2Proof.Machine

/-! The address of an access (R121 to R123) -/

/-- An access: effective address, path, bytes, alignment, and the bytes that it touches. -/
structure MemAcc where
  ea : Nat
  path : Nat
  len : Nat
  align : Nat
  en : Nat → Bool
  vec : Bool

/-- Format M: PATH, SIZE, SX, OFF. -/
def mPATH (f : BitVec 56) : Nat := fld f 41 2
def mSIZE (f : BitVec 56) : Nat := fld f 39 2
def mSX (f : BitVec 56) : Bool := fld f 38 1 = 1
/-- R121: EA := s[RA] + OFF. -/
def mEA (f : BitVec 56) (x : Core) : Nat := (x.sreg (fRA f) + ofI (sext 32 (fld f 0 32))).toNat

def accS (f : BitVec 56) (x : Core) : MemAcc := ⟨mEA f x, mPATH f, 2 ^ mSIZE f, 2 ^ mSIZE f, fun _ => true, false⟩
def accV (f : BitVec 56) (x : Core) : MemAcc := ⟨mEA f x, mPATH f, 64, 2 ^ mSIZE f, fun i => bit (x.preg (fPG f)) (i / 2 ^ mSIZE f * 2 ^ mSIZE f), true⟩

/-- The parts of a range between multiples of `g` that hold an active byte. -/
def activeParts (ea len : Nat) (en : Nat → Bool) (g : Nat) : List (Nat × Nat) :=
  ((List.range ((ea + len + g - 1) / g - ea / g)).map fun i =>
    let lo := max ea ((ea / g + i) * g)
    let hi := min (ea + len) ((ea / g + i + 1) * g)
    (lo, hi - lo)).filter fun p => (List.range p.2).any fun k => en (p.1 - ea + k)

/-- Runs of active bytes of one part. -/
def activeRuns (ea : Nat) (en : Nat → Bool) (p : Nat × Nat) : List (Nat × Nat) :=
  (List.range p.2).foldl (fun l k =>
    if en (p.1 - ea + k) then
      match l.getLast? with
      | some (a, n) => if a + n = p.1 + k then l.dropLast ++ [(a, n + 1)] else l ++ [(p.1 + k, 1)]
      | none => [(p.1 + k, 1)]
    else l) []

/-- The line accesses that serve an access, at most two (R123). -/
def MemAcc.lines (a : MemAcc) : List (Nat × Nat) := activeParts a.ea a.len a.en 128
/-- Its active bytes, as runs within a line. -/
def MemAcc.runs (a : MemAcc) : List (Nat × Nat) := a.lines.flatMap (activeRuns a.ea a.en)
/-- The byte enables of an access, from address `da` of it on. -/
def MemAcc.enAt (a : MemAcc) (da : Nat) (i : Nat) : Bool := a.en (da - a.ea + i)
/-- The bytes of a store at a part of it. -/
def MemAcc.bytesAt (a : MemAcc) (data : Bytes) (p : Nat × Nat) : Bytes := (data.drop (p.1 - a.ea)).take p.2

/-- DA space of the access, for a path that uses device addresses. -/
def MemAcc.space (a : MemAcc) : Nat := a.ea / 2 ^ 40

/-- R121 to R124: the causes that an access meets before its data path: ILLEGAL_OP, PRIV, ALIGN, ADDR_RANGE. -/
def State.accCause (s : State) (x : Core) (a : MemAcc) : Option Nat :=
  if a.path = 3 then some causeIllegal
  else if a.lines = [] then none
  else if a.path ≠ 2 ∧ a.space = 0xFF ∧ !x.fw then some causePriv
  else if a.ea % a.align ≠ 0 then some causeAlign
  else if a.path = 2 then (if a.lines.any (fun p => decide (2 ^ 20 < p.1 + p.2)) then some causeRange else none)
  else if a.lines.any (fun p => (s.decodeDA p.1).isNone || (s.decodeDA (p.1 + p.2 - 1)).isNone) then some causeRange
  else none

/-- The place of a part of an access of core `c`: path SCRATCH names the own scratch, the others a device address (R121). A part lies in
one line, hence in one unit. -/
def State.partPlace (s : State) (c : Nat) (a : MemAcc) (p : Nat × Nat) : Option Place0 :=
  if a.path = 2 then some (.scratch c p.1) else s.decodeDA p.1

/-- The device address of an access (CORE_EXC_ADDR). -/
def MemAcc.da (a : MemAcc) (c : Nat) : Nat := if a.path = 2 then 2 ^ 40 + c * 2 ^ 20 + a.ea else a.ea

/-- R124: of the causes that the parts of an access meet at once, the first that applies. -/
def firstCause (l : List Nat) : Option Nat :=
  if l.contains causeRange then some causeRange else if l.contains causeRegion then some causeRegion else l.head?

/-- How a core's requests are checked (R410). -/
def Core.who (x : Core) : Who := .ctx x.ctx

/-- A posted CACHED access of the core to the line has not been performed (R64). -/
def State.cachedPending (s : State) (c line : Nat) : Bool :=
  s.caches.any fun e => (e.2.q ++ e.2.fills).any fun r => decide (r.core = c) && decide (r.da / 128 = line)

/-- A store of the core to one of the bytes waits at a halyard controller, at a cache or on a link (R64); `cached`: accesses on the
CACHED path follow each other in the cache's own order. -/
def State.olderStore (s : State) (c : Nat) (cached : Bool) (p : Nat × Nat) : Bool :=
  (match s.decodeDA p.1 with
   | some (.slice k off) => !cached && ((match s.phys k with | some q => s.storePending q c off p.2 | none => false) || s.cachedPending c (p.1 / 128))
       || cached && (match s.phys k with | some q => s.directPending q c off p.2 | none => false)
   | _ => false) ||
  s.lnk.rem.any fun r => decide (r.who = RemWho.core c) && r.write && decide (r.da < p.1 + p.2) && decide (p.1 < r.da + r.len)

/-- R63: the part lies in a bank that an outstanding ticket of this core names. -/
def State.ticketPart (s : State) (c : Nat) (x : Core) (p : Nat × Nat) : Bool :=
  match s.decodeDA p.1 with
  | some (.slice k off) => decide (k = c) && x.ticketHolds off p.2
  | _ => false

/-- R401: the route to the part, or back, crosses a lost pair: the request is never served. -/
def State.cutOff (s : State) (c : Nat) (p : Nat × Nat) : Bool :=
  match s.decodeDA p.1 with
  | some (.slice k _) | some (.scratch k _) => !s.bothWays (c / 256) (k / 256)
  | some (.host _) | some (.remote _ _) | some (.control _) => !s.bothWays (c / 256) 5
  | none => false

/-- R364: the reads of host memory that a load makes find no place among the outstanding ones. -/
def State.hostFull (s : State) (a : MemAcc) : Bool :=
  decide (a.path ≠ 2 ∧ a.space = 2) && s.readsFull a.runs.length

/-- Why an access is held in D2: a ticket (RUN reads 4), or an older store to the same bytes. -/
def State.accHeld (s : State) (c : Nat) (x : Core) (a : MemAcc) : Option Bool :=
  if a.path = 2 then none
  else if a.lines.any (s.ticketPart c x) then some true
  else if a.lines.any (s.cutOff c) then some false
  else if a.lines.any (s.olderStore c (decide (a.path = 1))) then some false
  else none

/-! Loads -/

/-- The halyard requester of a core. -/
def byCore (x : Core) (c k cls : Nat) : By := ⟨if k = c then .ownCore else .otherCore, cls, x.job, some x.ctx, c / 64, false⟩

/-- R124, R201: a core's DIRECT access to a part of a slice is refused. -/
def State.partDenied (s : State) (x : Core) (write : Bool) (p : Nat × Nat) : Option Nat :=
  match s.decodeDA p.1 with
  | some (.slice k off) =>
    match s.phys k with
    | some q => if s.coreRefused x.fw x.ctx k q off write then some causeRegion else none
    | none => some causeRange
  | _ => some causeRange

/-- Retire a load whose data is complete. -/
def loadDone (s : State) (c : Nat) (w : LdWait) : Ir :=
  let x := s.core c
  if w.vec then .done (s.setCore c (x.setV w.rd (blend w.ew w.pg (x.vreg w.rd) (vofBytes w.buf))))
  else .done (s.setCore c (x.setS w.rd w.scalar))

/-- A load that has issued and waits for its data. -/
def loadWait (s : State) (c : Nat) (w : LdWait) : Ir := .wait (s.setCore c { s.core c with wait := some w })

/-- The other part of an access that crosses a line. -/
def MemAcc.other (a : MemAcc) (p : Nat × Nat) : Option (Nat × Nat) := a.lines.find? (· ≠ p)

/-- Queue one line of a CACHED access at its serving cache. -/
def State.queueCached (s : State) (c : Nat) (r : CReq) : State :=
  let h := servingOf (c / 256) (r.da / 128)
  s.setCache h { s.cache h with q := (s.cache h).q ++ [r] }

/-- The request for one line of a CACHED load or store. -/
def MemAcc.creq (a : MemAcc) (c : Nat) (x : Core) (kind : CKind) (data : Bytes) (p : Nat × Nat) : CReq :=
  ⟨c, kind, p.1, p.2, maskOf p.2 (a.enAt p.1), a.bytesAt data p, 0, x.ctx, a.ea, a.other p, none, false⟩

/-- The runs of active bytes of one part. -/
def MemAcc.runsOf (a : MemAcc) (p : Nat × Nat) : List (Nat × Nat) := activeRuns a.ea a.en p

/-- R124, R201, R394, R410: why a part of a load is refused before any data moves. -/
def State.loadCause (s : State) (c : Nat) (x : Core) (a : MemAcc) (p : Nat × Nat) : Option Nat :=
  match s.partPlace c a p with
  | some (.scratch k _) => if k = c ∨ s.reachesScratch x.who k then none else some causeRegion
  | some (.slice _ _) => if a.path = 1 then none else s.partDenied x false p
  | some (.host h) => if s.hostOk h p.2 then none else some causePoison
  | some (.remote m _) => if s.portsTo m = [] then some causeRange else none
  | some (.control _) => none
  | none => some causeRange

/-- R54: a read of the active bytes of a part at offset `off` of core `k`'s scratch: the bytes of the part, or none where a word is
uncorrectable. A single error is corrected. -/
def State.readScratch (s : State) (k off : Nat) (a : MemAcc) (p : Nat × Nat) : State × Option Bytes :=
  let l := activeParts off p.2 (a.enAt p.1) 8
  let t := l.foldl (fun s e => s.scratchFix k e.1 e.2) s
  (t, if l.any fun e => s.scratchUe k e.1 e.2 then none else some (s.scratchRead k off p.2))

/-- Host memory is asked for the active bytes of a part, run by run; each tag goes with the place of its run in the access. -/
def State.hostPart (a : MemAcc) (st : State × LdWait) (r : Nat × Nat) : State × LdWait :=
  let (tag, s) := st.1.hostRead (r.1 % 2 ^ 40) r.2
  (s, { st.2 with tags := st.2.tags ++ [(tag, r.1 - a.ea, r.2)], left := st.2.left + 1 })

/-- R121, R208: one part of a load: data at once, a request that waits elsewhere, or a cause; the parts behind are then not read. No byte
that PG governs off is asked for (R130). -/
def State.loadPart (c : Nat) (x : Core) (a : MemAcc) (st : State × LdWait × Option Nat) (p : Nat × Nat) : State × LdWait × Option Nat :=
  let (s, w, e) := st
  if e.isSome then st
  else
    match s.partPlace c a p with
    | some (.scratch k off) =>
      match s.readScratch k off a p with
      | (s, some d) => (s, { w with buf := patch w.buf (p.1 - a.ea) d }, none)
      | (s, none) => (s, w, some causeScratch)
    | some (.slice k off) =>
      if a.path = 1 then (s.queueCached c (a.creq c x .load [] p), { w with left := w.left + 1 }, none)
      else
        match s.phys k with
        | none => (s, w, some causeRange)
        | some q =>
          let b := byCore x c k 0
          if s.bankFree q (bankOf off) then
            match (s.turn q b off p.2 true).readLine q off p.2 (a.enAt p.1) b with
            | (s, .ok d) => (s, { w with buf := patch w.buf (p.1 - a.ea) d }, none)
            | (s, .error (cause, _)) => (s, w, some cause)
          else
            let h := s.hal q
            ((s.setHal q { h with reqs := h.reqs ++
                [⟨b.req, c, false, 0, off, false, [], maskOf p.2 (a.enAt p.1), p.2, false, false, false⟩] }).countHeld q,
              { w with left := w.left + 1 }, none)
    | some (.host _) => let (s, w) := (a.runsOf p).foldl (State.hostPart a) (s, w); (s, w, none)
    | some (.remote _ _) =>
      ((a.runsOf p).foldl (fun s r => (s.remoteReq (.core c) false r.1 r.2 []).1) s, { w with left := w.left + (a.runsOf p).length }, none)
    | _ => (s, w, some causeRange)

/-- The access goes to control space, which only scalar registers reach (R20, R122). -/
def State.toControl (s : State) (c : Nat) (a : MemAcc) : Option Nat :=
  match (a.lines.head?).bind (s.partPlace c a) with
  | some (.control o) => some o
  | _ => none

/-- R121, R201, R208, R209: the data path of a load, part by part. -/
def State.load (s : State) (c : Nat) (x : Core) (a : MemAcc) (w : LdWait) : Ir :=
  match s.toControl c a with
  | some o =>
    if a.len = 4 ∨ a.len = 8 then
      let (s, v) := s.loadReg o a.len true
      loadDone s c { w with buf := leBytes a.len v.toNat }
    else
      let (d, s) := (s.accessFault 0 0 o).freeBytes a.len
      loadDone s c { w with buf := d }
  | none =>
    match firstCause (a.lines.filterMap (s.loadCause c x a)) with
    | some cause => .exc s cause (a.da c)
    | none =>
      match a.lines.foldl (State.loadPart c x a) (s, w, none) with
      | (s', _, some cause) => .exc (s'.dropReads c) cause (a.da c)
      | (s', w, none) => if w.left = 0 then loadDone s' c w else loadWait s' c w

/-- A load of any class. -/
def execLoad (c : Nat) (ok : Bool) (a : Core → MemAcc) (w : Core → LdWait) (s : State) : Host.Outcome State Fault Refusal :=
  runCore c s fun s x =>
    let a := a x
    legal s ok
      (match s.accCause x a with
       | some cause => .exc s cause (if cause = causeIllegal ∨ cause = causePriv then 0 else a.ea)
       | none =>
        if a.lines = [] then .done s
        else
          match s.accHeld c x a with
          | some ev => .held ev
          | none => if s.hostFull a then .held false else s.load c x a (w x))

def execLd (c : Nat) (f : BitVec 56) (s : State) : Host.Outcome State Fault Refusal :=
  execLoad c (zeros f [(53, 3), (32, 6)]) (accS f)
    (fun x => ⟨[], fRD f, false, 2 ^ mSIZE f, mSX f, 0, 64, mEA f x, none, List.replicate (2 ^ mSIZE f) 0, 0⟩) s

def execVld (c : Nat) (f : BitVec 56) (s : State) : Host.Outcome State Fault Refusal :=
  execLoad c (zeros f [(32, 7)]) (accV f)
    (fun x => ⟨[], fRD f, true, 64, false, x.preg (fPG f), 8 * 2 ^ mSIZE f, mEA f x, none, List.replicate 64 0, 0⟩) s

/-! Stores (R125) -/

/-- A posted store to another unit is refused at its home: an imprecise exception is on its way. -/
def State.refuseStore (s : State) (c cause ea : Nat) : State := s.imprecise c ⟨cause, ea, 0, 0⟩

/-- R125: the cause of a part of a store that the core itself checks: own scratch and own slice. -/
def State.ownCause (s : State) (c : Nat) (x : Core) (a : MemAcc) (data : Bytes) (p : Nat × Nat) : Option Nat :=
  match s.partPlace c a p with
  | some (.scratch k off) => if k = c ∧ (s.scratchRefuses k off (a.enAt p.1) p.2).isSome then some causeScratch else none
  | some (.slice k _) =>
    if k ≠ c then none
    else if a.path = 1 then s.partRefusal (a.creq c x .store data p) p.1 p.2
    else s.partDenied x true p
  | _ => none

/-- R125: the cause of a part of a store that its home refuses, as far as it is known when the store goes out. -/
def State.homeCause (s : State) (c : Nat) (x : Core) (a : MemAcc) (p : Nat × Nat) : Option Nat :=
  match s.partPlace c a p with
  | some (.scratch k off) =>
    if k = c then none
    else if !s.reachesScratch x.who k then some causeRegion
    else if (s.scratchRefuses k off (a.enAt p.1) p.2).isSome then some causeScratch else none
  | some (.slice k _) => if k = c ∨ a.path = 1 then none else s.partDenied x true p
  | some (.host h) => if s.hostOk h p.2 then none else some causePoison
  | some (.remote m _) => if s.portsTo m = [] then some causeRange else none
  | some (.control _) => none
  | none => some causeRange

/-- So many more writes of the core are outstanding. -/
def State.addOutst (s : State) (c n : Nat) : State := s.setCore c { s.core c with outst := (s.core c).outst + n }

/-- One part of a store that nothing refuses; it is outstanding while it waits. -/
def State.storePart (c : Nat) (x : Core) (a : MemAcc) (data : Bytes) (s : State) (p : Nat × Nat) : State :=
  match s.partPlace c a p with
  | some (.scratch k off) => s.scratchWrite k off (a.bytesAt data p) (a.enAt p.1)
  | some (.slice k off) =>
    if a.path = 1 then (s.queueCached c (a.creq c x .store data p)).addOutst c 1
    else
      match s.phys k with
      | none => s
      | some q =>
        let (s, waits) := s.writeStore q off (a.bytesAt data p) (a.enAt p.1) (decide (k = c)) c (byCore x c k 2)
        if waits then s.addOutst c 1 else s
  | some (.host _) =>
    let s := (a.runsOf p).foldl (fun s r => s.hostWrite (r.1 % 2 ^ 40) (a.bytesAt data r)) s
    s.setCore c { s.core c with hostDirty := (a.runsOf p).getLast?.map fun r => (r.1 + r.2 - 1) % 2 ^ 40 }
  | some (.remote _ _) =>
    ((a.runsOf p).foldl (fun s r => (s.remoteReq (.core c) true r.1 r.2 (a.bytesAt data r)).1) s).addOutst c (a.runsOf p).length
  | _ => s

/-- The data path of a store: own scratch and own slice are checked at once, every other destination refuses later, the store as a
whole (R125). -/
def State.store (s : State) (c : Nat) (x : Core) (a : MemAcc) (data : Bytes) : Ir :=
  match s.toControl c a with
  | some o => .done (if a.len = 4 ∨ a.len = 8 then s.storeReg o a.len (ofLe data) true else s.accessFault 0 0 o)
  | none =>
    match firstCause (a.lines.filterMap (s.ownCause c x a data)), firstCause (a.lines.filterMap (s.homeCause c x a)) with
    | some cause, _ => .exc s cause (a.da c)
    | none, some cause => .done (s.refuseStore c cause a.ea)
    | none, none => .done (a.lines.foldl (State.storePart c x a data) s)

/-- A store of any class. -/
def execStore (c : Nat) (ok : Bool) (a : Core → MemAcc) (data : Core → Bytes) (s : State) : Host.Outcome State Fault Refusal :=
  runCore c s fun s x =>
    let a := a x
    legal s ok
      (match s.accCause x a with
       | some cause => .exc s cause (if cause = causeIllegal ∨ cause = causePriv then 0 else a.ea)
       | none =>
        if a.lines = [] then .done s
        else
          match s.accHeld c x a with
          | some ev => .held ev
          | none => s.store c x a (data x))

def execSt (c : Nat) (f : BitVec 56) (s : State) : Host.Outcome State Fault Refusal :=
  execStore c (zeros f [(53, 3), (32, 7)]) (accS f) (fun x => leBytes (2 ^ mSIZE f) (x.sreg (fRD f)).toNat) s

def execVst (c : Nat) (f : BitVec 56) (s : State) : Host.Outcome State Fault Refusal :=
  execStore c (zeros f [(32, 7)]) (accV f) (fun x => vbytes (x.vreg (fRD f))) s

/-! Atomics (R128, R257) -/

/-- The access of an AMO: at s[RA], by the CACHED path. -/
def accAmo (f : BitVec 56) (x : Core) : MemAcc :=
  let n := if fld f 29 4 = 6 then 2 else 4
  ⟨(x.sreg (fRA f)).toNat, 1, n, n, fun _ => true, false⟩

/-- The request of an AMO; with RD = s0 it is a reduction. -/
def amoReq (c : Nat) (f : BitVec 56) (x : Core) : CReq :=
  let a := accAmo f x
  ⟨c, .amo, a.ea, a.len, 2 ^ a.len - 1, leBytes 8 (x.sreg (fRB f)).toNat ++ leBytes 8 (x.sreg (fRC f)).toNat, fld f 29 4, x.ctx, a.ea,
    none, none, decide (fRD f = 0)⟩

/-- The load that an AMO with return waits as. -/
def amoWait (f : BitVec 56) (x : Core) : LdWait :=
  let a := accAmo f x
  ⟨[], fRD f, false, a.len, false, 0, 64, a.ea, some (fld f 29 4), List.replicate a.len 0, 1⟩

/-- R128: an AMO goes to the serving cache of its line. One with return waits for the old value; a reduction is posted, as a store is: the
core checks its own slice (R125), and a later cause of it is imprecise (R74; log entry 81). -/
def execAmo (c : Nat) (f : BitVec 56) (s : State) : Host.Outcome State Fault Refusal :=
  runCore c s fun s x =>
    let aop := fld f 29 4
    let a := accAmo f x
    legal s (zeros f [(53, 3), (0, 29)] && decide (aop < 7) && (decide (aop = 4) || decide (fRC f = 0)))
      (match s.accCause x a with
       | some cause => .exc s cause (if cause = causePriv then 0 else a.ea)
       | none =>
        if a.space ≠ 0 then .exc s causeAtomic a.ea
        else
          match s.accHeld c x a with
          | some ev => .held ev
          | none =>
            let r := amoReq c f x
            if !r.post then loadWait (s.queueCached c r) c (amoWait f x)
            else
              match if a.ea / 2 ^ 28 = c then s.partRefusal r a.ea a.len else none with
              | some cause => .exc s cause a.ea
              | none => .done ((s.queueCached c r).addOutst c 1))

end Sys2Proof.Machine
end

