-- ==== Sys2Proof/Machine/Ledger.lean ====
section
/-! DEFINITION. The guidon's ledger as data: request entries, plaintext images, the end of a request and the restart of its job (R315,
R321, R322, R334, R337 to R339). -/

namespace Sys2Proof.Machine

/-! Request entries (R315) -/

def entKind (e : Bytes) : Nat := leAt e 0 1
def entNoShare (e : Bytes) : Bool := (leAt e 1 1).testBit 0
def entCompl (e : Bytes) : Nat := leAt e 2 2
def entStream (e : Bytes) : Nat := leAt e 4 2
def entId (e : Bytes) : Nat := leAt e 8 8
def entInput (e : Bytes) : Nat := leAt e 0x10 8
def entBytes (e : Bytes) : Nat := leAt e 0x18 4
def entMaxNew (e : Bytes) : Nat := leAt e 0x1C 4
def entOutput (e : Bytes) : Nat := leAt e 0x20 8
def entOutBytes (e : Bytes) : Nat := leAt e 0x28 4
def entTarget (e : Bytes) : Nat := leAt e 0x30 8

/-- NTOK and the tokens of an input record (R316). -/
def inNtok (p : Bytes) : Nat := leAt p 0 4
def inTokens (p : Bytes) : List Nat := (List.range (inNtok p)).map fun i => leAt p (64 + 4 * i) 4

/-! Images -/

/-- The plaintext image of a stream entry (R321). -/
def streamImage (id serial first : Nat) (toks : List Nat) (last : Bool) : Bytes :=
  leBytes 8 id ++ leBytes 4 serial ++ leBytes 4 (toks.length * 2 ^ 28 + (if last then 2 ^ 27 else 0) + first % 2 ^ 21) ++
    ((List.range 8).flatMap fun i => leBytes 4 (toks.getD i 0)) ++ List.replicate 16 0

/-- The plaintext image of a completion (R322). -/
def completionImage (kind status attempt job out id serial inp shared accepted written : Nat) : Bytes :=
  leBytes 1 kind ++ leBytes 1 status ++ leBytes 1 attempt ++ leBytes 1 job ++ leBytes 4 out ++ leBytes 8 id ++ leBytes 4 serial ++
    leBytes 4 inp ++ leBytes 4 shared ++ leBytes 4 accepted ++ leBytes 4 written ++ List.replicate 12 0 ++ List.replicate 16 0

/-! Requests of the ledger -/

def SReq.kind (x : SReq) : Nat := entKind x.entry
def SReq.id (x : SReq) : Nat := entId x.entry
/-- Prompt tokens of a request that has them. -/
def SReq.ntok (x : SReq) : Nat := if x.kind = 4 then 0 else inNtok x.input

/-- Tokens of its history: the prompt and every logged token (R337). -/
def SReq.hist (x : SReq) : Nat := x.ntok + x.toks.length

/-- The completion of a request of which `out` tokens are delivered. -/
def SReq.completion (x : SReq) (j status out : Nat) : Bytes :=
  completionImage x.kind status x.attempt j out x.id x.serial x.fed x.shared x.accepted x.written

/-- A request ends: the image of its completion is logged. -/
def SReq.finish (x : SReq) (j status : Nat) : SReq := { x with ended := true, log := x.log ++ [x.completion j status x.toks.length] }

/-- Tokens of the entries that are delivered (R321). -/
def SReq.delivered (x : SReq) : Nat := ((x.log.take x.posted).map fun img => leAt img 0xC 4 / 2 ^ 28).sum

/-- R323: the write of an entry has failed: the completion says so, after the entries that are logged already. -/
def SReq.writeFails (x : SReq) (j : Nat) : SReq :=
  let l := if x.ended then x.log.dropLast else x.log
  { x with ended := true, posted := l.length, log := l ++ [x.completion j 0x33 x.delivered] }

/-- R339: a restart of the job raises ATTEMPT of a request whose completion is not logged, or ends it at 3; its prefill is to be done
again, and posts whose delivery is not confirmed are to be made again (R336, R337). -/
def SReq.restarted (x : SReq) (j : Nat) : SReq :=
  let x := { x with wait := none, out := none }
  if x.ended then x
  else if 3 ≤ x.attempt then x.finish j 0x32
  else { x with attempt := x.attempt + 1, ready := false, done := 0, area := none, attend := [] }

/-- The ledger as a restart of job `j` leaves it, until the guidon takes RESTARTED. -/
def Serve.restarted (v : Serve) (j : Nat) : Serve :=
  { v with reqs := v.reqs.map fun x => x.restarted j, replies := v.replies.map fun r => { r with wait := none }, stale := true }

/-- R334: the two logical cores in whose slices the job's code keeps the retention store; they lie on different compute dies. -/
def retentionPlaces (rec : Bytes) : List Nat :=
  let r := Config.retentionCores rec
  let a := r.1 % 1280
  let b := r.2 % 1280
  [a, if b / 256 = a / 256 then (b + 256) % 1280 else b]

/-- An address lies in the slice of a core, its `len` bytes in one bank. -/
def inSlice (c da len : Nat) : Bool := decide (da / 2 ^ 28 = c) && decide (da % 2 ^ 21 + len ≤ 2 ^ 21)

/-- R284, R285, R287, R288, R292, R298: what placement may fix for a KV unit. -/
def KvUnit.ok (u : KvUnit) : Bool :=
  decide (u.core < 1280) && decide (1 ≤ u.heads) && decide (16 ≤ u.dim) && decide (u.dim ≤ 256) && decide (u.dim % 16 = 0) && decide (u.heads * u.dim ≤ 4064) &&
    decide (u.ring ≤ 4096) && (!u.retr || (decide (u.ring = 0) && decide (256 ≤ u.threshold) && decide (u.threshold ≤ 1048576) &&
      decide (u.threshold % 256 = 0) && decide (u.sel ≤ 64) && decide (1 ≤ u.recent) && decide (u.recent ≤ 64))) &&
    u.descs.all (fun a => decide (a % 32 = 0) && inSlice u.core a 32) && u.bodies.all (fun b => decide (b % 4096 = 0) && inSlice u.core b (u.size * 4096)) &&
    u.areas.all fun a => decide (a % 64 = 0) && decide (a / 2 ^ 28 = u.core)

/-- The ledger of a job that has just been placed. -/
def Serve.placed (rec : Bytes) : Serve := { (default : Serve) with units := (Config.kvUnits rec).filter KvUnit.ok, copies := retentionPlaces rec }

end Sys2Proof.Machine
end

