-- ==== Sys2Proof/Machine/NearBank.lean ====
section
/-! DEFINITION. Near-bank issue, the admission of programs, and the commands of the units (R166 to R168, R221 to R247). -/

namespace Sys2Proof.Machine

/-- R237, R246: the unit of bank `b` runs one step of its current word when that word has opcode `op`, the unit is running and has
not been asked to pause (R243). What the boundary still owes the held requests is granted first (R241). -/
def nbStep (c b op : Nat) (s : State) : Host.Outcome State Fault Refusal :=
  unit (decide (c < 1280) && decide (b < 128))
    (match s.phys c with
     | none => s
     | some p =>
      let u := tget (s.nbu p).units b
      let w := u.image.getD u.ip 0
      if !s.dieRuns (c / 256) || !u.active || u.paused || u.pauseReq || decide (nbOp w ≠ op) || decide (u.image.length ≤ u.ip) then s
      else (s.serveBoundary p b).nbAdvance p b)

def execEarith (c b : Nat) (s : State) : Host.Outcome State Fault Refusal := nbStep c b 0x01 s
def execEfma (c b : Nat) (s : State) : Host.Outcome State Fault Refusal := nbStep c b 0x02 s
def execEfunc (c b : Nat) (s : State) : Host.Outcome State Fault Refusal := nbStep c b 0x03 s
def execErope (c b : Nat) (s : State) : Host.Outcome State Fault Refusal := nbStep c b 0x04 s
def execEcvt (c b : Nat) (s : State) : Host.Outcome State Fault Refusal := nbStep c b 0x05 s
def execNbRed (c b : Nat) (s : State) : Host.Outcome State Fault Refusal := nbStep c b 0x08 s
def execNbFold (c b : Nat) (s : State) : Host.Outcome State Fault Refusal := nbStep c b 0x09 s
def execFop (c b : Nat) (s : State) : Host.Outcome State Fault Refusal := nbStep c b 0x0A s
def execXop (c b : Nat) (s : State) : Host.Outcome State Fault Refusal := nbStep c b 0x0B s
def execNbLoop (c b : Nat) (s : State) : Host.Outcome State Fault Refusal := nbStep c b 0x0C s
def execRowcpy (c b : Nat) (s : State) : Host.Outcome State Fault Refusal := nbStep c b 0x0D s
def execSkey (c b : Nat) (s : State) : Host.Outcome State Fault Refusal := nbStep c b 0x0E s
def execNbEnd (c b : Nat) (s : State) : Host.Outcome State Fault Refusal := nbStep c b 0x3F s

/-! Admission (R239) -/

/-- R225: the unit at program start. -/
def NbPair.start (e : NbPair) : NbUnit :=
  { (default : NbUnit) with
    active := true, ticket := e.ticket, core := e.core, ctx := e.ctx, image := e.image
    f := tputs (tput (tput [] 0 (bits e.p1 0 32)) 1 (bits e.p1 32 32)) 2 [bits e.p2 0 32, bits e.p2 32 32, e.bank]
    acc := List.replicate 16 f32NegZero }

def Nbu.admitted (n : Nbu) : Nat := (n.units.filter fun e => e.2.active).length
def Nbu.limitNow (n : Nbu) : Nat := n.limit.getD 0x20

/-- R212, R213: what a bank's merge-buffer entries and held flushes still owe it is written before a program starts. -/
def State.flushBank (s : State) (p b : Nat) : State :=
  s.flushNow p fun e => decide (bankOf (e.word * 32) = b)

/-- R239: the oldest waiting pair whose bank has no active program is admitted; its unit checks the image and starts. -/
def State.admitNext (s : State) (p : Nat) : State :=
  let n := s.nbu p
  if n.limitNow ≤ n.admitted then s
  else
    match n.queue.find? (fun e => !(tget n.units e.bank).active) with
    | none => s
    | some e =>
      let s := s.flushBank p e.bank
      let n := s.nbu p
      let s := s.setNbu p { n with queue := n.queue.erase e, admits := n.admits + 1, units := tput n.units e.bank { e.start with seq := n.admits } }
      if imageLegal e.image then s else s.endProgram e.core p e.bank e.ticket 1 (imageBad e.image) 0

def execBankProgramAdmit (c : Nat) (s : State) : Host.Outcome State Fault Refusal :=
  unit (decide (c < 1280))
    (match s.phys c with
     | none => s
     | some p => if s.dieRuns (c / 256) then s.admitNext p else s)

/-! Issue (R166 to R169) -/

/-- Banks of the set in s[RB]: bank mask in bits 15:0, layer mask in bits 23:16, in ascending order. -/
def bankSet (w : Word) : List Nat :=
  (List.range 128).filter fun b => bit w (16 + b / 16) && bit w (b % 16)

/-- The 64-bit words of a scratch range. -/
def wordsLe (d : Bytes) : List Word := (List.range (d.length / 8)).map fun i => BitVec.ofNat 64 (leAt d (8 * i) 8)

/-- R166, R167: the named banks admit a program of core `c`: open, and owned by its context. -/
def State.banksAllow (s : State) (c p : Nat) (banks : List Nat) : Bool :=
  banks.all fun b => (s.hal p).isOpen b && !s.refused (.ctx (s.core c).ctx) c p (b * 2 ^ 21) true

/-- R166, R212, R242: a program joins the queue of each bank under ticket `t`; merge-buffer entries of those banks are flushed, and
their lines leave the stream buffer. -/
def State.issueProgram (s : State) (c p t : Nat) (img : List Word) (p1 p2 : Word) (banks : List Nat) : State :=
  let s := s.flushWhere p (fun e => banks.contains (bankOf (e.word * 32))) 2
  let s := s.dropLines p (fun l => banks.contains (bankOf l.off))
  let n := s.nbu p
  let s := s.setNbu p { n with queue := n.queue ++ banks.map fun b => ⟨t, c, b, (s.core c).ctx, img, p1, p2⟩ }
  let y := s.core c
  let tk : Ticket := ⟨if banks = [] then 2 else 1, 0, 0, 0, 0, 0, banks.length, (banks.map (2 ^ ·)).sum⟩
  s.setCore c { y with tickets := tput y.tickets t tk }

/-- An uncorrectable word of scratch that it reads raises SCRATCH_UE (log entry 113). -/
def execNissue (c : Nat) (f : BitVec 56) (s : State) : Host.Outcome State Fault Refusal :=
  runCore c s fun s x =>
    let ra := (x.sreg (fRA f)).toNat
    let rb := x.sreg (fRB f)
    let rc := fRC f
    let len := 8 * (fld f 27 6 + 1)
    let banks := bankSet rb
    legal s (zeros f [(53, 3), (0, 27)] && decide (bits rb 24 40 = 0) && decide (rc % 2 = 0))
      (if ra % 8 ≠ 0 then .exc s causeAlign 0
       else if 2 ^ 20 ≤ ra then .exc s causeRange 0
       else if 2 ^ 20 < ra + len then .exc s causeLen 0
       else
        match s.phys c with
        | none => .held false
        | some p =>
          if !s.banksAllow c p banks then .exc s causeRegion 0
          else if s.scratchUe c ra len then .exc s causeScratch (1 * 2 ^ 40 + c * 2 ^ 20 + ra)
          else
            match (List.range 16).find? (fun t => !x.ticketOpen t) with
            | none => .held true
            | some t =>
              doneS ((s.scratchFix c ra len).issueProgram c p t (wordsLe (s.scratchRead c ra len)) (x.sreg rc) (if rc = 0 then 0 else x.sreg (rc + 1)) banks)
                c (fRD f) (BitVec.ofNat 64 t))

/-- R168: NWAIT. It depends on its tickets, so a failed one holds it until the fault is taken (R74). -/
def execNwait (c : Nat) (f : BitVec 56) (s : State) : Host.Outcome State Fault Refusal :=
  runCore c s fun s x =>
    let m := x.sreg (fRA f)
    legal s (zeros f [(53, 3), (48, 5), (38, 5), (33, 5), (27, 6), (0, 27)] && decide (bits m 16 48 = 0))
      (if (List.range 16).any fun t => m.toNat.testBit t && x.ticketOpen t then .held true else .done s)

/-- R168: NSTAT. -/
def execNstat (c : Nat) (f : BitVec 56) (s : State) : Host.Outcome State Fault Refusal :=
  runCore c s fun s x =>
    legal s (zeros f [(53, 3), (43, 5), (38, 5), (33, 5), (27, 6), (0, 27)])
      (doneS s c (fRD f) (BitVec.ofNat 64 x.ticketMask))

/-- R142, R247: abort every outstanding ticket of a core: waiting pairs never start, active units stop at this step boundary. -/
def State.abortTickets (s : State) (c : Nat) : State :=
  match s.phys c with
  | none => s
  | some p =>
    let n := s.nbu p
    let ended := (n.units.filter fun e => e.2.active && decide (e.2.core = c)).length
    let s := s.setNbu p { n with
      queue := n.queue.filter fun e => decide (e.core ≠ c)
      units := n.units.filter fun e => !(e.2.active && decide (e.2.core = c))
      ended := wrap 16 (n.ended + ended) }
    let x := s.core c
    s.setCore c { x with tickets := tmap (fun _ t =>
      if t.state = 1 then { t with state := if t.error = 0 then 4 else 3, left := 0 } else t) x.tickets }

end Sys2Proof.Machine
end

