-- ==== Sys2Proof/Machine/JobOps.lean ====
section
/-! DEFINITION. Clearing and starting cores, role epochs, grants, windows of a job, cluster switches, and the start, end and
restart of a job (R53, R200, R270 to R280, R397, R413 to R415, R482 to R487). -/

namespace Sys2Proof.Machine

/-! Cores -/

/-- A core after R53: everything zero, RUN 2 in firmware mode, with the epoch and firmware vector it holds. -/
def Core.idle (x : Core) : Core :=
  { (default : Core) with
    run := 2, fw := true, ctx := x.ctx, epoch := x.epoch, exc := x.exc
    pc := x.sys.fwVector.toNat % 2 ^ 48 / 8 * 8
    sys := { x.sys with clean := true, cold := true, uenter := none }, stat := x.stat }

/-- R272: the next epoch. -/
def nextEpoch (e : Nat) : Nat := if 0xFFFF ≤ e then 1 else e + 1

/-- Advance a core's role epoch. -/
def State.advanceEpoch (s : State) (c : Nat) : State :=
  s.setCore c { s.core c with epoch := nextEpoch (s.core c).epoch }

/-- R75, R142: a fault that reaches a core in firmware mode: the first cause is recorded, a further one as SECOND_CAUSE. The first
CHECK_COLUMN of a role records its operation in MSEQ (R95). -/
def Core.noteFault (x : Core) (f : Impr) : Core :=
  if x.run ≠ 5 ∧ x.exc.cause = 0 then x.recordExc f true
  else
    let e := if x.exc.second = 0 then { x.exc with second := f.cause } else x.exc
    { x with exc := if f.cause = causeCheck ∧ !e.chkSeq then { e with mseq := f.mseq, chkSeq := true } else e }

/-- R142: a fault that reaches a core during ABORT or DRAIN is recorded and reported, and raises no exception. -/
def State.drainFault (s : State) (c : Nat) (f : Impr) : State :=
  (s.setCore c ((s.core c).noteFault f)).reportExc c f.cause f.addr

/-- The faults that are on their way to a core reach it during DRAIN. -/
def State.drainFaults (s : State) (c : Nat) : State :=
  let x := s.core c
  x.impr.foldl (fun s f => s.drainFault c f) (s.setCore c { x with impr := [] })

/-- R142: another module refuses a posted store of a core that has been drained: the fault of the job that issued it is reported, and
recorded while the core has no other role (log entry 100). -/
def State.lateStore (s : State) (c job stage cause addr : Nat) : State :=
  let x := s.core c
  let s := if x.job = 0 then s.setCore c (x.noteFault ⟨cause, addr, 0, 0⟩) else s
  s.reportExcOf c job stage cause addr

/-- A posted store or reduction of a core that is drained is performed or refused at the home (R142); a refused store is refused as a
whole (R125): `seen` are the addresses of those refused before. -/
def State.drainStore (st : State × List Nat) (r : CReq) : State × List Nat :=
  let (s, seen) := st
  let line := r.da / 128
  if (r.kind ≠ .store ∧ !r.post) ∨ r.ea ∈ seen then st
  else
    let s := s.settleLine line
    match s.cachedRefusal r, s.phys (line / 2 ^ 21) with
    | none, some p =>
      if !r.post then ((s.dropSharers (homeOf line) line).writeThrough r r.data r.mask.testBit, seen)
      else
        match s.readSlice p (line % 2 ^ 21 * 128) 128 (s.cacheBy r 2) with
        | (s, .ok d) => (s.performAmo (homeOf line) r d, seen)
        | (s, .error (cause, _)) => (s.drainFault r.core ⟨cause, r.ea, 0, 0⟩, seen)
    | e, _ => (s.drainFault r.core ⟨e.getD causeRange, r.ea, 0, 0⟩, r.ea :: seen)

/-- The accesses of a core that wait at cluster caches: stores are performed, the load or AMO that it waits for is dropped. -/
def State.purgeCaches (s : State) (c : Nat) : State :=
  let l := s.caches.flatMap fun e => (e.2.fills ++ e.2.q).filter fun r => decide (r.core = c)
  let s := { s with caches := tmap (fun _ x => { x with q := x.q.filter fun r => decide (r.core ≠ c)
                                                        fills := x.fills.filter fun r => decide (r.core ≠ c) }) s.caches }
  (l.foldl State.drainStore (s, [])).1

/-- The same at the halyard controllers. -/
def State.purgeHals (s : State) (c : Nat) : State :=
  let mine := fun r : HReq => (decide (r.req = .ownCore) || decide (r.req = .otherCore)) && !r.flush && decide (r.core = c)
  s.hals.foldl (fun s e =>
    let l := e.2.reqs.filter mine
    let s := s.setHal e.1 { s.hal e.1 with reqs := (s.hal e.1).reqs.filter fun r => !mine r }
    l.foldl (fun s r =>
      if !r.write then s
      else
        let s := match s.lcoreOf e.1 with
          | some k => if r.waits then s.dropHome (lineOf k r.off) true else s
          | none => s
        s.perform e.1 r) s) s

/-- SCLR ABORT and DRAIN, then the clearing SCLR (R142, R146): the core ends in RUN 2 with nothing of its role left. -/
def State.clearCore (s : State) (c : Nat) : State :=
  let s := ((s.abortTickets c).purgeHals c).purgeCaches c
  let s := match s.phys c with
    | some p => s.flushNow p fun _ => true
    | none => s
  let s := s.drainFaults c
  let x := s.core c
  let left : RemWho → Bool → RemWho := fun w write => if w = .core c then (if write then .drained c x.job x.stage else .gone) else w
  let s := { s with lnk := { s.lnk with rem := s.lnk.rem.map fun r : RemReq => { r with who := left r.who r.write } } }
  let s := (List.range 8).foldl (fun s m => s.unbindPort c m) s
  (s.setCore c (s.core c).idle).scratchClear c

/-- SCLR, CTXSET and UENTER of a role (R53, R144, R145, R269). -/
def State.startCore (s : State) (j ctx : Nat) (e : CoreEntry) : State :=
  let x := (s.core e.lcore).idle
  (s.scratchClear e.lcore).setCore e.lcore
    { x with run := 3, fw := false, ctx := ctx, pc := e.entryPc / 8 * 8, job := j, stage := e.stage, exc := default }

/-! Slices -/

/-- Every line of a core's slice leaves the caches (R254). -/
def State.dropSliceLines (s : State) (c : Nat) : State :=
  { s with caches := s.caches.map fun e => (e.1, { e.2 with lines := tclear e.2.lines (lineOf c 0) (lineOf c 0 + 2 ^ 21) }) }

/-- R486: a loss of vertical connections in service. -/
def State.degradedInService (s : State) : State :=
  if s.boot.state = 1 then { s with boot := { s.boot with state := 2, elapsed := s.hubCount / 10800 % 2 ^ 24 } } else s

/-- R200: switch one bank: its contents are destroyed first. -/
def State.switchBank (s : State) (p b : Nat) : State :=
  let s := s.zeroBank p b
  let x := s.hal p
  s.setHal p { x with region := x.region ^^^ BitVec.ofNat 128 (2 ^ b), changes := wrap 16 (x.changes + 1) }

/-- R200: write a region map while the slice's core is in RUN 0 or 2: every bank that changes is zeroed and switched. -/
def State.setRegions (s : State) (p : Nat) (new : BitVec 128) : State :=
  let run := match s.lcoreOf p with | some c => (s.core c).run | none => 0
  if run ≠ 0 ∧ run ≠ 2 then s
  else ((List.range 128).filter fun b => bit (s.hal p).region b != bit new b).foldl (fun s b => s.switchBank p b) s

/-- The region map of a core entry (R266). -/
def CoreEntry.regions (e : CoreEntry) : BitVec 128 := BitVec.ofNat 128 (e.lo + e.hi * 2 ^ 64)

/-! Jobs -/

/-- Logical cores of a job's record. -/
def Job.cores (x : Job) : List Nat := x.rc.cores.map (·.lcore)

/-- The live job whose record names a core. -/
def State.jobOf (s : State) (c : Nat) : Option Nat :=
  (s.jobs.find? fun e => decide (e.2.state ≠ 0) && e.2.cores.contains c).map (·.1)

/-- DMA channels of a job (R354). -/
def State.jobChans (s : State) (j : Nat) : List Nat := (s.dma.ch.map (·.1)).filter fun k => decide (s.chanJob k = j)

/-- The guidon's logical core. -/
def Job.guidon (x : Job) : Option Nat := (x.rc.cores[x.rc.guidon]?).map (·.lcore)

/-! Windows of a job (R282, R397) -/

/-- The window epoch of a job's windows. -/
def State.winEpoch (s : State) (j : Nat) : Nat := if tget s.lnk.jobEpoch j = 0 then 1 else tget s.lnk.jobEpoch j

def Win.job (w : Win) : Nat := bits w.w0 40 8
def Win.valid (w : Win) : Bool := bit w.w0 63
def Win.epoch (w : Win) : Nat := bits w.w0 24 16
def Win.setEpoch (w : Win) (e : Nat) : Win :=
  { w with w0 := BitVec.ofNat 64 (w.w0.toNat - w.epoch * 2 ^ 24 + e % 2 ^ 16 * 2 ^ 24) }

/-- Advance the EPOCH of every window of a job and tell the peers (R397). -/
def State.advanceWindows (s : State) (j : Nat) : State :=
  let e := if tget s.lnk.jobEpoch j = 0 then 1 else nextEpoch (tget s.lnk.jobEpoch j)
  let l := s.lnk.wins.filter fun w => w.2.valid && decide (w.2.job = j)
  let s := { s with lnk := { s.lnk with jobEpoch := tput s.lnk.jobEpoch j e,
                                        wins := l.foldl (fun t w => tput t w.1 (w.2.setEpoch e)) s.lnk.wins } }
  l.foldl (fun s w => s.noticeEpoch (w.1 / 16) (w.1 % 16) e) s

/-! Grants (R275, R276, R279, R280) -/

/-- Remove the grants of every channel that touches one of the cores, and the credits of their own ports and of the events sent to them.
Credits of a linked sender that goes on stay: its next send finds out (R280). -/
def State.dropGrants (s : State) (cs : List Nat) : State :=
  let off := fun a b : Nat => cs.contains a || cs.contains b
  let gone := fun e : Cred => cs.contains e.core || (decide (e.core = hubCore) && cs.contains e.dst)
  { s with net := { s.net with
      grants := s.net.grants.filter fun g => !off g.src g.dst
      creds := s.net.creds.filter fun e => !gone e
      held := s.net.held.filter fun e => !gone e } }

/-- The grants of one job's record, those of the event port included: one for each port entry (R275). -/
def State.grantsOf (s : State) (j : Nat) : List Grant :=
  let x := s.job j
  let l := x.rc.ports.map fun p => (⟨p.src, p.sport, p.dst, p.dport, (s.core p.dst).epoch, p.maxlen, p.credits, p.base, p.units, false, j⟩ : Grant)
  match x.guidon with
  | some c => l ++ [⟨hubCore, 7, c, 7, (s.core c).epoch, 1, x.rc.eventUnits, x.rc.eventBase, x.rc.eventUnits, false, j⟩]
  | none => l

/-- Two grants of the same channel. -/
def Grant.same (a b : Grant) : Bool := decide (a.src = b.src) && decide (a.sport = b.sport) && decide (a.dst = b.dst) && decide (a.dport = b.dport)

/-- R275, R280: install the grants of a job's record, and again those that the records of other live jobs had at its cores before it
stopped, with the epochs of now; one grant for each port entry. -/
def State.installGrants (s : State) (j : Nat) : State :=
  let own := s.grantsOf j
  let l := own ++ ((s.job j).links.filter fun g => !own.any g.same).map fun g => { g with epoch := (s.core g.dst).epoch, released := false }
  let old := s.net.grants.filter fun g => !l.any fun k => decide (k.src = g.src) && decide (k.sport = g.sport)
  ({ s with net := { s.net with grants := old ++ l } } : State).setJob j { s.job j with links := [] }

/-- R280: before a job stops for a restart, remember the grants that records of other jobs have at its cores. -/
def State.keepLinks (s : State) (j : Nat) : State :=
  let x := s.job j
  let new := s.net.grants.filter fun g => decide (g.job ≠ j) && (x.cores.contains g.src || x.cores.contains g.dst) && !x.links.any g.same
  s.setJob j { x with links := x.links ++ new }

/-! Clusters (R413, R414) -/

/-- Steps 4 and 5 of R414: the cluster comes to serve a context. -/
def State.switchCluster (s : State) (ctx h : Nat) : State :=
  let x := s.clu h
  if !x.served then s.setClu h { x with served := true, ctx := ctx }
  else if x.ctx = ctx then s
  else
    let d := x.ctx
    let s := s.dropContext h d
    let old := ((List.range 64).map (64 * h + ·)).filter fun c => s.backed c && decide ((s.core c).job = 0)
    let s := old.foldl State.clearCore s
    s.setClu h { s.clu h with ctx := ctx, switches := wrap 16 ((s.clu h).switches + 1) }

/-- Clusters of a list of cores. -/
def clustersOf (cs : List Nat) : List Nat := (List.range 20).filter fun h => cs.any fun c => decide (c / 64 = h)

/-! Life of a job -/

/-- Bring the cores of a job to RUN 2, advance their epochs and remove their grants (R270, R414). -/
def State.stopCores (s : State) (j : Nat) : State :=
  let cs := (s.job j).cores.filter s.backed
  let s := cs.foldl State.clearCore s
  let s := cs.foldl State.advanceEpoch s
  s.dropGrants cs

/-- Start the cores of a job: clusters switched, grants installed, roles started (R269, R273). -/
def State.startCores (s : State) (j : Nat) : State :=
  let x := s.job j
  let s := (clustersOf x.cores).foldl (fun s h => s.switchCluster x.rc.ctx h) s
  let s := x.rc.cores.foldl (fun s e => s.startCore j x.rc.ctx e) s
  (s.setJob j { s.job j with state := 1, evCredits := 0, evOut := [] }).installGrants j

/-- Name the job in the table entries of its queues, or take its name out (R371). -/
def State.nameQueues (s : State) (first count j : Nat) : State :=
  ((List.range count).map (first + ·)).foldl (fun s q => s.setQe q { s.qe q with job := j }) s

/-- R270: a job ends. -/
def State.endJob (s : State) (j : Nat) : State :=
  let x := s.job j
  let s := (s.stopCores j).advanceWindows j
  let s := if x.payCh = 0 then s else s.disableChannel x.payCh
  let s := s.nameQueues x.rc.qFirst x.rc.qCount 0
  { s with jobs := tmap (fun _ x => { x with links := x.links.filter fun g => decide (g.job ≠ j) }) (tput s.jobs j default)
           serve := tput s.serve j default }

/-- R341: entries of a job that wait for room are posted no more. -/
def State.dropLate (s : State) (j : Nat) : State :=
  let r := (s.job j).rc
  { s with que := { s.que with late := s.que.late.filter fun e => !(decide (r.qFirst ≤ e.1) && decide (e.1 < r.qFirst + r.qCount)) } }

/-- R341, R485: a job ends as a RETIRE ends it, with the completions. -/
def State.retireJob (s : State) (j : Nat) : State := ((s.dropLate j).postToRange j 0x11).endJob j

/-- R338: every open request of the job ends with INPUT_LOST; the retention store is set up anew where its slices are backed. -/
def State.inputLost (s : State) (j : Nat) : State :=
  let s := s.postToRange j 0x31
  let v := tget s.serve j
  ({ s with serve := tput s.serve j { v with reqs := [], replies := [], copies := (retentionPlaces (s.job j).rc.bytes).filter s.backed } } : State).setJob j
    { s.job j with openSerials := 0 }

/-- R338: copies of retention stores in the slice of `c` are lost; a job that has none left loses its open requests. -/
def State.copiesLost (s : State) (c : Nat) : State :=
  (s.serve.filter fun e => e.2.copies.contains c).foldl (fun s e =>
    let v := tget s.serve e.1
    let l := v.copies.filter (· ≠ c)
    let s : State := { s with serve := tput s.serve e.1 { v with copies := l } }
    if l = [] then s.inputLost e.1 else s) s

/-- Submission queues of a job whose indexes differ (R324). -/
def State.undrained (s : State) (j : Nat) : List Nat :=
  let r := (s.job j).rc
  (s.que.q.filter fun e => decide (r.qFirst ≤ e.1) && decide (e.1 < r.qFirst + r.qCount) && decide (e.2.kind = 1) &&
    decide (e.2.hidx ≠ e.2.midx)).map (·.1)

/-- The collectors' JOB_EPOCH of a job. -/
def State.setJobEpochs (s : State) (j : Nat) (f : Nat → Nat) : State :=
  { s with flt := (List.range 6).foldl (fun t k =>
      let x := tget t k
      tput t k { x with epochs := tput x.epochs j (f (tget x.epochs j) % 2 ^ 16) }) s.flt }

/-- Counts of HUB's clock in 10 s and in 100 ms (R39). -/
def tenSeconds : Nat := 108000000
def tenthSecond : Nat := 1080000

/-- R487: a job that lost a slice to a spare becomes HELD. -/
def State.holdJob (s : State) (j : Nat) : State :=
  let s := (s.keepLinks j).stopCores j
  s.setJob j { s.job j with state := 2, faults := [], evCredits := 0, evOut := [], stepped := false }

/-- Step 5 of R482: epochs of collectors, roles and windows. -/
def State.advanceRestart (s : State) (j : Nat) : State :=
  let s := s.setJobEpochs j (· + 1)
  let s := ((s.keepLinks j).stopCores j).advanceWindows j
  s.setJob j { s.job j with faults := [], stepped := true }

/-- R397: after a fault, a segment waits for the notices of the windows that serve its instance on other modules (log entry 85). -/
def State.noticesIn (s : State) (j : Nat) : Bool :=
  let x := s.job j
  !(x.rc.segmented && x.awaits) || (Config.instanceWindows x.rc.tag).all x.heard.contains

/-- Steps 6 and 7 of R482. -/
def State.resumeRestart (s : State) (j : Nat) : State :=
  let x := s.job j
  let s := (s.jobChans j).foldl State.enableChannel s
  let s := { s with serve := tput s.serve j ((tget s.serve j).restarted j) }
  let s := s.setJob j { s.job j with restarts := x.restarts + 1, times := s.hubCount :: (x.times.filter fun t => decide (s.hubCount < t + tenSeconds)),
                                     ended := [], evRestarted := true, evQueues := s.undrained j, awaits := false, stepped := false, heard := [] }
  s.startCores j

/-- Steps 4 to 7 of R482: the job starts again once the notices of R397 are in, is held (R487), or ends (R273). -/
def State.finishRestart (s : State) (j : Nat) : State :=
  let x := s.job j
  match x.cores.find? (fun c => !s.backed c) with
  | some c => (s.report ⟨0, 0x0F, srcOf 8 4, j, 20, 0, 0, 4 + c * 2 ^ 16⟩).endJob j
  | none =>
    if x.mappedOut ≠ [] then s.holdJob j
    else
      let s := if x.stepped then s else s.advanceRestart j
      if s.noticesIn j then s.resumeRestart j else s

/-- A descriptor of the job that must run to its end (R312, R354). -/
def State.jobRunsOn (s : State) (j : Nat) : Bool :=
  (s.jobChans j).any fun k => match (s.chan k).run with | some r => !(descOf r.desc).abortable | none => false

/-- A pending fault that is a segment-fault notice received (R283). -/
def noticeFault (f : Nat × Nat) : Bool := decide (f = (srcOf 8 4, 0x0B))

/-- Steps 1 and 2 of R482: notices, unless every fault is a notice received (R283), the job's DMA channels, and its cores. -/
def State.beginRestart (s : State) (j : Nat) : State :=
  let x := s.job j
  let s := s.setJob j { x with state := 3, awaits := true, heard := if x.faults.any noticeFault then x.heard else [] }
  let s := if x.rc.segmented && x.faults.any (fun f => !noticeFault f) then
      (List.range 8).foldl (fun s p => s.noticeSegment p x.rc.tag) s
    else s
  let s := (s.jobChans j).foldl State.disableChannel s
  (x.cores.filter fun c => s.backed c && s.dieRuns (c / 256)).foldl State.clearCore s

/-- R374: both copies of the queue table are lost. -/
def State.queueLost (s : State) : State :=
  let s := s.raiseAlert 5
  let s := ((s.jobs.filter fun e => decide (e.2.state ≠ 0)).map (·.1)).foldl State.endJob s
  let s := s.report ⟨0, 0x0D, srcOf 8 1, 0, 20, 0, 0, 0⟩
  { s with que := { s.que with q := [], late := [], midx := [] } }

end Sys2Proof.Machine
end

