-- ==== Sys2Proof/Machine/Halyard.lean ====
section
/-! DEFINITION. Halyard controllers: held requests, arbitration, write-backs, refresh, windows, scrubber, region map, test mode
(R176 to R220), and the change of a cluster's map (R43, R486, R487). -/

namespace Sys2Proof.Machine

/-! The map (R43, R486, R487) -/

/-- Step 2 of R43: the requests that have been accepted for a core's slice are performed, the fills of its lines among them. -/
def State.drainSlice (s : State) (c p : Nat) : State :=
  let s := s.settle p ((s.hal p).reqs.flatMap HReq.words)
  let mine := fun r : CReq => decide (r.da / 2 ^ 28 = c)
  let l := s.caches.flatMap fun e => (e.2.fills.filter mine).map fun r => (e.1, r)
  let s := { s with caches := tmap (fun _ x => { x with fills := x.fills.filter fun r => !mine r }) s.caches }
  l.foldl (fun s e => s.fillFor e.1 e.2) s

/-- R186, R43, R487: a logical core loses its halyard; a spare takes its place where one is free. -/
def State.mapOut (s : State) (c p : Nat) : State :=
  let h := c / 64
  let j := (s.jobOf c).getD 0
  let s := s.report ⟨c / 256 + 1, 0x06, srcOf 1 c, (s.core c).job, h, (s.core c).stage, 0, 0⟩
  let s := (((s.clearCore c).drainSlice c p).dropSliceLines c).degradedInService
  let gen := (s.mapGen + 1) % 2 ^ 16
  let cl := s.clu h
  let s := { s with mapGen := gen }
  let s := ((s.advanceEpoch c).keepLinks j).dropGrants [c]
  let s : State := match cl.spares with
    | [] => ({ s with map := tput s.map c 0 } : State).setClu h { cl with mapGen := gen }
    | q :: rest =>
      let np := h * 72 + q
      let s := ({ s with map := tput s.map c (q + 1) } : State).setClu h { cl with mapGen := gen, spares := rest }
      let s := (List.range 128).foldl (fun (s : State) b => s.zeroBank np b) s
      let jb := s.job j
      let s := match jb.rc.cores.find? (fun e : CoreEntry => e.lcore = c) with
        | some e => (s.setRegions np e.regions).setJob j { jb with mappedOut := jb.mappedOut ++ [c] }
        | none => s
      s.raiseAlert 4
  match (s.copiesLost c).queCopyLost c with
  | (s, true) => s.queueLost
  | (s, false) => s

/-- R189, R190, R176: one grant. `mismatches` is the number of CAPAR mismatches in a row; a fourth one fails a command via. -/
def execHalyardGrant (c : Nat) (u : List Upset) (mismatches : Nat) (s : State) : Host.Outcome State Fault Refusal :=
  unit (decide (c < 1280))
    (match s.phys c with
     | none => s
     | some p =>
      if !s.dieRuns (c / 256) then s
      else
        let x := s.hal p
        let s := s.setHal p { x with via := { x.via with capRetry := min 0xFF (x.via.capRetry + min mismatches 3) } }
        if 4 ≤ mismatches then
          let (v, s) := s.free
          let x := s.hal p
          s.setHal p { x with via := x.via.dueVia (576 + v % 44) }
        else
          match s.nextGrant p (s.bankFree p) fun _ => true with
          | some r => (s.upsets p (r.off / 128) u).grantReq p r
          | none => s)

/-- R241: at a step boundary of an active unit, up to 16 held requests to its bank are granted. -/
def execNbBoundaryService (c b : Nat) (s : State) : Host.Outcome State Fault Refusal :=
  unit (decide (c < 1280) && decide (b < 128))
    (match s.phys c with
     | none => s
     | some p =>
      if s.dieRuns (c / 256) && (tget (s.nbu p).units b).active then s.serveBoundary p b else s)

/-- Issue every owed refresh of a bank. -/
def Hal.payOwed (x : Hal) (b : Nat) : Hal := { x with owed := tput x.owed b 0 }

/-- R243: a unit that was asked to pause stops at its step boundary, and the owed refreshes are issued. -/
def execNbPause (c b : Nat) (s : State) : Host.Outcome State Fault Refusal :=
  unit (decide (c < 1280) && decide (b < 128))
    (match s.phys c with
     | none => s
     | some p =>
      let n := s.nbu p
      let u := tget n.units b
      if s.dieRuns (c / 256) && u.active && u.pauseReq && !u.paused then
        (s.setNbu p { n with units := tput n.units b { u with paused := true } }).setHal p ((s.hal p).payOwed b)
      else s)

/-- R469: in an emergency a unit resumes as the oldest paused one, while fewer units run than the limit. -/
def Nbu.mayResume (n : Nbu) (b : Nat) : Bool :=
  decide ((n.units.filter fun e => e.2.active && !e.2.paused).length < n.limitNow) &&
    n.units.all fun e => !e.2.active || !e.2.paused || decide ((tget n.units b).seq ≤ e.2.seq)

/-- R243: after the refreshes the held requests are granted, and the unit resumes with its state kept. -/
def execNbResume (c b : Nat) (s : State) : Host.Outcome State Fault Refusal :=
  unit (decide (c < 1280) && decide (b < 128))
    (match s.phys c with
     | none => s
     | some p =>
      if s.dieRuns (c / 256) && (tget (s.nbu p).units b).paused && (!s.pwr.emergency || (s.nbu p).mayResume b) then
        let s := s.serveBoundary p b
        let n := s.nbu p
        s.setNbu p { n with units := tput n.units b { tget n.units b with paused := false, pauseReq := false } }
      else s)

/-- A write to a word has been accepted and not yet performed. -/
def Hal.writesTo (x : Hal) (w : Nat) : Bool :=
  (x.merge.any fun e => decide (e.word = w)) || x.reqs.any fun r => r.write && decide (r.off / 32 ≤ w) && decide (w * 32 < r.off + r.len)

/-- R205, R217: write a corrected word back as a request of a class, which takes its turn, unless a write to it has been accepted since. -/
def State.writeBack (s : State) (p w cls : Nat) : State :=
  let b : By := ⟨.ownCore, cls, 0, none, 0, false⟩
  if (s.hal p).writesTo w then s
  else
    let s := s.turn p b (w * 32) 32 true
    match s.readWord p w with
    | .fixed d _ _ => (s.grant p b (bankOf (w * 32))).putWord p w d
    | _ => s

def execCorrectedWriteback (c : Nat) (s : State) : Host.Outcome State Fault Refusal :=
  unit (decide (c < 1280))
    (match s.phys c with
     | none => s
     | some p =>
      match (s.hal p).fix with
      | [] => s
      | w :: t => if !s.dieRuns (c / 256) then s else (s.setHal p { s.hal p with fix := t }).writeBack p w 2)

/-- R217: write back a word that the scrubber corrected, in an idle cycle. -/
def execScrubWriteback (c : Nat) (s : State) : Host.Outcome State Fault Refusal :=
  unit (decide (c < 1280))
    (match s.phys c with
     | none => s
     | some p =>
      match (s.hal p).scrubFix with
      | [] => s
      | w :: t =>
        if !s.dieRuns (c / 256) || !(eligible (s.bankFree p) (s.hal p).reqs []).isEmpty then s
        else (s.setHal p { s.hal p with scrubFix := t }).writeBack p w 3)

/-- R212: the age count of the oldest entry reaches 64. -/
def execMergeAgeFlush (c : Nat) (s : State) : Host.Outcome State Fault Refusal :=
  unit (decide (c < 1280))
    (match s.phys c with
     | none => s
     | some p =>
      match (s.hal p).merge with
      | [] => s
      | e :: _ => if s.dieRuns (c / 256) then s.flushWhere p (fun f => decide (f.word = e.word)) 2 else s)

/-- The oldest write that waits for its home, for whose line no invalidation is outstanding, with no older request to its words. -/
def confirmable (sent : HReq → Bool) : List HReq → List Nat → Option HReq
  | [], _ => none
  | r :: t, seen => if r.waits && !sent r && !r.words.any seen.contains then some r else confirmable sent t (seen ++ r.words)

/-- R254: the home cache confirms the oldest waiting write whose line no sharer holds any more: the controller accepts it, and it takes
its turn. -/
def execSealedWriteConfirm (c : Nat) (s : State) : Host.Outcome State Fault Refusal :=
  unit (decide (c < 1280))
    (match s.phys c with
     | none => s
     | some p =>
      if !s.dieRuns (c / 256) then s
      else
        match confirmable (fun r => s.invals.any fun e => decide (e.2.1 = lineOf c r.off)) (s.hal p).reqs [] with
        | none => s
        | some r =>
          let s := s.dropHome (lineOf c r.off) true
          let x := s.hal p
          let go := { r with waits := false }
          (s.setHal p { x with reqs := x.reqs.map fun t => if t = r then go else t }).serveWhile p (s.bankFree p) (fun _ => true)
            (fun x _ => x.reqs.contains go) x.reqs.length)

/-! Refresh and windows (R193 to R197, R243, R244) -/

/-- R194: a bank's refresh falls due. At a count of 4 its unit is asked to pause; one that stands paused already (R469) has every owed
refresh and this one issued at once. -/
def execRefreshDue (c b : Nat) (s : State) : Host.Outcome State Fault Refusal :=
  unit (decide (c < 1280) && decide (b < 128))
    (match s.phys c with
     | none => s
     | some p =>
      if !s.dieRuns (c / 256) || s.bankFree p b then s
      else
        let x := s.hal p
        let k := tget x.owed b
        if k < 4 then
          s.setHal p { x with owed := tput x.owed b (k + 1)
                              owedMax := tput x.owedMax (b / 16) (max (tget x.owedMax (b / 16)) (k + 1)) }
        else if (tget (s.nbu p).units b).paused then s.setHal p (x.payOwed b)
        else
          let n := s.nbu p
          let s := s.setNbu p { n with units := tput n.units b { tget n.units b with pauseReq := true } }
          s.setHal p { x with pauses := wrap 32 (x.pauses + 1) })

/-- R194: an owed refresh is issued once the bank is free. -/
def execRefreshOwedIssue (c b : Nat) (s : State) : Host.Outcome State Fault Refusal :=
  unit (decide (c < 1280) && decide (b < 128))
    (match s.phys c with
     | none => s
     | some p =>
      if s.dieRuns (c / 256) && s.bankFree p b then
        let x := s.hal p
        s.setHal p { x with owed := tput x.owed b (tget x.owed b - 1) }
      else s)

/-- The half of a data or check via: 0 lower, 1 upper (R173). -/
def viaHalf (v : Nat) : Nat := if v < 512 then v / 256 else (v - 512) / 32

/-- Assign data spares to the given vias in order (R181). -/
def assignSpares (first : Nat) (svc : Bool) (vs : List Nat) (t : Tbl Spare) : Tbl Spare :=
  (vs.zipIdx).foldl (fun t e => tput t (first + e.2) ⟨true, svc, e.1⟩) t

/-- R182: the half that holds fewer bad vias, the lower one at equal counts. -/
def betterHalf (bad : List Nat) : Nat :=
  let n := fun h => (bad.filter fun w => decide (viaHalf w = h)).length
  if n 0 ≤ n 1 then 0 else 1

/-- R186: retire one via. The second value is true when the halyard came to use another width or half, the third when the core is
lost. A via of the half that is not in use takes no spare. -/
def Hal.retire (x : Hal) (v : Nat) : Hal × Bool × Bool :=
  let via := { x.via with due := x.via.due.filter (· ≠ v), retired := wrap 8 (x.via.retired + 1) }
  if v < 576 then
    let bad := if via.bad.contains v then via.bad else via.bad ++ [v]
    let via := { via with lastVia := v, bad := bad }
    if x.half ∧ viaHalf v ≠ (if x.halfSel then 1 else 0) then ({ x with via := via }, false, false)
    else
      match (List.range 32).find? (fun k => !(tget via.spares k).valid) with
      | some k => ({ x with via := { via with spares := tput via.spares k ⟨true, true, v⟩ } }, false, false)
      | none =>
        let h := betterHalf bad
        let kept := (List.range 576).filter fun w => bad.contains w && decide (viaHalf w = h)
        if 32 < kept.length then ({ x with via := via }, false, true)
        else
          let sp := assignSpares 0 true kept (via.spares.filter fun e => 32 ≤ e.1)
          ({ x with half := true, halfSel := decide (h = 1), degraded := true, via := { via with spares := sp } }, true, false)
  else
    let via := { via with lastCa := v - 576 }
    match (List.range 4).find? (fun k => !(tget via.spares (32 + k)).valid) with
    | some k => ({ x with via := { via with spares := tput via.spares (32 + k) ⟨true, true, v - 576⟩ } }, false, false)
    | none => ({ x with via := via }, false, true)

/-- R181, R185, R186: retire the vias that are due, in ascending order, until the core is lost; a spare core that fails is no spare any
more. -/
def State.retireVias (s : State) (p : Nat) : List Nat → State
  | [] => s
  | v :: t =>
    match (s.hal p).retire v with
    | (x, half, lost) =>
      let s := s.setHal p x
      match s.lcoreOf p with
      | some c =>
        let s := if half then
            (s.report ⟨c / 256 + 1, 0x05, srcOf 1 c, (s.core c).job, c / 64, (s.core c).stage, 0, 0⟩).degradedInService
          else s
        if lost then s.mapOut c p else s.retireVias p t
      | none =>
        if lost then s.setClu (p / 72) { s.clu (p / 72) with spares := (s.clu (p / 72)).spares.filter (· ≠ p % 72) } else s.retireVias p t

/-- The highest band among the layers (R196). -/
def Hal.band (x : Hal) : Nat := x.bands.foldl (fun m e => max m e.2) 0

/-- R244: the owed refreshes of a bank whose unit runs: it is paused, and its held requests are granted before it goes on (R243). The pause counts in HAL_REFRESH.PAUSES (log entry 116). -/
def State.pauseFor (s : State) (p b : Nat) : State :=
  let x := s.hal p
  let u := tget (s.nbu p).units b
  let s := s.setHal p { x.payOwed b with pauses := if u.paused then x.pauses else wrap 32 (x.pauses + 1) }
  s.serveBoundary p b

/-- R196, R244: a recalibration window: owed refreshes first, then the trims and the retirements. -/
def State.recal (s : State) (p : Nat) : State :=
  let s := ((s.hal p).owed.filter fun e => decide (e.2 ≠ 0) && !s.bankFree p e.1).foldl (fun s e => s.pauseFor p e.1) s
  let x := s.hal p
  let s := s.setHal p { x with owed := [], bandSet := x.band, recalCount := wrap 8 (x.recalCount + 1) }
  s.retireVias p ((List.range 620).filter x.via.due.contains)

/-- R196: a window opens at a halyard, of a spare core or not, whose band has changed or that has vias to retire (R185). -/
def execRecalWindow (p : Nat) (s : State) : Host.Outcome State Fault Refusal :=
  unit (decide (p < 1440))
    (let x := s.hal p
     if s.dieRuns (p / 288) && (decide (x.band ≠ x.bandSet) || decide (x.via.due ≠ [])) then s.recal p else s)

/-! Scrubber (R216 to R218) -/

/-- The scrubber reads one code word; an entry of the merge buffer that holds it is flushed first (R192, R212). -/
def State.scrubWord (s : State) (c p w : Nat) : State :=
  let s := s.flushWord p w 3
  match s.readWord p w with
  | .ok _ => s
  | .fixed _ sym pat => s.setHal p ((s.hal p).logFix w sym pat true)
  | .bad cause =>
    (s.setHal p ((s.hal p).logBad w cause .scrubber (s.wordFlips (p * 2 ^ 23 + w)))).reportBad p w cause 0 (c / 64)

/-- R218: advance the scrubber by one line. -/
def HalScrub.next (x : HalScrub) (d : Die) : HalScrub :=
  if x.line + 1 < 2 ^ 21 then { x with line := x.line + 1 }
  else { x with line := 0, laps := wrap 16 (x.laps + 1), valid := true, late := false, lockSeq := d.lockSeq,
                cycles := sat 32 (d.count - x.lapStart), lapStart := d.count }

def execScrubLine (c : Nat) (u : List Upset) (s : State) : Host.Outcome State Fault Refusal :=
  unit (decide (c < 1280))
    (match s.phys c with
     | none => s
     | some p =>
      let x := s.hal p
      let line := x.scrub.line
      let b := bankOf (line * 128)
      if !s.dieRuns (c / 256) || !x.scrub.enabled || decide (x.test.mode ≠ 0) || !s.bankFree p b ||
          !(eligible (s.bankFree p) x.reqs []).isEmpty then s
      else
        let s := s.upsets p line u
        let s := (List.range 4).foldl (fun s i => s.scrubWord c p (line * 4 + i)) s
        let x := s.hal p
        s.setHal p { x with scrub := x.scrub.next (s.die (c / 256)), grants := tput x.grants 3 (wrap 64 (tget x.grants 3 + 1)) })

/-- R218: the limit in force. -/
def HalScrub.limitNow (x : HalScrub) : Nat := x.limit.getD 0x00A4CB80

def execScrubLapLate (c : Nat) (s : State) : Host.Outcome State Fault Refusal :=
  unit (decide (c < 1280))
    (match s.phys c with
     | none => s
     | some p =>
      let x := s.hal p
      if s.dieRuns (c / 256) && x.scrub.enabled && decide (x.scrub.limitNow < (s.die (c / 256)).count - x.scrub.lapStart) then
        s.setHal p { x with scrub := { x.scrub with late := true } }
      else s)

/-! Region map and test mode (R200, R215) -/

def execRegionMapWrite (c : Nat) (lo hi : Word) (s : State) : Host.Outcome State Fault Refusal :=
  unit (decide (c < 1280))
    (match s.phys c with
     | none => s
     | some p =>
      if s.dieRuns (c / 256) && (decide ((s.core c).run = 0) || decide ((s.core c).run = 2)) then s.setRegions p (hi ++ lo)
      else s)

/-- The inverse in GF(2^8): the 254th power. -/
def gfInv (a : Nat) : Nat := (List.range 253).foldl (fun x _ => gfMul x a) a

/-- `(X + a)` times a polynomial, lowest coefficient first. -/
def polyTimes (p : List Nat) (a : Nat) : List Nat := List.zipWith (· ^^^ ·) (0 :: p) (p.map (gfMul a) ++ [0])

/-- R203: the check symbols 32 to 35 that make a word valid: what must be added to the four sums, by interpolation at their nodes. -/
def checkSymbols (data : Bytes) : Bytes :=
  let x := fun k => gfPow (32 + k)
  (List.range 4).map fun k =>
    let others := (List.range 4).filter (· ≠ k)
    let num := others.foldl (fun q m => polyTimes q (x m)) [1]
    let den := others.foldl (fun d m => gfMul d (x k ^^^ x m)) 1
    BitVec.ofNat 8 (gfMul (gfInv den) ((List.range 4).foldl (fun a j => a ^^^ gfMul (num.getD j 0) (syndrome j data)) 0))

/-- The check bits that belong to 32 bytes in their region (R203, R206). -/
def State.checkBits (s : State) (p w : Nat) (data : Bytes) : Bytes :=
  if (s.hal p).isOpen (bankOf (w * 32)) then leBytes 4 (residue data) else checkSymbols data

/-- R215, MODE 1: data and check bits are stored as they are. -/
def State.writeRaw (s : State) (p w : Nat) (data : Bytes) (check : Nat) : State :=
  let s := match s.asksHome p (w * 32) with | some line => s.dropHome line true | none => s
  let s := (s.dropLines p fun l => decide (l.off / 128 = w / 4)).putWord p w data
  { s with flips := tputs s.flips ((p * 2 ^ 23 + w) * 36 + 32) (xorBytes (leBytes 4 check) (s.checkBits p w data)) }

/-- R215, MODE 2: the check bits stored with a word. -/
def State.rawCheck (s : State) (p w : Nat) : Nat :=
  let pw := p * 2 ^ 23 + w
  ofLe (xorBytes (s.checkBits p w (s.wordMem pw)) ((s.wordFlips pw).drop 32))

/-- An access of the management core to the bank under test. In MODE 1 a write of one whole aligned word is stored raw and a narrower
one is refused; in MODE 2 a read of one word copies its check bits. Any other access follows the normal rules (log entry 82). -/
def State.testAccess (s : State) (p b : Nat) (a : TestAcc) : State :=
  let x := s.hal p
  let off := b * 2 ^ 21 + a.off % 2 ^ 21
  let word := decide (off % 32 = 0) && decide (a.len = 32)
  let by' : By := ⟨.ownCore, 2, 0, none, 20, false⟩
  if a.write then
    if x.test.mode = 1 then
      if word && decide (a.data.length = 32) then
        let s := s.setHal p { x with test := { x.test with check := a.check % 2 ^ 32 } }
        s.writeRaw p (off / 32) a.data (a.check % 2 ^ 32)
      else s
    else if a.off % 2 ^ 21 + a.data.length ≤ 2 ^ 21 then s.writeNow p off a.data (fun _ => true) false by' else s
  else if x.test.mode = 2 && word then s.setHal p { x with test := { x.test with check := s.rawCheck p (off / 32) } }
  else if a.off % 2 ^ 21 + a.len ≤ 2 ^ 21 then (s.readSlice p off a.len by').1 else s

/-- R215: HAL_TEST_CTL written by management firmware, and its accesses to the bank while the mode holds. -/
def execTestModeEnable (c mode : Nat) (b : TestRun) (s : State) : Host.Outcome State Fault Refusal :=
  unit (decide (c < 1280) && decide (b.bank < 128) && decide (mode < 3))
    (match s.phys c with
     | none => s
     | some p =>
      let x := s.hal p
      if !s.dieRuns (c / 256) then s
      else if mode = 0 then s.setHal p { x with test := { x.test with mode := 0, refused := false, bank := b.bank } }
      else if (s.core c).run = 0 ∨ (s.core c).run = 2 then
        let s := s.flushNow p fun _ => true
        let s := s.setHal p { s.hal p with test := ⟨mode, false, b.bank, (s.hal p).test.check⟩ }
        b.acc.foldl (fun s a => s.testAccess p b.bank a) s
      else s.setHal p { x with test := { x.test with mode := 0, refused := true } })

end Sys2Proof.Machine
end

