-- ==== Sys2Proof/Machine/Control.lean ====
section
/-! DEFINITION. Control and system class of a core: branches, fences, END, the privileged instructions, and the events that
reach a core (R65, R66, R74, R138 to R146). -/

namespace Sys2Proof.Machine

/-- Format C: everything that is not named is zero, the fields that the instruction does not use as well (log entry 111). -/
def cOk (f : BitVec 56) (rd ra : Bool) : Bool :=
  zeros f ([(53, 3), (38, 5), (16, 22)] ++ (if rd then [] else [(48, 5)]) ++ (if ra then [] else [(43, 5)]))

def execNop (c : Nat) (f : BitVec 56) (s : State) : Host.Outcome State Fault Refusal :=
  runCore c s fun s _ => legal s (cOk f false false && decide (cImm f = 0)) (.done s)

/-! Branches (R138, R139) -/

/-- A target that 48 bits hold. -/
def branchTo (s : State) (t : Int) (k : State) : Ir :=
  if t < 0 ∨ 2 ^ 48 ≤ t then .exc s causeRange 0 else .jump k t.toNat

/-- BR: COND, RA, RB, OFF40. -/
def execBr (c : Nat) (f : BitVec 56) (s : State) : Host.Outcome State Fault Refusal :=
  runCore c s fun s x =>
    let cond := fPG f
    let ra := fld f 48 5
    let rb := fld f 43 5
    let pr := decide (6 ≤ cond)
    legal s (zeros f [(40, 3)] && (!pr || (decide (rb = 0) && decide (ra < 8))))
      (if branchCond cond (x.sreg ra) (x.sreg rb) (x.preg ra) then branchTo s ((x.pc : Int) + 8 * sext 40 (fld f 0 40)) s else .done s)

def execJal (c : Nat) (f : BitVec 56) (s : State) : Host.Outcome State Fault Refusal :=
  runCore c s fun s x =>
    legal s (zeros f [(53, 3)])
      (branchTo s ((x.pc : Int) + 8 * sext 48 (fld f 0 48)) (s.setCore c (x.setS (fRD f) (BitVec.ofNat 64 (x.pc + 8)))))

def execJalr (c : Nat) (f : BitVec 56) (s : State) : Host.Outcome State Fault Refusal :=
  runCore c s fun s x =>
    legal s (iOk f)
      (let t := (x.sreg (fRA f) + ofI (iImm f)).toNat
       if t % 8 ≠ 0 then .exc s causeAlign 0
       else if 2 ^ 48 ≤ t then .exc s causeRange 0
       else .jump (s.setCore c (x.setS (fRD f) (BitVec.ofNat 64 (x.pc + 8)))) t)

/-! Fences (R65, R66) -/

/-- Flush or hold every merge-buffer entry of the core's own writes. -/
def State.flushOwn (s : State) (c : Nat) : State :=
  match s.phys c with
  | none => s
  | some p => s.flushWhere p (·.own) 2

/-- Start the read-back of host memory that the core has stored to. -/
def State.readBackCore (s : State) (c : Nat) : State :=
  match (s.core c).hostDirty, (s.core c).readBack with
  | some a, none =>
    if s.readsFull 1 then s
    else if s.hostOk a 1 then
      let (t, s) := s.hostRead a 1
      s.setCore c { s.core c with readBack := some t }
    else (s.setCore c { s.core c with hostDirty := none }).imprecise c ⟨causePoison, 2 * 2 ^ 40 + a, 0, 0⟩
  | _, _ => s

/-- Kind MEM is complete: flushes done, posted writes acknowledged, host memory read back. -/
def State.memDone (s : State) (c : Nat) : Bool :=
  let x := s.core c
  decide (x.outst = 0) && x.hostDirty.isNone &&
    (match s.phys c with
     | some p => !(s.hal p).reqs.any (fun r => r.flush && r.ack) && !(s.hal p).merge.any (·.own)
     | none => true)

/-- Kind ARR: no array operation, no stationary load. -/
def Core.arrDone (x : Core) : Bool := decide (x.mPending = 0) && (!x.blk.held || x.blk.shifted)
/-- Kind MSG. -/
def Core.msgDone (x : Core) : Bool := x.m.all fun e => decide (e.2.pending = 0)

/-- The kinds `k` (bits 0 MEM, 1 ARR, 2 NB, 3 STR, 4 MSG) are complete, with no fault on its way to the core (R66). -/
def State.fenceDone (s : State) (c k : Nat) : Bool :=
  let x := s.core c
  (!k.testBit 0 || s.memDone c) && (!k.testBit 1 || x.arrDone) && (!k.testBit 2 || decide (x.ticketMask = 0)) &&
    (!k.testBit 3 || decide (x.sActive = 0)) && (!k.testBit 4 || x.msgDone) && (decide (k % 16 = 0) || x.impr.isEmpty)

/-- What a fence of the kinds `k` starts, and whether it is complete; the instruction cache (bit 5) is invalidated as it completes. -/
def State.fence (s : State) (c k : Nat) : State × Bool :=
  let s := if k.testBit 0 then (s.flushOwn c).readBackCore c else s
  if s.fenceDone c k then (if k.testBit 5 then s.setCore c (s.core c).dropICache else s, true) else (s, false)

def execFence (c : Nat) (f : BitVec 56) (s : State) : Host.Outcome State Fault Refusal :=
  runCore c s fun s _ =>
    legal s (cOk f false false && decide (cImm f < 64))
      (match s.fence c (cImm f) with
       | (s, true) => .done s
       | (s, false) => .wait s)

/-- R140: RDCTR. -/
def execRdctr (c : Nat) (f : BitVec 56) (s : State) : Host.Outcome State Fault Refusal :=
  runCore c s fun s x =>
    let d := s.die (c / 256)
    legal s (cOk f true false && decide (cImm f < 2))
      (doneS s c (fRD f) (BitVec.ofNat 64
        (if cImm f = 1 then d.lockSeq else if x.fw then d.count else d.count / 10800 * 10800 / 2 ^ 12 * 2 ^ 12)))

/-! END (R141, R270) -/

/-- SCLR REGS: the registers, the descriptors, the ports and the block (R142). -/
def State.clearRegs (s : State) (c : Nat) : State :=
  let s := (List.range 8).foldl (fun s m => s.unbindPort c m) s
  s.setCore c { s.core c with s := [], v := [], p := [], a := [], q := [], badTiles := [], badStreams := [], blk := default, blkOld := [] }

/-- The role of a core ends: firmware clears its registers and ports at once; the last END of a job ends the job. -/
def State.endRole (s : State) (c : Nat) : State :=
  let x := s.core c
  let s := (s.setCore c (x.enterFw 1 2 (x.pc + 8))).clearRegs c
  if x.job = 0 then s
  else
    let j := s.job x.job
    let s := s.setJob x.job { j with ended := j.ended ++ [c] }
    if j.cores.all fun k => decide (k = c) || j.ended.contains k then s.endJob x.job else s

def execEndRole (c : Nat) (f : BitVec 56) (s : State) : Host.Outcome State Fault Refusal :=
  runCore c s fun s x =>
    legal s (cOk f false false && decide (cImm f = 0))
      (match s.fence c 63 with
       | (s, true) => if x.fw then .done s else .wait (s.endRole c)
       | (s, false) => .wait s)

/-! System registers (R142) -/

/-- What SYSR reads. -/
def Core.sysReg (x : Core) (i : Nat) : Option Word :=
  match i with
  | 0 => some (BitVec.ofNat 64 x.ctx)
  | 1 => some (x.reg 0x08)
  | 2 => some (x.reg 0x10)
  | 3 => some (x.reg 0x18)
  | 4 => some (BitVec.ofNat 64 x.sys.entry)
  | 5 => some (BitVec.ofNat 64 x.sys.userPc)
  | 6 => some (flagWord x.sys.clean)
  | 8 => some x.sys.fwVector
  | _ => none

def execSysr (c : Nat) (f : BitVec 56) (s : State) : Host.Outcome State Fault Refusal :=
  runCore c s fun s x =>
    privileged s x (cOk f true false && (x.sysReg (cImm f)).isSome)
      (match x.sysReg (cImm f) with
       | some w => doneS s c (fRD f) w
       | none => .exc s causeIllegal 0)

def execSysw (c : Nat) (f : BitVec 56) (s : State) : Host.Outcome State Fault Refusal :=
  runCore c s fun s x =>
    privileged s x (cOk f false true && decide (cImm f = 8))
      (.done (s.setCore c { x with sys := { x.sys with fwVector := x.sreg (fRA f) &&& ~~~7 } }))

/-! Clearing and switching (R142 to R146) -/

/-- SCLR ABORT: array operations, the pending stationary load, active streams and tickets are cancelled. -/
def State.abortOps (s : State) (c : Nat) : State :=
  let s := s.abortTickets c
  let x := s.core c
  let x := { x with arr := [], blk := if x.blk.held && !x.blk.shifted then default else x.blk }
  let live := (x.q.filter fun e => decide (e.2.state = 1)).map (·.1)
  s.setCore c (live.foldl (fun x q => (x.dropQ q).setDesc q { x.desc q with state := 3, puts := [] }) x)

/-- SCLR DRAIN: every entry of the slice's merge buffer is flushed (R212), faults that reach the core are recorded and reported, and
what is left to wait for. -/
def State.drained (s : State) (c : Nat) : State × Bool :=
  let s := match s.phys c with | some p => s.flushWhere p (fun _ => true) 2 | none => s
  let s := (s.drainFaults c).readBackCore c
  let flushed := match s.phys c with | some p => !(s.hal p).reqs.any (·.flush) | none => true
  (s, flushed && s.memDone c && (s.core c).msgDone && (s.core c).impr.isEmpty)

/-- SCLR SBUF: lines in flight are dropped as they arrive. -/
def Core.dropLines (x : Core) : Core :=
  { x with sbuf := (x.sbuf.filter (fun l => !l.arrived)).map (fun l => { l with dead := true }) }

/-- Actions 2 to 6 of SCLR. -/
def State.clearActions (s : State) (c k : Nat) : State :=
  let s := if k.testBit 2 then s.clearRegs c else s
  let s := if k.testBit 3 then s.scratchClear c else s
  let x := s.core c
  let x := if k.testBit 4 then x.dropICache else x
  let x := if k.testBit 6 then x.dropLines else x
  s.setCore c { x with sys := { x.sys with clean := x.sys.clean || k.testBit 3
                                           cold := x.sys.cold || (k.testBit 4 && k.testBit 5 && k.testBit 6) } }

def execSclr (c : Nat) (f : BitVec 56) (s : State) : Host.Outcome State Fault Refusal :=
  runCore c s fun s x =>
    privileged s x (cOk f false false && decide (cImm f < 128))
      (let k := cImm f
       let s := if k.testBit 0 then s.abortOps c else s
       if k.testBit 1 then
         match s.drained c with
         | (s, true) => .done (s.clearActions c k)
         | (s, false) => .wait s
       else .done (s.clearActions c k))

/-- R145: no array operation, stream or ticket is outstanding. -/
def Core.quiet (x : Core) : Bool := decide (x.mPending = 0) && decide (x.sActive = 0) && decide (x.ticketMask = 0)

def execCtxset (c : Nat) (f : BitVec 56) (s : State) : Host.Outcome State Fault Refusal :=
  runCore c s fun s x =>
    let w := x.sreg (fRA f)
    privileged s x (cOk f false true && decide (cImm f = 0))
      (if 256 ≤ w.toNat then .exc s causeIllegal 0
       else if x.quiet then .done (s.setCore c { x with ctx := w.toNat }) else .held false)

/-- R144: UENTER. It clears the registers first; while it then waits, the core holds the pc that it goes to. -/
def execUenter (c : Nat) (f : BitVec 56) (s : State) : Host.Outcome State Fault Refusal :=
  runCore c s fun s x =>
    privileged s x (cOk f false true && decide (cImm f = 0))
      (if !x.sys.clean || !x.sys.cold then .exc s causeIllegal 0
       else
        let pc := x.sys.uenter.getD ((x.sreg (fRA f)).toNat % 2 ^ 48 / 8 * 8)
        let s := s.clearRegs c
        let y := s.core c
        if !y.quiet then .wait (s.setCore c { y with sys := { y.sys with uenter := some pc } })
        else
          .jump (s.setCore c { y with run := 3, fw := false, exc := default, tickets := [], impr := [], issue := 0
                                      sys := { y.sys with uenter := none } }) pc)

/-! Events of a core (R74, R75, R143) -/

/-- R74: the oldest fault of asynchronous work reaches its core at an issue boundary. -/
def execImpreciseException (c : Nat) (s : State) : Host.Outcome State Fault Refusal :=
  unit (decide (c < 1280))
    (let x := s.core c
     match x.impr with
     | [] => s
     | f :: t =>
      if !s.backed c || !s.dieRuns (c / 256) || x.wait.isSome then s
      else
        let s := s.setCore c { x with impr := t }
        if !x.fw then s.takeExc c f true
        else
          let s := s.setCore c ((s.core c).noteFault f)
          if x.run = 5 then s else s.reportExc c f.cause f.addr)

/-- R143: a management request of the die. -/
def execManagementRequest (c : Nat) (s : State) : Host.Outcome State Fault Refusal :=
  unit (decide (c < 1280))
    (let x := s.core c
     if !s.canIssue c || x.fw then s else s.setCore c (x.enterFw 2 6 x.pc))

end Sys2Proof.Machine
end

