-- ==== Sys2Proof/Machine/Jobs.lean ====
section
/-! DEFINITION. Placement records and their checks, PLACE and RETIRE, fault collectors, restarts, and the notices of other
modules (R264 to R283, R397, R477 to R487, R531). -/

namespace Sys2Proof.Machine

/-! Reading a record (R269, R531) -/

/-- Every bank under a range of space 0x00 is sealed and backed. -/
def State.sealedRange (s : State) (da len : Nat) : Bool :=
  (List.range (len / 2 ^ 21 + 2)).all fun i =>
    let a := max da (da / 2 ^ 21 * 2 ^ 21 + i * 2 ^ 21)
    decide (da + len ≤ a) || s.bankSealed a

/-- Management firmware reads bytes of slices: none at an error. -/
def State.readFw (s : State) : List (Nat × Nat) → State × Option Bytes
  | [] => (s, some [])
  | (da, len) :: t =>
    match s.dmaRead byHub da len with
    | (s, .ok d) =>
      match s.readFw t with
      | (s, some r) => (s, some (d ++ r))
      | (s, none) => (s, none)
    | (s, .error _) => (s, none)

/-- Read `len` bytes of a record at `da`: `ext` holds the bytes of host memory. -/
def State.readRecord (s : State) (ext : HostReply) (da len : Nat) : State × Option Bytes :=
  if da % 64 ≠ 0 then (s, none)
  else if da / 2 ^ 40 = 2 then
    if !s.hostOk (da % 2 ^ 40) len then (s, none)
    else
      let s := s.hostReads (da % 2 ^ 40) len
      if ext.has len then (s, some (ext.bytes.take len)) else (s, none)
  else if da / 2 ^ 40 = 0 ∧ s.sealedRange da len then s.readFw (piecesOf (da, len))
  else (s, none)

/-! The fields of a record (R265 to R267) -/

def coreEntryOf (b : Bytes) : CoreEntry := ⟨leAt b 0 2, leAt b 2 2, leAt b 8 8, leAt b 0x10 8, leAt b 0x18 8⟩
def portEntryOf (b : Bytes) : PortEntry :=
  ⟨leAt b 0 2, leAt b 2 2, leAt b 4 1, leAt b 5 1, leAt b 6 1, (leAt b 7 1).testBit 0, leAt b 8 2, leAt b 0xA 2, leAt b 0xC 4⟩

def recCores (b : Bytes) : List Bytes := (List.range (leAt b 0x10 2)).map fun i => (b.drop (64 + 48 * i)).take 48
def recPorts (b : Bytes) : List Bytes :=
  (List.range (leAt b 0x12 2)).map fun i => (b.drop (64 + 48 * leAt b 0x10 2 + 16 * i)).take 16

def recordOf (b : Bytes) : PlaceRec :=
  { bytes := b, segmented := (leAt b 6 2).testBit 0, ctx := leAt b 0xC 1, guidon := leAt b 0xE 2,
    cores := (recCores b).map coreEntryOf, ports := (recPorts b).map portEntryOf,
    qFirst := leAt b 0x14 4, qCount := leAt b 0x18 4, eventUnits := leAt b 0x1C 2, eventBase := leAt b 0x20 4,
    segment := leAt b 0x1E 1, nseg := leAt b 0x1F 1, tag := leAt b 0x28 8 }

/-- A refusal: CODE, INDEX and KIND (R271). -/
abbrev PlaceErr := Nat × Nat × Nat

/-- R264. -/
def recBytesOk (b : Bytes) : Bool :=
  decide (leAt b 8 4 = 64 + 48 * leAt b 0x10 2 + 16 * leAt b 0x12 2) && decide (leAt b 8 4 ≤ 262144)

/-- The CRC of the record, its own field read as zero. -/
def recCrcOk (b : Bytes) : Bool :=
  decide (crcFeed 0 (crcInit 0) (patch b 0x3C [0, 0, 0, 0]) ^^^ crcFinal 0 = leAt b 0x3C 4)

/-- Check 5 on the header. -/
def headOk (b : Bytes) : Bool :=
  let seg := (leAt b 6 2).testBit 0
  let g := leAt b 0xE 2
  decide (leAt b 6 2 < 2) && decide (leAt b 0xD 1 = 0) && (decide (g = 0xFFFF) || decide (g < leAt b 0x10 2)) &&
    (decide (g ≠ 0xFFFF) || decide (leAt b 0x18 4 = 0)) && decide (leAt b 0x1C 2 ≠ 0) &&
    (if seg then decide (leAt b 0x1F 1 ≠ 0) && decide (leAt b 0x1E 1 ≤ leAt b 0x1F 1)
     else decide (leAt b 0x1E 1 = 0) && decide (leAt b 0x1F 1 = 0) && decide (leAt b 0x28 8 = 0)) &&
    decide (leAt b 0x20 4 % 64 = 0) && decide (leAt b 0x24 4 = 0) && decide (leAt b 0x30 12 = 0)
/-- Check 5 on a core entry and on a port entry. -/
def coreOk (e : Bytes) : Bool := decide (leAt e 0 2 < 2048) && decide (leAt e 4 4 = 0) && decide (leAt e 0x20 16 = 0)
def portOk (e : Bytes) : Bool :=
  decide (leAt e 4 1 < 8) && decide (leAt e 5 1 < 8) && decide (leAt e 6 1 ≠ 0) && decide (leAt e 7 1 < 2) &&
    decide (leAt e 8 2 ≠ 0) && decide (leAt e 0xA 2 ≠ 0) && decide (leAt e 0xC 4 % 64 = 0)
/-- Check 6 on the header and on a port entry. -/
def headFits (b : Bytes) : Bool :=
  decide (leAt b 0x10 2 ≤ 1280) && decide (leAt b 0x12 2 ≤ 10240) && decide (leAt b 0x18 4 ≤ 65536) &&
    decide (leAt b 0x14 4 + leAt b 0x18 4 ≤ 65536) && decide (leAt b 0x1C 2 ≤ 8192) && decide (leAt b 0x20 4 + 64 * leAt b 0x1C 2 ≤ 2 ^ 20)
def portFits (e : Bytes) : Bool := decide (leAt e 6 1 ≤ 32) && decide (leAt e 8 2 ≤ 8192) && decide (leAt e 0xA 2 ≤ 8192)

/-- Index of the first entry that fails. -/
def firstBad {α : Type} (ok : α → Bool) (l : List α) : Option Nat := (l.zipIdx.find? fun e => !ok e.1).map (·.2)

/-- Checks 5 and 6 of R531. -/
def fieldErr (b : Bytes) : Option PlaceErr :=
  if !headOk b then some (1, 0, 0)
  else
    match firstBad coreOk (recCores b), firstBad portOk (recPorts b) with
    | some i, _ => some (1, i, 0)
    | none, some i => some (1, i, 1)
    | none, none =>
      if !headFits b then some (2, 0, 0) else (firstBad portFits (recPorts b)).map fun i => (2, i, 1)

/-! The module's state (R268, R412) -/

/-- Live jobs, with their numbers. -/
def State.live (s : State) : List (Nat × Job) := s.jobs.filter fun e => decide (e.2.state ≠ 0)

/-- R412: the entry lies inside the context's capabilities. -/
def State.inCapabilities (s : State) (ctx : Nat) (e : CoreEntry) : Bool :=
  let own := fun c b : Nat => let o := s.owner c b; o.owned && decide (o.ctx = ctx)
  (match s.decodeDA e.entryPc with
   | some (.slice c off) => own c (bankOf off)
   | _ => false) &&
  (match s.phys e.lcore with
   | some p => (List.range 128).all fun b => bit (s.hal p).region b == bit e.regions b || own e.lcore b
   | none => false) &&
  (s.claims (e.lcore / 64)).all fun k => decide (k = ctx)

/-- Check 8: CORE or CONTEXT, entry by entry. -/
def State.coreErr (s : State) (ctx : Nat) (l : List CoreEntry) : Option PlaceErr :=
  l.zipIdx.findSome? fun e =>
    let c := e.1.lcore
    if !s.backed c || decide (s.lcoreLimit ≤ c) || (l.take e.2).any (fun k => decide (k.lcore = c)) || (s.jobOf c).isSome then some (4, e.2, 0)
    else if !s.inCapabilities ctx e.1 then some (5, e.2, 0) else none

/-- A ring on a core: the port that names it (7 for an event ring), base and size in bytes. -/
abbrev Ring := Nat × Nat × Nat

/-- The rings of one record on a core. -/
def PlaceRec.rings (r : PlaceRec) (c : Nat) : List Ring :=
  (r.ports.filter fun p => decide (p.dst = c)).map (fun p => (p.dport, p.base, 64 * p.units)) ++
    (match r.cores[r.guidon]? with | some e => if e.lcore = c then [(7, r.eventBase, 64 * r.eventUnits)] else [] | none => [])
def PlaceRec.guidonCore (r : PlaceRec) : Option Nat := (r.cores[r.guidon]?).map (·.lcore)

/-- Check 9 on one port entry, with the entries before it in the record. -/
def State.portErr (s : State) (r : PlaceRec) (before : List PortEntry) (p : PortEntry) : Option Nat :=
  let mine := fun c : Nat => r.cores.any fun e => decide (e.lcore = c)
  let recs := (s.live.map fun e => e.2.rc) ++ [r]
  let other := (s.live.map fun e => e.2.rc).flatMap (·.ports)
  let ends := [p.src, p.dst].filter fun c => !mine c
  let ring := (p.base, 64 * p.units)
  let into := (other ++ r.ports).filter fun q => decide (q.dst = p.dst) && decide (q.dport = p.dport)
  let clash := fun q : Ring => decide (q.1 ≠ p.dport) && decide (q.2.1 < p.base + 64 * p.units) && decide (p.base < q.2.1 + q.2.2)
  if ends.any (fun c => !p.linked || (s.jobOf c).isNone) then some 6
  else if ends.any (fun c => match s.jobOf c with | some j => decide ((s.job j).rc.ctx ≠ r.ctx) | none => false) then some 5
  else if p.linked && ends.isEmpty then some 6
  else if (other ++ before).any (fun q => decide (q.src = p.src) && decide (q.sport = p.sport)) then some 6
  else if into.any (fun q => decide ((q.base, 64 * q.units) ≠ ring)) then some 6
  else if 2 ^ 20 < p.base + 64 * p.units then some 6
  else if recs.any (fun x => (x.rings p.dst).any clash) then some 6
  else if recs.any (fun x => (decide (x.guidonCore = some p.src) && decide (p.sport = 7)) || (decide (x.guidonCore = some p.dst) && decide (p.dport = 7))) then
    some 6
  else if p.units < (into.map (·.credits)).sum + (into.map (·.maxlen)).foldl max 0 - 1 then some 7
  else none

/-- Check 9 on the guidon's event port, against the entries of live jobs: PORT, with the guidon's core entry (R268; log entry 83). -/
def State.eventErr (s : State) (r : PlaceRec) : Option PlaceErr :=
  match r.guidonCore with
  | none => none
  | some c =>
    let other := (s.live.map fun e => e.2.rc).flatMap (·.ports)
    let clash := fun p : PortEntry => decide (p.dst = c) && decide (p.base < r.eventBase + 64 * r.eventUnits) && decide (r.eventBase < p.base + 64 * p.units)
    if other.any (fun p => (decide (p.src = c) && decide (p.sport = 7)) || (decide (p.dst = c) && decide (p.dport = 7)) || clash p) then
      some (6, r.guidon, 0)
    else none

/-- Check 9 on the ports and the queue range. -/
def State.portsErr (s : State) (r : PlaceRec) : Option PlaceErr :=
  match r.ports.zipIdx.findSome? (fun e => (s.portErr r (r.ports.take e.2) e.1).map fun k => (k, e.2, 1)) with
  | some e => some e
  | none =>
    if (s.eventErr r).isSome then s.eventErr r
    else if s.live.any (fun e => decide (r.qFirst < e.2.rc.qFirst + e.2.rc.qCount) && decide (e.2.rc.qFirst < r.qFirst + r.qCount)) ∧ r.qCount ≠ 0 then
      some (9, 0, 0)
    else none

/-! PLACE (R269) -/

/-- A free value taken among a list. -/
def State.pick (s : State) (l : List Nat) : Nat × State :=
  let (v, s) := s.free
  (l.getD (v % l.length) 0, s)

/-- HUB channels that firmware may make a payload channel: not privileged, not enabled, idle, no job's. -/
def State.freeChannels (s : State) : List Nat :=
  ((List.range 256).filter fun k => decide (8 ≤ k)).filter fun k =>
    !(s.chan k).enable && (s.chan k).run.isNone && !s.live.any fun e => decide (e.2.payCh = k)

/-- R421: the payload channel of a job that has a guidon. -/
def State.givePayload (s : State) (j : Nat) : State :=
  let x := s.job j
  if x.guidon.isNone ∨ s.freeChannels = [] then s
  else
    let (k, s) := s.pick s.freeChannels
    let (base, log2) := Config.payloadRing j
    let s := s.setChan k { (default : Chan) with ctx := x.rc.ctx, bell := Config.payloadBell j % 2 ^ 40, log2 := log2 % 13,
                                                 base := base % 2 ^ 40 / 64 * 64, prod := (s.chan k).prod, cons := (s.chan k).cons }
    (s.setJob j { s.job j with payCh := k }).enableChannel k

/-- Steps 5 to 8 of R269. -/
def State.createJob (s : State) (r : PlaceRec) : State × Nat :=
  let (j, s) := s.pick ((List.range 256).filter fun j => decide (j ≠ 0) && decide ((s.job j).state = 0))
  let s := s.setJob j { (default : Job) with state := 1, rc := r }
  let s := s.setJobEpochs j (fun _ => 0)
  let s := r.cores.foldl (fun s e => s.advanceEpoch e.lcore) s
  let s := s.advanceWindows j
  let s := r.cores.foldl (fun s e => match s.phys e.lcore with | some p => s.setRegions p e.regions | none => s) s
  let s := (s.nameQueues r.qFirst r.qCount j).givePayload j
  let s := s.setJob j { s.job j with evQueues := s.undrained j }
  let s := { s with serve := tput s.serve j (Serve.placed r.bytes) }
  (s.startCores j, j)

/-- The nine checks of R531 and the creation of the job. -/
def State.place1 (s : State) (ext : HostReply) : State × Nat × PlaceErr :=
  let da := s.place.addr
  match s.readRecord ext da 64 with
  | (s, none) => (s, 0, 8, 0, 0)
  | (s, some h) =>
    if leAt h 0 4 ≠ 0x4E504C59 ∨ leAt h 4 2 ≠ 1 then (s, 0, 1, 0, 0)
    else if !recBytesOk h then (s, 0, 2, 0, 0)
    else
      match s.readRecord ext da (leAt h 8 4) with
      | (s, none) => (s, 0, 8, 0, 0)
      | (s, some b) =>
        if !recCrcOk b then (s, 0, 1, 0, 0)
        else
          match fieldErr b with
          | some e => (s, 0, e)
          | none =>
            let r := recordOf b
            if 255 ≤ s.liveJobs then (s, 0, 3, 0, 0)
            else
              match s.coreErr r.ctx r.cores, s.portsErr r with
              | some e, _ => (s, 0, e)
              | none, some e => (s, 0, e)
              | none, none =>
                if r.cores = [] then (s, 0, 0, 0, 0)
                else
                  let (s, j) := s.createJob r
                  (s, j, 0, 0, 0)

/-- The result of a PLACE or RETIRE in HUB_PLACE_STATUS. -/
def State.placeResult (s : State) (j : Nat) (e : PlaceErr) : State :=
  { s with place := { s.place with cmd := none, code := e.1, job := j, index := e.2.1, kind := e.2.2 } }

/-- The module serves commands of the host: out of reset, bring-up complete. -/
def State.serves (s : State) : Bool := s.hubRuns && (decide (s.boot.state = 1) || decide (s.boot.state = 2))

/-- Management firmware runs: out of reset, and not in recovery (R438). -/
def State.manages (s : State) : Bool := s.hubRuns && decide (s.boot.state ≠ 4)

/-- R444: bring-up has reached step 4: DOE, IDE_KM and function 1 are enabled. -/
def State.linkEnabled (s : State) : Bool := s.manages && decide (4 ≤ s.boot.step)

/-- A command written while another one is pending is discarded (R18; log entry 35). -/
def State.placeBusy (s : State) (op j : Nat) : Bool :=
  match s.place.cmd with
  | none => false
  | some w => !(decide (bits w 62 2 = op) && (decide (op = 1) || decide (bits w 0 8 = j)))

def execJobPlace (r : HostReply) (s : State) : Host.Outcome State Fault Refusal :=
  .next (if !s.manages || s.sleeping then s
    else if s.placeBusy 1 0 then { s with place := { s.place with overrun := true } }
    else
      let (s, j, e) := s.place1 r
      s.placeResult j e)

def execJobRetire (j : Nat) (s : State) : Host.Outcome State Fault Refusal :=
  unit (decide (j < 256))
    (if !s.manages then s
     else if s.placeBusy 2 j then { s with place := { s.place with overrun := true } }
     else if (s.job j).state = 0 then s.placeResult j (0xA, 0, 0)
     else (s.retireJob j).placeResult j (0, 0, 0))

/-! Fault collectors (R480, R481) -/

/-- Classes whose report restarts the job that it names (R479). -/
def jobFaultClass (c : Nat) : Bool := [1, 2, 3, 4, 5, 6, 8, 9, 0xB].contains c

/-- The count and LOCK_SEQ of a collector's own clock. -/
def State.collectorClock (s : State) (col : Nat) : Nat × Nat :=
  if col = 0 then (s.hubCount, 0) else ((s.die (col - 1)).count, (s.die (col - 1)).lockSeq)

/-- The record of a report's key, or the lowest free one. -/
def Collector.slot (k : Collector) (r : Report) (ep : Nat) : Option (Nat × Bool) :=
  match k.recs.find? (fun e => e.2.valid && decide (e.2.source = r.source) && decide (e.2.cls = r.cls) && decide (e.2.job = r.job) &&
      decide (e.2.epoch = ep)) with
  | some e => some (e.1, true)
  | none => ((List.range 256).find? fun n => !(tget k.recs n).valid).map fun n => (n, false)

/-- R480: a report reaches its collector; the second value is the record that was created or updated. -/
def State.collect (s : State) (r : Report) : State × Option Nat :=
  let k := tget s.flt r.col
  let ep := if r.job = 0 then 0 else tget k.epochs r.job
  let k := { k with reports := wrap 32 (k.reports + 1) }
  let put := fun k : Collector => { s with flt := tput s.flt r.col k }
  let (now, seq) := s.collectorClock r.col
  match k.slot r ep with
  | none => (put { k with overflow := sat 16 (k.overflow + 1) }, none)
  | some (n, true) =>
    let x := tget k.recs n
    (put { k with recs := tput k.recs n { x with count := sat 16 (x.count + 1), reporters := x.reporters ||| 2 ^ r.reporter, updated := s.hubCount } }, some n)
  | some (n, false) =>
    let x : FltRec := { valid := true, cls := r.cls, source := r.source, job := r.job, epoch := ep, count := 1, first := now,
                        reporters := 2 ^ r.reporter, lockSeq := seq, stage := r.stage, cause := r.cause, detail := r.detail, updated := s.hubCount }
    (put { k with recs := tput k.recs n x }, some n)

/-- R526: the report creates a record of a class that sets the alert cause FAULT. -/
def State.makesAlert (s : State) (r : Report) : Bool :=
  let k := tget s.flt r.col
  [0x0A, 0x0C, 0x0E, 0x0F].contains r.cls &&
    (match k.slot r (if r.job = 0 then 0 else tget k.epochs r.job) with | some (_, false) => true | _ => false)

/-- The 32 bytes of a record. -/
def FltRec.bytes (x : FltRec) : Bytes := x.words.flatMap fun w => leBytes 8 w.toNat

/-- The trace lanes run: from step 4 of bring-up on (R491). -/
def State.lanesRun (s : State) : Bool := s.hubRuns && decide (4 ≤ s.boot.step)

/-- R491: a frame: TYPE, DIE, INDEX, LEN, zeros, HUB's count at emission; the payload; CRC-32C over both. -/
def traceImage (typ die index stamp : Nat) (payload : Bytes) : Bytes :=
  let b := leBytes 1 typ ++ leBytes 1 die ++ leBytes 2 index ++ leBytes 2 payload.length ++ leBytes 2 0 ++ leBytes 8 stamp ++ payload
  b ++ leBytes 4 (crcFeed 0 (crcInit 0) b ^^^ crcFinal 0)

/-- Send a frame on its lane. -/
def State.traceFrame (s : State) (typ die index : Nat) (payload : Bytes) : State :=
  if s.lanesRun then s.send (.trace (traceImage typ die index s.hubCount payload)) else s

/-- R480, R484: the `i`-th report on its way reaches its collector; a job fault becomes pending at management firmware, but for a
segment-fault notice during a restart, which joins it (R483). -/
def execFaultReport (i : Nat) (s : State) : Host.Outcome State Fault Refusal :=
  match s.reports[i]? with
  | none => .next s
  | some r =>
    let s := { s with reports := s.reports.eraseIdx i }
    let held := jobFaultClass r.cls && decide ((s.job r.job).state = 2)
    let r := if held then { r with job := 0 } else r
    let s := if s.makesAlert r then s.raiseAlert 9 else s
    let (s, n) := s.collect r
    let s := match n with
      | some n => s.traceFrame 1 ((r.col + 5) % 6) n (tget (tget s.flt r.col).recs n).bytes
      | none => s
    let j := s.job r.job
    .next (if jobFaultClass r.cls ∧ r.job ≠ 0 ∧ (j.state = 1 ∨ (j.state = 3 ∧ !noticeFault (r.source, r.cls))) then
        s.setJob r.job { j with faults := j.faults ++ [(r.source, r.cls)] }
      else s)

/-- R481: management firmware frees a record once its time has come, with a copy in the boot log; the restart of a job that is HELD for
a lost slice (R487) completes with its RELEASE. -/
def execFaultRecordFree (col n : Nat) (s : State) : Host.Outcome State Fault Refusal :=
  unit (decide (col < 6) && decide (n < 256))
    (let k := tget s.flt col
     let x := tget k.recs n
     let j := s.job x.job
     let settled := if x.job = 0 then decide (x.updated + 10 * tenthSecond ≤ s.hubCount)
       else decide (x.updated + tenthSecond ≤ s.hubCount) && (decide (j.state = 0) || (decide (j.state = 2) && j.mappedOut.isEmpty) || (decide (j.state = 1) && j.faults.isEmpty))
     if !s.hubRuns || !x.valid || !settled then s
     else { s with flt := tput s.flt col { k with recs := tput k.recs n default }
                   flash := { s.flash with log := s.flash.log ++ [x.bytes ++ List.replicate 32 0] } })

/-! Restarts (R482 to R485) -/

/-- Every core of the job stands on a die whose clocks run. -/
def State.jobDiesRun (s : State) (j : Nat) : Bool := (s.job j).cores.all fun c => s.dieRuns (c / 256)

/-- Restarts of a job within 10 s, up to and with the latest one (R485; log entry 94). -/
def State.recentRestarts (s : State) (j : Nat) : Nat := (s.job j).times.length

/-- R482: management firmware restarts a job that has a pending fault, or goes on with a restart. -/
def execJobRestart (j : Nat) (s : State) : Host.Outcome State Fault Refusal :=
  unit (decide (j < 256))
    (let x := s.job j
     if !s.hubRuns || s.sleeping then s
     else if x.state = 1 ∧ x.faults ≠ [] ∧ 16 ≤ s.recentRestarts j then
       let f := x.faults.headD (0, 0)
       (s.report ⟨0, 0x0E, srcOf 8 4, j, 20, 0, 0, f.1 + f.2 * 2 ^ 16⟩).retireJob j
     else if (x.state = 1 ∧ x.faults ≠ []) ∨ x.state = 3 then
       let s := if x.state = 1 then s.beginRestart j else s
       if s.jobRunsOn j || !s.jobDiesRun j then s else s.finishRestart j
     else s)

/-! Notices of other modules (R283, R397) -/

/-- R283: a segment-fault notice names an INSTANCE. -/
def execSegmentFaultNotice (inst : Nat) (s : State) : Host.Outcome State Fault Refusal :=
  .next (if !s.hubRuns then s
    else
      (s.live.filter fun e => e.2.rc.segmented && decide (e.2.rc.tag = inst)).foldl
        (fun s e =>
          let s := if e.2.state = 1 ∧ e.2.faults = [] then s.setJob e.1 { s.job e.1 with heard := [] } else s
          s.report ⟨0, 0x0B, srcOf 8 4, e.1, 20, 0, 0, 0⟩) s)

/-- R397: a peer's window has a new epoch; segments that wait for the notice have it. -/
def execWindowEpochNotice (peer win epoch : Nat) (s : State) : Host.Outcome State Fault Refusal :=
  unit (decide (peer < 256) && decide (win < 16))
    (if s.hubRuns then
      { s with lnk := { s.lnk with mirror := tput s.lnk.mirror (peer * 16 + win) (epoch % 2 ^ 16) }
               jobs := tmap (fun _ x => if x.rc.segmented then { x with heard := (peer * 16 + win) :: x.heard.filter (· ≠ peer * 16 + win) } else x) s.jobs }
     else s)

end Sys2Proof.Machine
end

