-- ==== Sys2Proof/Machine/Sampler.lean ====
section
/-! DEFINITION. The sampler: draws, distributions, and the decision of a verification step (R329 to R332). Logits and weights are
FP32 patterns. -/

namespace Sys2Proof.Machine

/-! Philox-4×32-10 (R330) -/

/-- One round on the counter words with the key words. -/
def philoxRound (c : List Nat) (k0 k1 : Nat) : List Nat :=
  let p0 := 0xD2511F53 * c.getD 0 0
  let p1 := 0xCD9E8D57 * c.getD 2 0
  [p1 / 2 ^ 32 ^^^ c.getD 1 0 ^^^ k0, p1 % 2 ^ 32, p0 / 2 ^ 32 ^^^ c.getD 3 0 ^^^ k1, p0 % 2 ^ 32]

def philoxRounds : Nat → List Nat → Nat → Nat → List Nat
  | 0, c, _, _ => c
  | n + 1, c, k0, k1 => philoxRounds n (philoxRound c k0 k1) ((k0 + 0x9E3779B9) % 2 ^ 32) ((k1 + 0xBB67AE85) % 2 ^ 32)

/-- The uniform draw u(g, purpose) as an FP32 pattern. -/
def drawU (seed g purpose : Nat) : Nat :=
  let x0 := (philoxRounds 10 [g % 2 ^ 32, purpose, 0, 0] (seed % 2 ^ 32) (seed / 2 ^ 32 % 2 ^ 32)).getD 0 0
  rnd32 (.fin false (x0 / 2 ^ 8) (-24))

/-! Distributions (R331) -/

/-- What the header of a GENERATE asks of the sampler (R316). -/
structure Sampling where
  temp : Nat
  topP : Nat
  topK : Nat
  window : Nat
  penalty : Nat
  seed : Nat
  specMax : Nat
  deriving DecidableEq, Repr, Inhabited

/-- A pattern is a NaN. -/
def isNan32 (x : Nat) : Bool := (f32 x).isNan
/-- `a` lies above `b`. -/
def above32 (a b : Nat) : Bool := (f32 b).lt (f32 a)

/-- Drop repeats. -/
def distinct : List Nat → List Nat
  | [] => []
  | x :: t => if t.contains x then distinct t else x :: distinct t

/-- The repetition penalty on the tokens of the window. -/
def penalise (p : Nat) (recent z : List Nat) : List Nat :=
  z.zipIdx.map fun e => if recent.contains e.2 then (if above32 e.1 0 then fdiv32 e.1 p else fmul32 e.1 p) else e.1

/-- Candidates in order: logit descending, ties to the lower token. -/
def insertCand (x : Nat × Nat) : List (Nat × Nat) → List (Nat × Nat)
  | [] => [x]
  | y :: t => if above32 x.2 y.2 then x :: y :: t else y :: insertCand x t

/-- The `k` largest of a row of logits. -/
def topCands (k : Nat) (z : List Nat) : List (Nat × Nat) := (z.zipIdx.foldl (fun l e => (insertCand (e.2, e.1) l).take k) [])

/-- FP32 sum of weights in order. -/
def sumW (l : List (Nat × Nat)) : Nat := l.foldl (fun a e => fadd32 a e.2) 0

/-- The shortest leading run whose running sum reaches `t`. -/
def leadingRun (t : Nat) : Nat → List (Nat × Nat) → List (Nat × Nat)
  | _, [] => []
  | a, e :: l => let b := fadd32 a e.2; if above32 t b then e :: leadingRun t b l else [e]

/-- The distribution of one row: candidates with their weights in order; none when every logit is NaN or −∞ (R332). -/
def distOf (p : Sampling) (recent z : List Nat) : Option (List (Nat × Nat)) :=
  let z := (penalise p.penalty (distinct recent) z).map fun x => if isNan32 x then f32NegInf else x
  if z.all fun x => x == f32NegInf then none
  else if z.contains f32PosInf then some ((z.zipIdx.filter fun e => e.1 == f32PosInf).map fun e => (e.2, 0x3F800000))
  else if (f32 p.temp).isZero then some ((topCands 1 z).map fun e => (e.1, 0x3F800000))
  else
    let c := topCands p.topK (z.map fun x => fdiv32 x p.temp)
    let top := (c.headD (0, 0)).2
    let w := c.map fun e => (e.1, exp2F (fmul32 (fsub32 e.2 top) 0x3FB8AA3B))
    some (leadingRun (fmul32 p.topP (sumW w)) 0 w)

/-- The first token whose running sum exceeds `t`. -/
def firstAbove (t : Nat) : Nat → List (Nat × Nat) → Option Nat
  | _, [] => none
  | a, e :: l => let b := fadd32 a e.2; if above32 b t then some e.1 else firstAbove t b l

/-- Draw from a distribution with the uniform value `u`. -/
def drawFrom (l : List (Nat × Nat)) (u : Nat) : Nat := (firstAbove (fmul32 u (sumW l)) 0 l).getD ((l.getLastD (0, 0)).1)

/-- The token with the largest weight, ties to the lower one. -/
def argmaxOf (l : List (Nat × Nat)) : Nat :=
  (l.foldl (fun b e => if above32 e.2 b.2 || (!above32 b.2 e.2 && decide (e.1 < b.1)) then e else b) (l.headD (0, 0))).1

/-- Weight of a token in a distribution, 0 where it is not listed. -/
def weightOf (l : List (Nat × Nat)) (x : Nat) : Nat := ((l.find? fun e => decide (e.1 = x)).map (·.2)).getD 0

/-- Weights that add up to one. -/
def normalise (l : List (Nat × Nat)) : List (Nat × Nat) := let t := sumW l; l.map fun e => (e.1, fdiv32 e.2 t)

/-- max(0, p − q). -/
def residual (p q : List (Nat × Nat)) : List (Nat × Nat) := p.map fun e => (e.1, fmax32 0 (fsub32 e.2 (weightOf q e.1)))

/-! A verification step (R329) -/

/-- Draw or choose from the final distribution at token index `g`: greedy choice at TEMP 0, unless some logit is +∞. -/
def lastToken (p : Sampling) (l : List (Nat × Nat)) (g purpose : Nat) : Nat := drawFrom l (drawU p.seed g purpose)

/-- What a step decides: tokens, how many of them are accepted drafts, rows with a NaN, and whether a row had no candidate. -/
abbrev Decided := List Nat × Nat × Nat × Bool

/-- Rows from draft `i` on: `past` is the prompt and output so far, `drafts` and `dl` the drafts still to be decided with their rows of
logits. A draft row without a candidate has no weight anywhere. -/
def decideStep (p : Sampling) (g : Nat) : List Nat → List (List Nat) → List (List Nat) → List Nat → Decided → Decided
  | _, _, [], _, d => d
  | [], _, z :: _, past, (ts, c, nan, _) =>
    let nan := if z.any isNan32 then nan + 1 else nan
    match distOf p (past.drop (past.length - p.window)) z with
    | none => (ts, c, nan, true)
    | some l => (ts ++ [lastToken p l (g + ts.length) 0], c, nan, false)
  | x :: drafts, dl, z :: rows, past, (ts, c, nan, _) =>
    let nan := if z.any isNan32 then nan + 1 else nan
    let recent := past.drop (past.length - p.window)
    match distOf p recent z with
    | none => (ts, c, nan, true)
    | some l =>
      let i := g + ts.length
      let pn := normalise l
      let qn := normalise ((distOf p recent (dl.headD [])).getD [])
      let greedy := (f32 p.temp).isZero
      let ok := if greedy then decide (x = argmaxOf l) else above32 (weightOf pn x) (fmul32 (drawU p.seed i 1) (weightOf qn x))
      if ok then decideStep p g drafts (dl.drop 1) rows (past ++ [x]) (ts ++ [x], c + 1, nan, false)
      else (ts ++ [if greedy then argmaxOf l else drawFrom (normalise (residual pn qn)) (drawU p.seed i 2)], c, nan, false)

end Sys2Proof.Machine
end

