-- ==== Sys2Proof/Machine/Pennant.lean ====
section
/-! DEFINITION. The runtime's pennants: descriptors, references, copies, rings, tentative fills, summary keys and the pennants that a
step attends (R284 to R301, R312). The cores of the units make their CACHED accesses, their accesses to bodies and their bank programs within one
command (log entry 84). -/

namespace Sys2Proof.Machine

def State.serving (s : State) (j : Nat) : Serve := tget s.serve j
def State.setServing (s : State) (j : Nat) (v : Serve) : State := { s with serve := tput s.serve j v }

/-! The cores of the KV units -/

/-- A core takes no further instruction: it has an exception, or a fault is on its way to it (R74, R75). -/
def State.stopped (s : State) (c : Nat) : Bool := decide ((s.core c).run = 5) || !(s.core c).impr.isEmpty

/-- The core of some KV unit of the job is stopped. -/
def State.unitsStopped (s : State) (j : Nat) : Bool := (s.serving j).units.any fun u => s.stopped u.core

/-- The near-bank units of a slice run and admit programs. -/
def State.unitsGo (s : State) (p : Nat) : Bool :=
  let n := s.nbu p
  decide (n.limitNow ≠ 0) && n.units.all fun e => !e.2.active || (!e.2.paused && !e.2.pauseReq)

/-- A core runs the job's code, with its near-bank units ready and no ticket outstanding (R63). -/
def State.unitRuns (s : State) (j c : Nat) : Bool :=
  let x := s.core c
  s.dieRuns (c / 256) && decide (x.job = j) && !x.fw && (decide (x.run = 3) || decide (x.run = 4)) && !s.stopped c &&
    ((List.range 16).all fun t => !x.ticketOpen t) && (match s.phys c with | some p => s.unitsGo p | none => false)

/-- The cores of all KV units of the job run. -/
def State.stagesRun (s : State) (j : Nat) : Bool := (s.serving j).units.all fun u => s.unitRuns j u.core

/-! Their CACHED accesses, performed at the home at once (R252, R257) -/

/-- The request of an access of core `c`. -/
def State.cachedReq (s : State) (c : Nat) (kind : CKind) (da : Nat) (data : Bytes) (len : Nat) : CReq :=
  { (default : CReq) with core := c, kind := kind, da := da, len := len, mask := 2 ^ len - 1, data := data, ctx := (s.core c).ctx, ea := da }

/-- An access of its core is refused or fails: a precise exception, of a store elsewhere an imprecise one (R124, R125). -/
def State.refuseNow (s : State) (r : CReq) (cause : Nat) : State :=
  if r.kind = .store ∧ r.da / 2 ^ 28 ≠ r.core then s.imprecise r.core ⟨cause, r.da, 0, 0⟩ else s.precise r.core cause r.da

/-- An access reaches the home of its line, which holds no line of another context. -/
def State.atHome (s : State) (r : CReq) : State :=
  let line := r.da / 128
  let s := (s.settleLine line).countAccess (homeOf line) line r.ctx true
  let l := (s.cache (homeOf line)).line line
  if l.valid ∧ l.ctx ≠ r.ctx then s.dropHome line false else s

/-- The line of a load or an AMO at the home, from the slice where it misses. -/
def State.lineLoad (s : State) (r : CReq) : State × Except Nat Bytes :=
  let line := r.da / 128
  let s := s.atHome r
  let l := (s.cache (homeOf line)).line line
  match s.cachedRefusal r, s.phys (line / 2 ^ 21) with
  | some cause, _ => (s, .error cause)
  | none, none => (s, .error causeRange)
  | none, some p =>
    if l.valid then (s, .ok l.data)
    else
      match s.readSlice p (line % 2 ^ 21 * 128) 128 (s.cacheBy r (if r.kind = .amo then 2 else 0)) with
      | (s, .error (cause, _)) => (s, .error cause)
      | (s, .ok d) => (s.allocLine (homeOf line) line ⟨true, d, r.ctx, 0⟩, .ok d)

/-- A CACHED store. -/
def State.cachedStore (s : State) (c da : Nat) (b : Bytes) : State :=
  if s.stopped c then s
  else
    let r := s.cachedReq c .store da b b.length
    let s := s.atHome r
    match s.cachedRefusal r with
    | some cause => s.refuseNow r cause
    | none => (s.dropSharers (homeOf (da / 128)) (da / 128)).writeThrough r b fun _ => true

/-- An AMO on the 32-bit word at an address: `fn` with its operands (R128). -/
def State.cachedAmo (s : State) (c da fn x y : Nat) : State :=
  if s.stopped c then s
  else
    let r := { s.cachedReq c .amo da (leBytes 8 x ++ leBytes 8 y) 4 with fn := fn }
    match s.lineLoad r with
    | (s, .error cause) => s.refuseNow r cause
    | (s, .ok d) => s.changeLine (homeOf (da / 128)) r d

/-! Descriptors (R287 to R289) -/

/-- A load of a descriptor by the core of its slice: an error is an exception of that core (R208). -/
def State.pdLoad (s : State) (a : Nat) : State :=
  let c := a / 2 ^ 28
  if s.stopped c then s
  else
    let r := s.cachedReq c .load a [] 32
    match s.lineLoad r with
    | (s, .error cause) => s.refuseNow r cause
    | (s, .ok _) => s

/-- The corrected bytes of a code word under the merge buffer, zeros where it cannot be corrected. -/
def State.wordSeen (s : State) (p w : Nat) : Bytes :=
  let d := match s.readWord p w with | .ok d => d | .fixed d _ _ => d | .bad _ => List.replicate 32 0
  match (s.hal p).merge.find? fun e => e.word = w with
  | some e => mergeBytes e.mask d e.data
  | none => d

/-- What a descriptor holds: as a load of it returns it. -/
def State.pdNow (s : State) (a : Nat) : Bytes :=
  match s.phys (a / 2 ^ 28) with
  | none => List.replicate 32 0
  | some p =>
    let l := (s.cache (homeOf (a / 128))).line (a / 128)
    if l.valid then (l.data.drop (a % 128)).take 32 else s.wordSeen p (a % 2 ^ 28 / 32)

/-- A store to a descriptor by the core of its slice. -/
def State.pdStore (s : State) (a : Nat) (b : Bytes) : State := s.cachedStore (a / 2 ^ 28) a b
def State.pdAmo (s : State) (a fn x y : Nat) : State := s.cachedAmo (a / 2 ^ 28) a fn x y

def pdRefs (pd : Bytes) : Nat := leAt pd 8 2
def pdFlags (pd : Bytes) : Nat := leAt pd 0x10 4
def pdRing (pd : Bytes) : Bool := (pdFlags pd).testBit 26
def pdSummary (pd : Bytes) : Bool := (pdFlags pd).testBit 27
def pdIndex (pd : Bytes) : Nat := leAt pd 0x18 6
/-- The pennant is in its bank and no swap operation is claimed. -/
def pdResident (pd : Bytes) : Bool := !pdSwapped pd && !pdBusy pd

/-- The four words of a resident pennant (R287). -/
def pdImage (size addr fill tfill pos index : Nat) (ring summary : Bool) : Bytes :=
  leBytes 8 (size * 2 ^ 48 + addr) ++ leBytes 8 (tfill * 2 ^ 48 + fill * 2 ^ 32 + 1) ++
    leBytes 4 (pos + 2 ^ 24 + b2n ring * 2 ^ 26 + b2n summary * 2 ^ 27) ++ leBytes 4 0 ++ leBytes 8 index

def State.pdFills (s : State) (a fill tfill : Nat) : State := s.pdStore (a + 0xC) (leBytes 4 (tfill * 2 ^ 16 + fill))
/-- Set or clear one bit of word 2 by a store. -/
def State.pdSetBit (s : State) (a k : Nat) (on : Bool) : State :=
  let w := pdFlags (s.pdNow a)
  s.pdStore (a + 0x10) (leBytes 4 (w - b2n (w.testBit k) * 2 ^ k + b2n on * 2 ^ k))
/-- Set or clear BUSY by AMO CAS (R289). -/
def State.pdBusyBit (s : State) (a : Nat) (on : Bool) : State :=
  let w := pdFlags (s.pdNow a)
  s.pdAmo (a + 0x10) 4 w (w - b2n (w.testBit 28) * 2 ^ 28 + b2n on * 2 ^ 28)

/-! Pennant operations in a ring of the job (R345, R346, R348, R358) -/

/-- A HUB channel of the job with room in its ring, beside a descriptor whose STATUS is still to be written. -/
def State.freeRing (s : State) (j : Nat) : Option Nat :=
  (s.jobChans j).find? fun k =>
    let x := s.chan k
    chanHub k && x.hasBell k && x.enable && decide ((x.prod + 2 ^ 16 - x.cons) % 2 ^ 16 + b2n x.run.isSome < 2 ^ x.log2)

/-- Core `c` writes a descriptor into the ring of channel `k`, and after a fence of kind MEM its producer index into the doorbell word. -/
def State.ringDesc (s : State) (c k : Nat) (desc : Bytes) : State :=
  let x := s.chan k
  (s.cachedStore c (x.base + 64 * (x.prod % 2 ^ x.log2)) desc).cachedStore c (x.bell / 4 * 4) (leBytes 4 ((x.prod + 1) % 2 ^ 16))

/-- POPEN of the pennant at `a` into a body of `size` × 4 KiB. -/
def popenDesc (a body size : Nat) : Bytes :=
  leBytes 8 0x19 ++ leBytes 8 0 ++ leBytes 8 body ++ leBytes 4 (imageLen size) ++ leBytes 4 (size * 4096) ++ leBytes 8 a ++ List.replicate 24 0
def pdiscardDesc (a : Nat) : Bytes := leBytes 8 0x1B ++ List.replicate 24 0 ++ leBytes 8 a ++ List.replicate 24 0

/-! References (R290) -/

/-- The last reference is gone: the body returns to its pool; an image is claimed and discarded, once a ring has room; and a pennant with
a swap operation waits for that to end. -/
def State.freePennant (s : State) (j a : Nat) : State :=
  let pd := s.pdNow a
  let v := s.serving j
  let later := s.setServing j { v with freeing := v.freeing ++ [a] }
  if pdBusy pd then later
  else if !pdSwapped pd then s.pdSetBit a 24 false
  else
    match s.freeRing j with
    | some k => (s.pdBusyBit a true).ringDesc (a / 2 ^ 28) k (pdiscardDesc a)
    | none => later

/-- Give up one reference: an AMO ADD of −1. -/
def State.release (s : State) (j a : Nat) : State :=
  let n := pdRefs (s.pdNow a)
  let s := s.pdAmo (a + 8) 0 0xFFFFFFFF 0
  if n = 1 then s.freePennant j a else s

def State.releaseAll (s : State) (j : Nat) (l : List (List Nat)) : State := l.flatten.foldl (fun s a => s.release j a) s

/-- The runtime reads its descriptors; then what has ended since: swap operations that were claimed, and the pennants that waited for
one or for a ring. -/
def State.tidyPennants (s : State) (j : Nat) : State :=
  let v := s.serving j
  let s := (v.units.flatMap (·.descs)).foldl State.pdLoad s
  let s := s.setServing j { v with opening := v.opening.filter (fun e => pdBusy (s.pdNow e.1)), freeing := [] }
  v.freeing.foldl (fun s a => s.freePennant j a) s

/-! Descriptors and bodies that are free -/

def State.freeDescs (s : State) (u : KvUnit) : List Nat := u.descs.filter fun a => !pdValid (s.pdNow a)

/-- Bodies that no pennant lies in and no POPEN is to fill. -/
def State.freeBodies (s : State) (j : Nat) (u : KvUnit) : List Nat :=
  u.bodies.filter fun b => !((s.serving j).opening.any fun e => decide (e.2 = b)) &&
    !u.descs.any fun a => let pd := s.pdNow a; pdValid pd && !pdSwapped pd && decide (pdAddr pd = b)

/-- R297: the index entry of the pennant for position `pos` in area `k`: entries lie in pennant order. -/
def indexAt (u : KvUnit) (k pos : Nat) : Nat := if u.retr then u.areas.getD k 0 + pos / 256 * u.entry else 0

/-- A new pennant at a position, of a sequence with index area `k`. -/
def State.allocPennant (s : State) (j : Nat) (u : KvUnit) (k pos : Nat) : Option (State × Nat) :=
  match s.freeDescs u, s.freeBodies j u with
  | a :: _, b :: _ => some (s.pdStore a (pdImage u.size b 0 0 pos (indexAt u k pos) (decide (u.ring ≠ 0)) false), a)
  | _, _ => none

/-- The first index area that no request holds and no entry of a pennant lies in. -/
def State.freeArea (s : State) (j : Nat) : Option Nat :=
  let v := s.serving j
  let us := v.units.filter (·.retr)
  (List.range (us.foldl (fun n u => min n u.areas.length) (if us = [] then 1 else 2 ^ 20))).find? fun k =>
    us = [] || (!(v.reqs.any fun x => decide (x.area = some k)) && us.all fun u => !u.descs.any fun a =>
      let pd := s.pdNow a
      pdValid pd && decide (u.areas.getD k 0 ≤ pdIndex pd) && decide (pdIndex pd < u.areas.getD k 0 + u.areaLen))

/-! Bank programs of the runtime (R234, R291, R296) -/

/-- The units of a slice go on, step by step, and waiting programs are admitted, until ticket `t` of core `c` has ended. -/
def State.pump (s : State) (c p t : Nat) : Nat → State
  | 0 => s
  | n + 1 =>
    if (tget (s.core c).tickets t).state ≠ 1 then s
    else
      let s := s.admitNext p
      (((s.nbu p).units.filter (·.2.active)).foldl (fun s e => (s.serveBoundary p e.1).nbAdvance p e.1) s).pump c p t n

/-- NISSUE of a program to the bank of a body, with F2 and F3 the bank words of two places and F0, F1 from `rc`, and NWAIT: the program
is queued, admitted and run as any other; a failure is NB_FAULT at the core. -/
def State.runOn (s : State) (c p body : Nat) (img : List Word) (rc : Word) (f2 f3 : Nat) : State :=
  let b := bankOf (body % 2 ^ 28)
  if s.stopped c then s
  else if !s.banksAllow c p [b] then s.precise c causeRegion 0
  else
    match (List.range 16).find? fun t => !(s.core c).ticketOpen t with
    | none => s
    | some t => (s.issueProgram c p t img rc (BitVec.ofNat 64 (f2 + f3 * 2 ^ 32)) [b]).pump c p t (2 ^ 24)

/-- Bank word of a device address. -/
def bankWord (da : Nat) : Nat := da % 2 ^ 21 / 32

/-- XFROM X0, F2 and XFROM X1, F3; the END word. -/
def xfrom : List Word := [0x2E04000000000000, 0x2E26000000000000]
def endWord : Word := 0xFC00000000000000

/-- R291: ROWCPY of the rows of a body. -/
def copyImage (size : Nat) : List Word := xfrom ++ [packFields [(58, 0x0D), (55, 1), (0, 2 * size)], endWord]
/-- R296: the partial means of every key plane. -/
def summaryImage (u : KvUnit) : List Word :=
  xfrom ++ [packFields [(58, 0x0C), (11, 3), (0, u.heads * (u.dim / 16))] ,
    packFields [(58, 0x0E), (52, b2n u.e5m2), (49, 4), (46, 1), (23, 1), (0, 1)], 0x2D00000000000080, 0x2D20000000000002, endWord]

/-! The runtime's own accesses to bodies -/

def State.byUnit (s : State) (c cls : Nat) : By := ⟨.ownCore, cls, (s.core c).job, some (s.core c).ctx, c / 64, false⟩

/-- R124, R201, R410: the core of a slice is refused in it. -/
def State.ownRefused (s : State) (c p da : Nat) (write : Bool) : Bool := s.refused (.ctx (s.core c).ctx) c p (da % 2 ^ 28) write

/-- Stores of the unit's core into its own slice. -/
def State.bodyWrite (s : State) (da : Nat) (b : Bytes) : State :=
  let c := da / 2 ^ 28
  match s.phys c with
  | some p =>
    if s.stopped c then s
    else if s.ownRefused c p da true then s.precise c causeRegion da
    else s.writeNow p (da % 2 ^ 28) b (fun _ => true) true (s.byUnit c 2)
  | none => s

/-- Reads of the unit's core from its own slice; a bad word is an exception of the core (R208), and what it reads then is not used. -/
def State.bodyRead (s : State) (da len cls : Nat) : State × Bytes :=
  let c := da / 2 ^ 28
  let nothing := List.replicate len 0
  match s.phys c with
  | some p =>
    if s.stopped c then (s, nothing)
    else if s.ownRefused c p da false then (s.precise c causeRegion da, nothing)
    else
      match s.readSlice p (da % 2 ^ 28) len (s.byUnit c cls) with
      | (s, .ok d) => (s, d)
      | (s, .error (cause, w)) => (s.precise c cause (c * 2 ^ 28 + w * 32), nothing)
  | none => (s, nothing)

/-- R285, R286: the keys and then the values of one token, at slot `t` of a body. -/
def State.kvWrite (s : State) (u : KvUnit) (body t : Nat) (kv : Bytes) : State :=
  let n := u.heads * u.dim
  let s := (List.range (n / 16)).foldl (fun s i => s.bodyWrite (body + i * 4096 + 16 * t) (fitTo 16 (kv.drop (16 * i)))) s
  (List.range n).foldl (fun s i =>
    s.bodyWrite (body + 256 * n + (i / u.dim * 16 + t / 16) * 16 * u.dim + i % u.dim * 16 + t % 16) [kv.getD (n + i) 0]) s
where
  /-- Exactly `n` bytes. -/
  fitTo (n : Nat) (b : Bytes) : Bytes := (b ++ List.replicate n 0).take n

/-! Copy-on-write (R291) -/

/-- Copy a pennant into a free body, in its bank where there is one, under a new descriptor with one reference. -/
def State.copyPennant (s : State) (j : Nat) (u : KvUnit) (a : Nat) : Option (State × Nat) :=
  let pd := s.pdNow a
  let old := pdAddr pd
  let free := s.freeBodies j u
  if !pdResident pd then none
  else
  match s.freeDescs u, s.phys u.core, free.find? (fun b => decide (bankOf (b % 2 ^ 28) = bankOf (old % 2 ^ 28))), free.head? with
  | d :: _, some p, some b, _ =>
    let s := s.runOn u.core p old (copyImage u.size) 0 (bankWord old) (bankWord b)
    some (s.pdStore d (pdImage u.size b (pdFill pd) (pdTfill pd) (pdPos pd) (pdIndex pd) (pdRing pd) (pdSummary pd)), d)
  | d :: _, some _, none, some b =>
    let (s, bytes) := s.bodyRead old (u.size * 4096) 1
    some ((s.bodyWrite b bytes).pdStore d (pdImage u.size b (pdFill pd) (pdTfill pd) (pdPos pd) (pdIndex pd) (pdRing pd) (pdSummary pd)), d)
  | _, _, _, _ => none

/-- The pennant that a core is about to write, owned by it alone. -/
def State.ownPennant (s : State) (j : Nat) (u : KvUnit) (a : Nat) : Option (State × Nat) :=
  if pdRefs (s.pdNow a) ≤ 1 then some (s, a) else (s.copyPennant j u a).map fun e => (e.1.release j a, e.2)

/-- R290: one more reference; a pennant that can take none is copied. -/
def State.sharePennant (s : State) (j : Nat) (u : KvUnit) (a : Nat) : Option (State × Nat) :=
  let n := pdRefs (s.pdNow a)
  if n < 0xFFFF then some (s.pdAmo (a + 8) 4 n (n + 1), a) else s.copyPennant j u a

/-! Summary keys (R296, R297) -/

/-- FP16 sum of an even and an odd partial mean, rounded once. -/
def addHalves (e o : Nat) : Nat := fmtFP16.encode false false ((fmtFP16.decode e).add (fmtFP16.decode o))

/-- A pennant has filled: its partial means, its index entry, SUMMARY. -/
def State.summarise (s : State) (u : KvUnit) (a : Nat) : State :=
  let pd := s.pdNow a
  if !u.retr || decide (pdFill pd ≠ 256) then s
  else
    match s.phys u.core with
    | none => s
    | some p =>
      let body := pdAddr pd
      let n := u.heads * u.dim
      let s := s.runOn u.core p body (summaryImage u) 0x000000803B800000 (bankWord body) (bankWord (body + 512 * n))
      let (s, t) := s.bodyRead (body + 512 * n) (4 * n) 0
      let mean := fun i => addHalves (leAt t (i / 16 * 64 + 2 * (i % 16)) 2) (leAt t (i / 16 * 64 + 32 + 2 * (i % 16)) 2)
      (s.bodyWrite (pdIndex pd) ((List.range n).flatMap fun i => leBytes 2 (mean i))).pdSetBit a 27 true

/-! Fills (R292, R294, R295) -/

/-- The entry of a pennant list that holds a position. -/
def kvEntry (u : KvUnit) (p : Nat) : Nat := if u.ring = 0 then p / 256 else p / 256 % u.ring

/-- Put a pennant into a list. -/
def putEntry (l : List Nat) (i a : Nat) : List Nat := if i < l.length then l.set i a else l ++ [a]

/-- Write tokens into slots from `t` on, and TFILL behind them. -/
def State.fillSlots (s : State) (u : KvUnit) (a t : Nat) (kv : List Bytes) : State :=
  let pd := s.pdNow a
  (kv.zipIdx.foldl (fun s e => s.kvWrite u (pdAddr pd) (t + e.2) e.1) s).pdFills a (pdFill pd) (t + kv.length)

/-- R292: the pennant for the position `p` that begins one: the oldest of a ring that is full, where the sequence alone holds it. -/
def State.nextPennant (s : State) (j : Nat) (u : KvUnit) (k : Nat) (l : List Nat) (p : Nat) : Option (State × Nat) :=
  match (if u.ring = 0 then none else l[kvEntry u p]?) with
  | none => s.allocPennant j u k p
  | some a =>
    let pd := s.pdNow a
    if pdRefs pd = 1 ∧ pdResident pd then
      some ((s.pdFills a 0 0).pdStore (a + 0x10) (leBytes 4 (p + 2 ^ 24 + 2 ^ 26)), a)
    else (s.release j a).allocPennant j u k p

/-- Prefill: write and commit tokens from position `p` on, pennant by pennant; `k` is the sequence's index area. -/
def State.fillUnit (s : State) (j : Nat) (u : KvUnit) (k : Nat) : Nat → List Nat → Nat → List Bytes → Option (State × List Nat)
  | _, l, _, [] => some (s, l)
  | 0, l, _, _ => some (s, l)
  | n + 1, l, p, kv =>
    match (if p % 256 = 0 then s.nextPennant j u k l p else s.ownPennant j u (l.getD (kvEntry u p) 0)) with
    | none => none
    | some (s, a) =>
      let seg := kv.take (256 - p % 256)
      let s := s.fillSlots u a (p % 256) seg
      let s := (s.pdFills a (p % 256 + seg.length) (p % 256 + seg.length)).summarise u a
      s.fillUnit j u k n (putEntry l (kvEntry u p) a) (p + seg.length) (kv.drop seg.length)

/-- R294: write tentative tokens from position `p` on; those that pass slot 255 go into a new pennant, which is not in the list yet. -/
def State.tentUnit (s : State) (j : Nat) (u : KvUnit) (k : Nat) (l : List Nat) (p : Nat) (kv : List Bytes) : Option (State × List Nat × Option Nat) :=
  let here := if p % 256 = 0 then [] else kv.take (256 - p % 256)
  let rest := kv.drop here.length
  let own := if here = [] then some (s, l) else
    (s.ownPennant j u (l.getD (kvEntry u p) 0)).map fun e => (e.1.fillSlots u e.2 (p % 256) here, l.set (kvEntry u p) e.2)
  own.bind fun e =>
    if rest = [] then some (e.1, e.2, none)
    else (e.1.allocPennant j u k (p + here.length)).map fun f => (f.1.fillSlots u f.2 0 rest, e.2, some f.2)

/-- R295: commit the first `c` of `t` tentative tokens from position `p` on. -/
def State.commitUnit (s : State) (j : Nat) (u : KvUnit) (l : List Nat) (p t c : Nat) (fresh : Option Nat) : State × List Nat :=
  let room := if p % 256 = 0 then 0 else min t (256 - p % 256)
  let s := if room = 0 then s
    else
      let a := l.getD (kvEntry u p) 0
      let n := p % 256 + min c room
      (s.pdFills a n n).summarise u a
  match fresh with
  | none => (s, l)
  | some a =>
    let n := c - room
    let s := s.pdFills a n n
    if n = 0 then (s.release j a, l)
    else
      let i := kvEntry u (p + room)
      let s := match (if u.ring = 0 then none else l[i]?) with | some old => s.release j old | none => s
      (s, putEntry l i a)

/-! The pennants that a step attends (R298 to R300) -/

/-- The pennants of `n` that every step attends once retrieval is in use. -/
def fixedOf (u : KvUnit) (n : Nat) : List Nat := (List.range n).filter fun p => decide (p = 0) || decide (max 1 (n - u.recent) ≤ p)

/-- The step uses retrieval: its last tentative position is `last`. -/
def usesRetrieval (u : KvUnit) (last : Nat) : Bool := u.retr && decide (u.ring = 0) && decide (u.threshold ≤ last)

/-- The pennants that must be resident: all, or the fixed ones. -/
def mustAttend (u : KvUnit) (n last : Nat) : List Nat := if usesRetrieval u last then fixedOf u n else List.range n

/-- FP32 dot product, its products summed in the order that the job's code uses (R114; log entry 98). -/
def dot32 (q m : List Nat) : Nat :=
  let o := Config.dotOrder q.length
  let o := if o.length = q.length ∧ (List.range q.length).all o.contains then o else List.range q.length
  match o.map fun i => fmul32 (q.getD i 0) (m.getD i 0) with
  | [] => 0
  | x :: t => t.foldl fadd32 x

/-- The summary of head `h` in an index entry, widened to FP32. -/
def summaryOf (u : KvUnit) (entry : Bytes) (h : Nat) : List Nat :=
  (List.range u.dim).map fun i => rnd32 (fmtFP16.decode (leAt entry (2 * (h * u.dim + i)) 2))

/-- R299: the score of a summary: the largest dot product with a query column. -/
def scoreOf (cols : List (List Nat)) (m : List Nat) : Nat := (cols.map fun q => dot32 q m).foldl fmax32 f32NegInf

/-- R299: the pennants that are neither fixed nor without a summary. -/
def candSet (u : KvUnit) (pds : List Bytes) : List Nat :=
  (List.range pds.length).filter fun p => !(fixedOf u pds.length).contains p && pdSummary (pds.getD p [])

/-- The index entries of the candidates, read by the unit's core, and by head the score of each. -/
def State.scores (s : State) (u : KvUnit) (pds : List Bytes) (qs : List (List (List Nat))) : State × List (List (Nat × Nat)) :=
  let (s, es) := (candSet u pds).foldl (fun a p =>
    let (s, e) := a.1.bodyRead (pdIndex (pds.getD p [])) (2 * u.heads * u.dim) 0
    (s, a.2 ++ [(p, e)])) ((s, []) : State × List (Nat × Bytes))
  (s, (List.range u.heads).map fun h => es.map fun e => (e.1, scoreOf (qs.getD h []) (summaryOf u e.2 h)))

/-- Candidates with their scores, highest first, ties to the lower pennant. -/
def candidates (u : KvUnit) (pds : List Bytes) (scores : List (Nat × Nat)) : List Nat :=
  ((candSet u pds).foldl (fun a p => insertCand (p, ((scores.find? fun e => decide (e.1 = p)).map (·.2)).getD f32NegInf) a) []).map (·.1)

/-- One head's choice: the attended pennants in ascending order, and the chosen ones that are not resident. -/
def attendHead (u : KvUnit) (pds : List Bytes) (last : Nat) (scores : List (Nat × Nat)) : List Nat × List Nat :=
  if !usesRetrieval u last then (List.range pds.length, [])
  else
    let res := fun p : Nat => pdResident (pds.getD p [])
    let l := candidates u pds scores
    let away := (l.take u.sel).filter fun p => !res p
    let take := (l.take u.sel).filter res ++ ((l.drop u.sel).filter res).take away.length
    ((List.range pds.length).filter fun p => (fixedOf u pds.length).contains p || take.contains p, away)

/-- Issue POPEN for a pennant that is swapped out: claim it, and a free body for it, where a ring has room. -/
def State.claimOpen (s : State) (j : Nat) (u : KvUnit) (a : Nat) : State :=
  let pd := s.pdNow a
  if !pdSwapped pd || pdBusy pd then s
  else
    match s.freeBodies j u, s.freeRing j with
    | b :: _, some k =>
      let v := s.serving j
      ((s.setServing j { v with opening := v.opening ++ [(a, b)] }).pdBusyBit a true).ringDesc u.core k (popenDesc a b u.size)
    | _, _ => s

/-! All the units of a job's sequence -/

/-- The list of unit `k`. -/
def listOf (ls : List (List Nat)) (k : Nat) : List Nat := ls.getD k []

/-- A list for each unit, from what `f` makes of one. -/
def State.eachUnit (s : State) (us : List (KvUnit × Nat)) (f : State → KvUnit → Nat → Option (State × List Nat)) : Option (State × List (List Nat)) :=
  us.foldl (fun a u => a.bind fun e => (f e.1 u.1 u.2).map fun r => (r.1, e.2 ++ [r.2])) (some (s, []))

/-- Tokens of unit `k`, `n` of them. -/
def kvOf (kv : List (List Bytes)) (k n : Nat) : List Bytes := (List.range n).map fun i => (kv.getD k []).getD i []

/-- Prefill `n` tokens of a sequence from position `p` on. -/
def State.fillSeq (s : State) (j area : Nat) (ls : List (List Nat)) (p n : Nat) (kv : List (List Bytes)) : Option (State × List (List Nat)) :=
  s.eachUnit (s.serving j).units.zipIdx fun s u k => s.fillUnit j u area n (listOf ls k) p (kvOf kv k n)

/-- R300: what a step with its last tentative position at `last` must wait for, by unit: pennants that are swapped out, or that it
would write while an operation is claimed. -/
def State.awaited (s : State) (j : Nat) (ls : List (List Nat)) (p t : Nat) : List (KvUnit × Nat) :=
  (s.serving j).units.zipIdx.flatMap fun e =>
    let l := listOf ls e.2
    let n := max l.length ((p + t + 255) / 256)
    let need := ((mustAttend e.1 n (p + t - 1)).filterMap fun i => l[i]?).filter fun a => pdSwapped (s.pdNow a)
    let cur := if p % 256 = 0 ∨ t = 0 then [] else (l[kvEntry e.1 p]?).toList.filter fun a => !pdResident (s.pdNow a)
    (need ++ cur).map fun a => (e.1, a)

/-- R294, R299: the tentative tokens of a step, and the pennants that it attends: the lists, the fresh pennants, what each unit and head
attends. -/
structure Tentative where
  lists : List (List Nat)
  fresh : List (Option Nat)
  attend : List (List (List Nat))
  deriving DecidableEq, Repr, Inhabited

/-- One unit of a step. -/
def State.stepUnit (s : State) (j area : Nat) (ls : List (List Nat)) (p t : Nat) (kv : List (List Bytes)) (qs : List (List (List (List Nat)))) (u : KvUnit)
    (k : Nat) : Option (State × List Nat × Option Nat × List (List Nat)) :=
  (s.tentUnit j u area (listOf ls k) p (kvOf kv k t)).map fun e =>
    let now := e.2.1 ++ e.2.2.toList
    let pds := now.map e.1.pdNow
    let (s, sc) := if usesRetrieval u (p + t - 1) then e.1.scores u pds (qs.getD k []) else (e.1, [])
    let heads := (List.range u.heads).map fun h => attendHead u pds (p + t - 1) (sc.getD h [])
    (((heads.flatMap (·.2)).eraseDups.map fun i => now.getD i 0).foldl (fun s a => s.claimOpen j u a) s, e.2.1, e.2.2, heads.map (·.1))

/-- The tentative part of a step, for all units; none where a pool is short. -/
def State.tentSeq (s : State) (j area : Nat) (ls : List (List Nat)) (p t : Nat) (kv : List (List Bytes)) (qs : List (List (List (List Nat)))) :
    Option (State × Tentative) :=
  (s.serving j).units.zipIdx.foldl (fun a u => a.bind fun e => (e.1.stepUnit j area ls p t kv qs u.1 u.2).map fun r =>
    (r.1, ⟨e.2.lists ++ [r.2.1], e.2.fresh ++ [r.2.2.1], e.2.attend ++ [r.2.2.2]⟩)) (some (s, ⟨[], [], []⟩))

/-- R295, for all units. -/
def State.commitSeq (s : State) (j : Nat) (x : Tentative) (p t c : Nat) : State × List (List Nat) :=
  (s.serving j).units.zipIdx.foldl (fun a u =>
    let r := a.1.commitUnit j u.1 (listOf x.lists u.2) p t c (x.fresh.getD u.2 none)
    (r.1, a.2 ++ [r.2])) (s, [])

/-! The prefix table (R327) -/

/-- Whole pennants of a prompt that an entry of the table can serve; a ring that has lost its first pennants serves all or none. -/
def Prefix.match (e : Prefix) (us : List KvUnit) (toks : List Nat) : Nat :=
  let n := ((List.range (e.toks.length / 256)).find? fun k =>
    decide ((toks.drop (256 * k)).take 256 ≠ (e.toks.drop (256 * k)).take 256)).getD (e.toks.length / 256)
  if us.any (fun u => decide (u.ring ≠ 0) && decide (u.ring < e.toks.length / 256)) && decide (n ≠ e.toks.length / 256) then 0 else n

/-- The longest prefix of a prompt in the table: its pennants, and the lists. -/
def Serve.prefixFor (v : Serve) (toks : List Nat) : Nat × List (List Nat) :=
  v.prefixes.foldl (fun b e => let n := e.match v.units toks; if b.1 < n then (n, e.lists) else b) (0, [])

/-- Share the first `n` pennants of lists. -/
def State.shareLists (s : State) (j n : Nat) (ls : List (List Nat)) : Option (State × List (List Nat)) :=
  s.eachUnit (s.serving j).units.zipIdx fun s u k =>
    ((listOf ls k).take (if u.ring = 0 then n else min n u.ring)).foldl
      (fun a d => a.bind fun e => (e.1.sharePennant j u d).map fun r => (r.1, e.2 ++ [r.2])) (some (s, []))

/-- An entry of the table that no open request holds. -/
def Serve.evictable (v : Serve) : Option Nat :=
  v.prefixes.findIdx? fun e => !v.reqs.any fun x => x.lists.flatten.any e.lists.flatten.contains

/-- Do `f`, evicting entries of the prefix table while a pool is short; what the runtime has none of leaves the request waiting. -/
def State.withPool (s : State) (j : Nat) (f : State → Option State) : Nat → State
  | 0 => (f s).getD s
  | n + 1 =>
    match f s with
    | some t => t
    | none =>
      match (s.serving j).evictable with
      | none => s
      | some i =>
        let v := s.serving j
        ((s.setServing j { v with prefixes := v.prefixes.eraseIdx i }).releaseAll j ((v.prefixes.getD i default).lists)).withPool j f n

/-! After a restart (R312) -/

/-- The restarted job reads its descriptors, clears BUSY that a failed operation left set, gives up every pennant, and discards the
images (PDISCARD). -/
def State.forgetPennants (s : State) (j : Nat) : State :=
  let v := s.serving j
  let s := s.setServing j { v with reqs := v.reqs.map (fun x => { x with lists := [], attend := [], done := 0, area := none }), prefixes := [], opening := [],
                                   freeing := [] }
  (v.units.flatMap (·.descs)).foldl (fun s a =>
    let s := s.pdLoad a
    let pd := s.pdNow a
    if !pdValid pd then s else (if pdBusy pd then s.pdBusyBit a false else s).freePennant j a) s

end Sys2Proof.Machine
end

