-- ==== Sys2Proof/Machine/ServeOps.lean ====
section
/-! DEFINITION. The serving runtime's ledger: entries, their encryption, posting and delivery (R314 to R323, R334 to R336). -/

namespace Sys2Proof.Machine

/-! Encryption (R320) -/

def iv3 (a b c : Nat) : Bytes := leBytes 4 a ++ leBytes 4 b ++ leBytes 4 c

/-- A stream entry as the host sees it. -/
def sealStream (key img : Bytes) : Bytes :=
  img.take 16 ++ gcmSeal key (iv3 (leAt img 8 4) (leAt img 12 4 % 2 ^ 21) 1) (img.take 16) ((img.drop 16).take 32)

/-- A completion as the host sees it: with a tag where it has a SERIAL. -/
def sealCompletion (key img : Bytes) : Bytes :=
  if leAt img 0x10 4 = 0 then img else img.take 48 ++ gcmSeal key (iv3 (leAt img 0x10 4) 0x40000000 1) (img.take 48) []

/-! The payload key of a job's context -/

def State.payKey (s : State) (j : Nat) : Bytes := ((s.ctx (s.job j).rc.ctx).payCur).getD []

/-- R421: a completion's SEAL that ends with OK lowers OPEN_SERIALS. -/
def State.closeSerial (s : State) (j : Nat) : State := s.setJob j { s.job j with openSerials := (s.job j).openSerials - 1 }

/-! Requests of the ledger -/

/-- Change one request. -/
def State.setReq (s : State) (j i : Nat) (x : SReq) : State :=
  let v := s.serving j
  s.setServing j { v with reqs := v.reqs.set i x }

/-- The entry that is due: its queue, whether it is the completion, and its image. -/
def SReq.due (x : SReq) : Option (Nat × Bool × Bytes) :=
  (x.log[x.posted]?).map fun img =>
    let c := x.ended && decide (x.posted + 1 = x.log.length)
    (if c then entCompl x.entry else entStream x.entry, c, img)

/-- An entry for queue `q` is on its way. -/
def State.postBusy (s : State) (q : Nat) : Bool :=
  s.serve.any fun e => (e.2.reqs.any fun x => x.wait.isSome && (match x.due with | some d => decide (d.1 = q) | none => false)) ||
    e.2.replies.any fun r => r.wait.isSome && decide (r.queue = q)

/-- The end of a request, which gives up its pennants (R290). -/
def State.endReq (s : State) (j i : Nat) (x : SReq) : State := (s.setReq j i { x with lists := [] }).releaseAll j x.lists

/-! Delivery (R336) -/

/-- The producer index passes an entry that is delivered. -/
def State.passEntry (s : State) (q : Nat) : State :=
  let e := s.qe q
  (s.setQe q { e with midx := (e.midx + 1) % 2 ^ 32 }).shadowQueue q

/-- The read-back of a request's entry has come in; a completion whose write has failed is written again. -/
def State.entryBack (s : State) (j i : Nat) (x : SReq) (ok : Bool) : State :=
  match x.due with
  | none => s
  | some (q, last, _) =>
    let x := { x with wait := none }
    if ok then
      let s := (s.setReq j i { x with posted := x.posted + 1 }).passEntry q
      let v := s.serving j
      if last then (s.setServing j { v with reqs := v.reqs.eraseIdx i }).closeSerial j else s
    else if last then s.setReq j i x
    else s.endReq j i (x.writeFails j)

/-- The read-back of an output buffer has come in (R318, R323); a CANCEL taken meanwhile ends the request. -/
def State.outBack (s : State) (j i : Nat) (x : SReq) (ok : Bool) : State :=
  let x := { x with out := none }
  s.setReq j i (if ok then x.finish j (if x.cancel then 0x10 else 3) else { x with written := 0 }.finish j 0x33)

/-- The read-back of the completion of an entry without a SERIAL; one whose write has failed says so (R323). -/
def State.replyBack (s : State) (j k : Nat) (r : Reply) (ok : Bool) : State :=
  let v := s.serving j
  if ok then (s.setServing j { v with replies := v.replies.eraseIdx k }).passEntry r.queue
  else s.setServing j { v with replies := v.replies.set k { r with wait := none, img := r.img.set 1 0x33 } }

/-- What a read-back of the serving runtime belongs to. -/
inductive ServeWait where
  | entry (j i : Nat) (x : SReq)
  | out (j i : Nat) (x : SReq)
  | reply (j k : Nat) (r : Reply)

/-- The entry, output or reply that waits for the read-back `tag`. -/
def State.serveWaits (s : State) (tag : Nat) : Option ServeWait :=
  s.serve.findSome? fun e =>
    match e.2.reqs.zipIdx.find? fun x => decide (x.1.wait = some tag) || decide (x.1.out = some tag) with
    | some (x, i) => some (if x.wait = some tag then .entry e.1 i x else .out e.1 i x)
    | none => (e.2.replies.zipIdx.find? fun r => decide (r.1.wait = some tag)).map fun r => .reply e.1 r.2 r.1

/-- A read-back of the serving runtime: what it ends, and the queue that may have room again. -/
def State.serveBack (s : State) (w : ServeWait) (ok : Bool) : State × Option Nat :=
  match w with
  | .entry j i x => (s.entryBack j i x ok, x.due.map (·.1))
  | .out j i x => (s.outBack j i x ok, none)
  | .reply j k r => (s.replyBack j k r ok, some r.queue)

end Sys2Proof.Machine
end

