-- ==== Sys2Proof/Machine/HostPort.lean ====
section
/-! DEFINITION. The host port: configuration, BAR0, BAR2, BAR4, queues and their events, MSI-X, completions of the module's own
reads (R18 to R20, R26, R45, R46, R259, R279, R324, R364 to R378). -/

namespace Sys2Proof.Machine

/-! Configuration space (R366, R367) -/

/-- A base address register of 64 bits: size in bits and type bits of its lower word. -/
def barLow (size typ v : Nat) : Nat := if 32 ≤ size then typ else v / 2 ^ size * 2 ^ size + typ
def barHigh (size v : Nat) : Nat := if size ≤ 32 then v else v / 2 ^ (size - 32) * 2 ^ (size - 32)

/-- The functions that answer: 0 of link A, and once it is enabled (R444) function 1 there and, where the port is split (R365), on link B,
as number 2. -/
def State.cfgFn (s : State) (fn : Nat) : Bool := decide (fn = 0) || (s.linkEnabled && (decide (fn = 1) || (decide (fn = 2) && s.host.bifur)))

/-- What a configuration word reads: R367's identities and BARs in the standard header; any other word as Config has it. -/
def State.cfgWord (s : State) (fn off : Nat) : Nat :=
  let v := tget s.host.cfg (fn * 4096 + off)
  match min fn 1, off with
  | 0, 0x00 => 0x0520 * 2 ^ 16 + Config.vendorId.toNat
  | 0, 0x08 => 0x120000 * 2 ^ 8 + Config.revisionId.toNat
  | 0, 0x10 => barLow 26 0x4 v
  | 0, 0x14 => barHigh 26 v
  | 0, 0x18 => barLow 39 0xC v
  | 0, 0x1C => barHigh 39 v
  | 0, 0x20 => barLow 19 0x4 v
  | 0, 0x24 => barHigh 19 v
  | 1, 0x00 => 0x0521 * 2 ^ 16 + Config.vendorId.toNat
  | 1, 0x08 => 0x118000 * 2 ^ 8 + Config.revisionId.toNat
  | 1, 0x10 => barLow 21 0x4 v
  | 1, 0x14 => barHigh 21 v
  | 1, 0x18 => 0
  | 1, 0x1C => 0
  | 1, 0x20 => 0
  | 1, 0x24 => 0
  | 0, _ =>
    if off = Config.pmcsr then b2n s.host.pmeStatus * 2 ^ 15 + b2n s.host.pmeEn * 2 ^ 8 + 2 ^ 3 + (if s.host.d3hot then 3 else 0)
    else if off = Config.msixCap then
      b2n s.host.msixEn * 2 ^ 31 + b2n s.host.msixMask * 2 ^ 30 + 2047 * 2 ^ 16 + Config.cfgRead fn off v / 2 ^ 8 % 2 ^ 8 * 2 ^ 8 + 0x11
    else if off = Config.msixCap + 4 then 0xF0000
    else if off = Config.msixCap + 8 then 0xF8000
    else if off = Config.devCap then Config.cfgRead fn off v / 2 ^ 3 * 2 ^ 3 + 2
    else if off = Config.devCtl then
      Config.cfgRead fn off v / 2 ^ 15 * 2 ^ 15 + s.host.mrrs % 8 * 2 ^ 12 + Config.cfgRead fn off v / 2 ^ 8 % 2 ^ 4 * 2 ^ 8 + s.host.mps % 8 * 2 ^ 5 +
        Config.cfgRead fn off v % 2 ^ 5
    else Config.cfgRead fn off v
  | _, _ => Config.cfgRead fn off v

/-! Memory requests -/

/-- The answer to a memory read: none where it completes with Unsupported Request. -/
def State.completes (s : State) (r : Option Bytes) : State := s.send (match r with | some d => .hostCpl d | none => .hostUr)

/-- Count a request that ownership refuses (R411, SEC_HOST_DENY). -/
def State.countDeny (s : State) : State := { s with sec := { s.sec with deny := wrap 32 (s.sec.deny + 1) } }

/-- The slice behind a BAR2 offset (R26): logical core, physical core, slice offset. -/
def State.bar2At (s : State) (off len : Nat) : Option (Nat × Nat × Nat) :=
  let c := off / 2 ^ 28
  if off % 2 ^ 28 + len ≤ 2 ^ 28 ∧ c < s.lcoreLimit ∧ s.dieRuns (c / 256) ∧ s.bothWays 5 (c / 256) then
    (s.phys c).map fun p => (c, p, off % 2 ^ 28)
  else none

/-- R410, R215: the host is refused at a range. -/
def State.hostRefused (s : State) (c p off len : Nat) (write : Bool) : Bool :=
  s.refused .host c p off write || s.refused .host c p (off + len - 1) write

/-- R411: a refusal is counted where ownership is its reason, and not a bank under test (R215). -/
def State.denyHost (s : State) (c off len : Nat) (write : Bool) : State :=
  if s.reaches .host c (bankOf off) write && s.reaches .host c (bankOf (off + len - 1)) write then s else s.countDeny

/-- R26, R209, R210: a read ends with data, poison or Unsupported Request. -/
def execBar2Read (off len : Nat) (secure : Bool) (s : State) : Host.Outcome State Fault Refusal :=
  .next (if !s.hubRuns then s
    else if !s.takes secure ∨ len = 0 ∨ 4096 < len then s.send .hostUr
    else
      match s.bar2At off len with
      | none => s.send .hostUr
      | some (c, p, o) =>
        if s.hostRefused c p o len false then (s.denyHost c o len false).send .hostUr
        else
          match s.readSlice p o len byHub with
          | (s, .ok d) => s.send (.hostCpl d)
          | (s, .error _) => s.send (.hostPoison len))

/-- A posted write, of at most 512 bytes (R364; log entry 103). -/
def execBar2Write (off : Nat) (d : Bytes) (secure : Bool) (s : State) : Host.Outcome State Fault Refusal :=
  .next (if !s.hubRuns ∨ d = [] then s
    else if !s.takes secure ∨ 512 < d.length then s.send .hostUrPosted
    else
      match s.bar2At off d.length with
      | none => s.send .hostUrPosted
      | some (c, p, o) =>
        if s.hostRefused c p o d.length true then (s.denyHost c o d.length true).send .hostUrPosted
        else s.writeNow p o d (fun _ => true) false byHub)

/-! Interrupts (R376) -/

/-- Send the pending message of a vector that neither its own bit nor the function masks. -/
def State.sendPending (s : State) (v : Nat) : State :=
  if s.host.pba.contains v ∧ s.host.msixEn ∧ !s.host.msixMask ∧ tget s.host.msix (v * 4 + 3) % 2 = 1 then
    ({ s with host := { s.host with pba := s.host.pba.filter (· ≠ v) } } : State).message v
  else s

/-- The host clears the mask of a vector. -/
def execMsixVectorUnmask (v : Nat) (s : State) : Host.Outcome State Fault Refusal :=
  unit (decide (v < 2048))
    (if !s.hubRuns then s
     else if !s.takes true then s.send .hostUrPosted
     else ({ s with host := { s.host with msix := tput s.host.msix (v * 4 + 3) 1 } } : State).sendPending v)

/-! Writes of configuration words (R364, R366, R378, R380) -/

/-- Configuration words of a function at their reset values. -/
def State.clearConfig (s : State) (fn : Nat) : State :=
  let h := { s.host with cfg := tclear s.host.cfg (fn * 4096) (fn * 4096 + 4096) }
  if fn = 0 then
    { s with host := { h with pmeEn := false, pmeStatus := false, msixEn := false, msixMask := false, mps := 0, mrrs := 2, secure := [], ideKeys := [] } }
  else { s with host := h }

/-- A write of a configuration word: the power management word (R380, R509; log entry 7), the MSI-X capability, whose function mask
holds messages back as a vector's own does (R376), and the device control word, whose bit 15 resets a function of number 1 or 2
(R381; function 0's reset is a command of its own). -/
def State.cfgWrite (s : State) (fn off v : Nat) : State :=
  let h := { s.host with cfg := tput s.host.cfg (fn * 4096 + off) (v % 2 ^ 32) }
  let s := { s with host := h }
  if fn = 0 ∧ off = Config.pmcsr then { s with host := { h with pmeEn := v.testBit 8, pmeStatus := h.pmeStatus && !v.testBit 15 } }
  else if fn = 0 ∧ off = Config.msixCap then
    let s : State := { s with host := { h with msixEn := v.testBit 31, msixMask := v.testBit 30 } }
    h.pba.foldl State.sendPending s
  else if fn = 0 ∧ off = Config.devCtl then { s with host := { h with mps := v / 2 ^ 5 % 8, mrrs := v / 2 ^ 12 % 8 } }
  else if fn ≠ 0 ∧ off = Config.devCtl ∧ v.testBit 15 then s.clearConfig fn
  else s

/-- R366: every request is answered; a write's completion carries no data and reads 0 here. -/
def execConfigRequest (fn : Nat) (wr : Bool) (off v : Nat) (s : State) : Host.Outcome State Fault Refusal :=
  .next (if !s.hubRuns then s
    else if !s.cfgFn fn ∨ 4096 ≤ off then s.send .hostUr
    else
      let o := off / 4 * 4
      if wr then (s.cfgWrite fn o v).send (.cfgCpl 0)
      else s.send (.cfgCpl (s.cfgWord fn o)))

/-! BAR0, BAR4 and function 1 -/

/-- The bytes of a register read. -/
def regBytes (width : Nat) (w : Word) : Bytes := leBytes width w.toNat

/-- R20: a read of a BAR0 has 4 or 8 bytes and is aligned; any other completes with Unsupported Request and leaves its trace in
HUB_ACCESS_ERR. -/
def State.admitRead (s : State) (off : Nat) (a : HostAcc) (serve : State → State × Option Bytes) : State × Option Bytes :=
  if (a.width ≠ 4 ∧ a.width ≠ 8) ∨ off % a.width ≠ 0 then (s.accessFault 0 0 off, none) else serve s

/-- A read of BAR0 below the guest window (R18 to R20, R45, R46): a block that does not answer reads zero (log entry 104). The table of
commands has no row for it: what a read changes is only HUB_ACCESS_ERR. -/
def State.bar0Read (s : State) (off : Nat) (a : HostAcc) : State × Option Bytes :=
  if !s.takes a.secure then (s, none)
  else s.admitRead off a fun s =>
    if !s.blockAnswers off then (s, some (List.replicate a.width 0))
    else
      let (s, w) := s.loadReg off a.width false
      (s, some (regBytes a.width w))

/-- R375: a read of BAR4 returns zero. -/
def State.bar4Read (s : State) (_off : Nat) (a : HostAcc) : Option Bytes := if s.takes a.secure then some (List.replicate a.width 0) else none

/-- R367, R368: function 1's BAR0 reads the TRC block, without IDE of function 0; an offset that no word has reads zero (R46). -/
def State.fn1Read (s : State) (off : Nat) (a : HostAcc) : State × Option Bytes :=
  if !s.linkEnabled then (s, none)
  else s.admitRead off a fun s =>
    let w := if s.blockAnswers 0x600000 then s.trcReg (off / 8 * 8) else 0
    (s, some (regBytes a.width (if off % 8 = 0 then w else w >>> 32)))

/-- R18, R20, R45, R46: the guest window is `guestWindowAccess`'s. A write of the MSI-X table may unmask a vector. -/
def execRegisterWrite (off : Nat) (a : HostAcc) (v : Nat) (s : State) : Host.Outcome State Fault Refusal :=
  .next (if !s.hubRuns ∨ 0x3800000 ≤ off then s
    else
      let s := s.hostStore off a v
      if 0xF0000 ≤ off ∧ off < 0xF8000 then s.sendPending ((off - 0xF0000) / 16) else s)

/-- R368. -/
def execFunction1Write (_off _v : Nat) (s : State) : Host.Outcome State Fault Refusal :=
  .next (if s.hubRuns then s.send .hostUrPosted else s)

/-- R259. -/
def execAtomicopRequest (_bar _off : Nat) (s : State) : Host.Outcome State Fault Refusal :=
  .next (if s.hubRuns then s.send .hostUr else s)

/-! Events to a guidon (R279, R324, R375) -/

/-- The 64 bytes of an event: EVENT, JOB, QUEUE, PRODUCER, GEN, KEYKIND, RESTARTS. -/
def eventBytes (ev j q prod gen kind restarts : Nat) : Bytes :=
  leBytes 1 ev ++ leBytes 1 j ++ leBytes 2 0 ++ leBytes 4 q ++ leBytes 4 prod ++ leBytes 1 gen ++ leBytes 1 kind ++ leBytes 2 0 ++
    leBytes 4 restarts ++ List.replicate 44 0

/-- The next event of a job: what it is, the queue it concerns, and the job without it. A queue whose last event still holds its
credit waits. -/
def State.nextEvent (s : State) (j : Nat) : Option (Bytes × Option Nat × Job) :=
  let x := s.job j
  if x.evRestarted then some (eventBytes 2 j 0 0 0 0 (x.restarts % 2 ^ 32), none, { x with evRestarted := false })
  else
    match x.evKeys with
    | (kind, gen) :: t => some (eventBytes 3 j 0 0 gen kind 0, none, { x with evKeys := t })
    | [] =>
      match x.evQueues.find? fun q => !x.evOut.contains (some q) with
      | some q => some (eventBytes 1 j q (s.qe q).hidx 0 0 0, some q, { x with evQueues := x.evQueues.filter (· ≠ q) })
      | none => none

/-- Send one event where the job runs, its port holds a credit, and one is due. -/
def State.sendEvent (s : State) (j : Nat) : State :=
  let x := s.job j
  match x.guidon, s.nextEvent j with
  | some c, some (b, q, y) =>
    if x.state = 1 ∧ x.evCredits ≠ 0 ∧ !s.sleeping then
      let m : Msg := ⟨hubCore, 0, 7, c, 7, (s.core c).epoch, x.rc.ctx, b⟩
      { s.setJob j { y with evCredits := x.evCredits - 1, evOut := x.evOut ++ [q] } with net := { s.net with msgs := s.net.msgs ++ [m] } }
    else s
  | _, _ => s

def execQueueEventSend (j : Nat) (s : State) : Host.Outcome State Fault Refusal :=
  unit (decide (j < 256)) (if s.hubRuns then s.sendEvent j else s)

/-- A doorbell of a submission queue of a live job: mark the queue, and send where a credit is held. -/
def State.raiseDoorbell (s : State) (q j : Nat) : State :=
  let x := s.job j
  if j = 0 ∨ x.state = 0 then s
  else (s.setJob j { x with evQueues := if x.evQueues.contains q then x.evQueues else x.evQueues ++ [q] }).sendEvent j

/-! Doorbells and indexes (R372, R375) -/

/-- R375: the new host index is in range. -/
def QEntry.doorbellOk (e : QEntry) (h : Nat) : Bool :=
  if e.kind = 1 then decide (idx h e.midx ≤ 2 ^ e.log2) && decide (idx e.hidx e.midx ≤ idx h e.midx)
  else decide (idx h e.hidx ≤ idx e.midx e.hidx)

/-- R372: the new module index is in range. -/
def QEntry.midxOk (e : QEntry) (m : Nat) : Bool :=
  if e.kind = 1 then decide (idx m e.midx ≤ idx e.hidx e.midx)
  else decide (idx m e.hidx ≤ 2 ^ e.log2) && decide (idx e.midx e.hidx ≤ idx m e.hidx)

/-- The entries that HUB held for room in a queue. -/
def State.postLates (s : State) (q : Nat) : State :=
  if s.postBusy q then s else (List.range s.que.late.length).foldl (fun s _ => s.postLate q) s

/-- R375: one doorbell. -/
def State.ringQueue (s : State) (q h : Nat) : State :=
  let e := s.qe q
  if e.kind = 0 then s.rejectQueue q 1
  else if h = e.hidx then s
  else if !e.doorbellOk h then s.rejectQueue q 2
  else
    let s := s.setQe q { e with hidx := h }
    if e.kind = 1 then s.raiseDoorbell q e.job else s.postLates q

def execDoorbell (off : Nat) (a : HostAcc) (v : Nat) (s : State) : Host.Outcome State Fault Refusal :=
  .next (if !s.hubRuns ∨ 2 ^ 19 ≤ off then s
    else if !s.takes a.secure then s.send .hostUrPosted
    else if (a.width ≠ 4 ∧ a.width ≠ 8) ∨ off % a.width ≠ 0 then (s.accessFault 0 1 off).send .hostUrPosted
    else if !s.serves ∨ off % 8 = 4 then s
    else s.ringQueue (off / 8) (v % 2 ^ 32))

/-- R372: HUB takes the `i`-th module index that a home cache has forwarded, those of one queue in their order. -/
def execMidxUpdate (i : Nat) (s : State) : Host.Outcome State Fault Refusal :=
  match s.que.midx[i]? with
  | none => .next s
  | some (q, m) =>
    if !s.hubRuns || (s.que.midx.take i).any (fun e => decide (e.1 = q)) then .next s
    else
      let s := { s with que := { s.que with midx := s.que.midx.eraseIdx i } }
      let e := s.qe q
      .next (if e.kind ≠ 0 ∧ e.midxOk m then (s.takeMidx q m).shadowQueue q
        else (s.rejectQueue q (if e.kind = 0 then 1 else 3)).writeMidx (s.que.copies.take 1) q)

/-- R376: the end of an interval: the message that is owed, and a new interval; or none. -/
def execIntDelayExpire (q : Nat) (s : State) : Host.Outcome State Fault Refusal :=
  unit (decide (q < 65536))
    (let e := s.qe q
     if !s.hubRuns || !e.interval then s
     else
      let s := if e.owed then s.sendMsix e.vector else s
      { s with que := { s.que with q := tput s.que.q q { e with interval := e.owed, owed := false } } })

/-! Queue commands (R377) -/

/-- One QUE_CMD: NOT_READY, reserved bits, then `body`, which answers with a CODE. -/
def queRun (op : Nat) (w : Word) (s : State) (body : State → Nat → State × Nat) : Host.Outcome State Fault Refusal :=
  let done := fun (r : State × Nat) => { r.1 with que := { r.1.que with cmd := none, code := r.2 } }
  .next (if !s.manages || decide (bits w 62 2 ≠ op) then s
    else if (match s.que.cmd with | some c => decide (c ≠ w) | none => false) then { s with que := { s.que with overrun := true } }
    else if !s.serves then done (s, 4)
    else if bits w 16 46 ≠ 0 then done (s, 1)
    else done (body s (bits w 0 16)))

/-- The entry that QUE_CFG0 to QUE_CFG2 describe. -/
def Que.newEntry (x : Que) : QEntry :=
  { (default : QEntry) with
    kind := bits x.cfg0 0 2, ien := bit x.cfg0 8, vector := bits x.cfg0 16 11, log2 := bits x.cfg0 27 5, delay := bits x.cfg0 32 8
    ring := x.cfg1.toNat, shadow := x.cfg2.toNat }

/-- R377, PARAM. -/
def QEntry.paramOk (e : QEntry) : Bool :=
  decide (e.log2 ≤ 16) && decide (e.kind ≠ 0) && decide (e.ring / 2 ^ 40 = 2) && decide (e.ring % 64 = 0) &&
    (decide (e.shadow = 0) || (decide (e.shadow / 2 ^ 40 = 2) && decide (e.shadow % 8 = 0)))

/-- The queue lies in a live job's range. -/
def State.queInJob (s : State) (q : Nat) : Bool :=
  s.live.any fun e => decide (e.2.rc.qFirst ≤ q) && decide (q < e.2.rc.qFirst + e.2.rc.qCount)

def execQueCreate (w : Word) (s : State) : Host.Outcome State Fault Refusal :=
  queRun 1 w s fun s q =>
    let e := s.que.newEntry
    if !e.paramOk then (s, 1)
    else if (s.qe q).kind ≠ 0 then (s, 2)
    else if s.queInJob q then (s, 3)
    else (s.setQe q e, 0)

/-- Make a queue inactive. -/
def State.destroyQueue (s : State) (q : Nat) : State :=
  let s := { s with que := { s.que with late := s.que.late.filter fun e => decide (e.1 ≠ q) } }
  s.setQe q { s.qe q with kind := 0, interval := false, owed := false }

def execQueDestroy (w : Word) (s : State) : Host.Outcome State Fault Refusal :=
  queRun 2 w s fun s q => if s.queInJob q then (s, 3) else if (s.qe q).kind = 0 then (s, 0) else (s.destroyQueue q, 0)

def execQueRead (w : Word) (s : State) : Host.Outcome State Fault Refusal :=
  queRun 3 w s fun s q =>
    let e := s.qe q
    ({ s with que := { s.que with
        cfg0 := packFields [(32, e.delay), (27, e.log2), (16, e.vector), (8, b2n e.ien), (0, e.kind)]
        cfg1 := BitVec.ofNat 64 e.ring, cfg2 := BitVec.ofNat 64 e.shadow, job := e.job, readH := e.hidx, readM := e.midx } }, 0)

/-! Completions of the module's own reads (R352, R378) -/

/-- A core's read-back of host memory has come in (R65). -/
def State.coreReadBack (s : State) (c : Nat) (r : HostReply) : State :=
  let x := s.core c
  let a := x.hostDirty.getD 0
  let s := s.setCore c { x with hostDirty := none, readBack := none }
  if r.has 1 then s else s.imprecise c ⟨r.cause, 2 * 2 ^ 40 + a, 0, 0⟩

/-- Host memory answers the read of a load that has tag `k`; a completion with too little data is poison. -/
def State.coreHostData (s : State) (c k : Nat) (r : HostReply) : State :=
  match (s.core c).wait with
  | none => s
  | some w =>
    match w.tags.find? fun t => decide (t.1 = k) with
    | none => s
    | some (_, o, n) =>
      if r.has n then
        (s.setCore c { s.core c with wait := some { w with tags := w.tags.filter fun t => decide (t.1 ≠ k) } }).deliver c o (r.bytes.take n)
      else s.loadFails c r.cause

/-- A descriptor ends with an error that an access of its own reports, unless it has one already. -/
def DRun.fails (r : DRun) (code addr : Nat) : DRun := if r.code = 0 ∧ !r.stated then { r with code := code, detail := addr } else r

/-- A read-back of a descriptor's writes. -/
def DRun.backIn (r : DRun) (tag : Nat) (h : HostReply) : DRun :=
  let r := { r with tags := r.tags.filter (· ≠ 2 * tag) }
  if h.has 1 then r else r.fails h.code r.back

/-- A read of the guest die from host memory (R404): status 0 with data, or the cause. -/
def State.guestHostData (s : State) (tag : Nat) (r : HostReply) : State :=
  let s := { s with guest := { s.guest with rds := s.guest.rds.filter (· ≠ tag) } }
  if r.has 1 then s.send (.guestCpl 0 r.bytes) else s.send (.guestCpl r.cause [])

/-- The core whose load waits for a tag. -/
def State.loadWaiter (s : State) (tag : Nat) : Option Nat :=
  (s.cores.find? fun e => match e.2.wait with | some w => w.tags.any (fun t => decide (t.1 = tag)) | none => false).map (·.1)
/-- The core whose read-back waits for a tag. -/
def State.backWaiter (s : State) (tag : Nat) : Option Nat := (s.cores.find? fun e => decide (e.2.readBack = some tag)).map (·.1)
/-- The channel whose descriptor waits for a tag, with its run. -/
def State.runWaiter (s : State) (tag : Nat) : Option (Nat × DRun) :=
  s.dma.ch.findSome? fun e => match e.2.run with | some d => if d.tags.contains (2 * tag) then some (e.1, d) else none | none => none

def execPcieCompletion (tag : Nat) (r : HostReply) (s : State) : Host.Outcome State Fault Refusal :=
  .next (if !s.hubRuns then s
    else
      match s.loadWaiter tag with
      | some c => s.coreHostData c tag r
      | none =>
        match s.backWaiter tag with
        | some c => s.coreReadBack c r
        | none =>
          match s.runWaiter tag with
          | some (k, d) => s.setRun k (some (d.backIn tag r))
          | none =>
            match s.serveWaits tag with
            | some w =>
              match s.serveBack w (r.has 1) with
              | (s, some q) => s.postLates q
              | (s, none) => s
            | none => if s.guest.rds.contains tag then s.guestHostData tag r else s)

end Sys2Proof.Machine
end

