-- ==== Sys2Proof/Machine/Links.lean ====
section
/-! DEFINITION. Ngamel ports, frames, windows, die-to-die pairs and the guest die (R281, R282, R383 to R405). -/

namespace Sys2Proof.Machine

/-! Ports that go down and come up (R386, R387, R391, R398) -/

/-- Status code of a descriptor for a cause that a remote module returns (R351). -/
def remoteCode (cause : Nat) : Nat :=
  if cause = causeRange then 4 else if cause = causeRegion then 5 else if cause = causeResidue then 7 else if cause = causePoison then 8 else 6

/-- R282: a remote refusal of a descriptor's access is a fault of the job that owns the channel. -/
def State.dmaRefused (s : State) (k cause : Nat) : State :=
  let j := s.chanJob k
  if j = 0 then s else s.report ⟨0, 0x0B, srcOf 8 0, j, 20, 0, cause, 0⟩

/-- A remote response reaches a descriptor: a read-back or acknowledgement, or the data of a read. -/
def State.dmaRemote (s : State) (k off : Nat) (q : RemReq) (cause : Nat) (data : Bytes) : State :=
  match (s.chan k).run with
  | none => s
  | some r =>
    let ack := r.tags.contains (2 * q.tag + 1)
    let r := if ack then { r with tags := r.tags.filter (· ≠ 2 * q.tag + 1) }
      else { r with inp := if cause = 0 then patch r.inp off (data.take q.len) else r.inp, reads := r.reads - 1 }
    if cause = 0 then s.setRun k (some r)
    else if ack then (s.setRun k (some (r.fails (remoteCode cause) q.da))).dmaRefused k cause
    else if r.moved then s.setRun k (some r)
    else ((s.setRun k (some r)).endEarly k r (remoteCode cause) q.da).dmaRefused k cause

/-- A request of this module is answered: cause 0 with data, or a refusal (R124, R125, R351). -/
def State.answerRemote (s : State) (q : RemReq) (cause : Nat) (data : Bytes) : State :=
  let s := { s with lnk := { s.lnk with rem := s.lnk.rem.filter fun r => decide (r.tag ≠ q.tag) } }
  match q.who with
  | .gone => s
  | .drained c job stage => if cause = 0 then s else s.lateStore c job stage cause q.da
  | .dma k off => s.dmaRemote k off q cause data
  | .core c =>
    if q.write then
      let s := s.acked c
      if cause = 0 then s else s.imprecise c ⟨cause, q.da, 0, 0⟩
    else if cause = 0 then s.deliver c (q.da - (match (s.core c).wait with | some w => w.da | none => q.da)) (data.take q.len)
    else s.loadFails c cause

/-- R398: every request outstanding on a port that goes DOWN completes with ADDR_RANGE. -/
def State.portDown (s : State) (p : Nat) : State :=
  let x := s.lport p
  let l := s.lnk.rem.filter fun r => decide (r.port = p)
  let s := s.setLport p { x with state := 0, width := 0, narrow := false, retry := [], held := [], owe := [], credits := [], fails := 0, txKey := [], rxKey := [] }
  let s := l.foldl (fun s r => s.answerRemote r causeRange []) s
  s.report ⟨0, 0x0A, srcOf 7 p, 0, 20, 0, 0, 0⟩

/-- R385: lanes that are good: signal, and at most one error in 10^5 of the 2^24 pattern bits. -/
def goodLanes (r : PortFind) : Nat :=
  ((r.lanes.take 8).filter fun e => match e with | some n => decide (n * 10 ^ 5 ≤ 2 ^ 24) | none => false).length

/-- R386: the width that both sides reach. -/
def linkWidth (a b : Nat) : Nat :=
  let n := min a b
  if 8 ≤ n then 8 else if 4 ≤ n then 4 else if 2 ≤ n then 2 else n

/-- R429: the module's own chain and signed block 2 go to the peer, and each side encapsulates a secret: key and salt of the two directions, the
one from the lower module id first (log entry 105). -/
def State.portKeys (s : State) (p : Nat) (r : PortFind) : State × Bytes × Bytes :=
  let lower := decide (s.flash.fabricId.getD 0 < r.peerId)
  let own := (Config.kemSecret r.kem s.fresh, Config.randomKey s.fresh)
  let peer := (Config.kemOpen r.kem, r.nonce)
  let (a, b) := if lower then (own, peer) else (peer, own)
  let key := fun d => (shake256 (a.1 ++ b.1 ++ a.2 ++ b.2 ++ [BitVec.ofNat 8 d])).take 36
  let s := ({ s with fresh := s.fresh + 1 } : State).send (.portAttest p ensignChain s.block2 (ensignSign (s.block2 ++ r.nonce)))
  if lower then (s, key 0, key 1) else (s, key 1, key 0)

/-- The peer is the one provisioned and passes attestation (R387, R429). -/
def State.attests (s : State) (p : Nat) (r : PortFind) : Bool :=
  decide (s.flash.fabricPeers[p]? = some r.peerId) && r.attested && decide (s.boot.peerSvnMin ≤ r.peerSvn)

/-- R385 to R389, R429: the outcome of one training. A port that leaves half-mast keeps its keys and counters (R393). -/
def State.trainPort (s : State) (p : Nat) (r : PortFind) (retrain : Bool) : State :=
  let x := s.lport p
  let x := { x with retrain := if retrain then wrap 16 (x.retrain + 1) else x.retrain }
  let w := linkWidth (goodLanes r) r.peerLanes
  if x.state = 1 then
    if w = 0 then (s.setLport p x).portDown p else (s.setLport p { x with state := 2, width := w, narrow := decide (w < 8) }).drainPort p
  else if w = 0 then s.setLport p { x with state := 0, width := 0, narrow := false }
  else if !s.attests p r then
    let s := s.setLport p { x with state := 3, width := w, narrow := decide (w < 8), bridge := r.bridge, peer := r.peerId % 256 }
    if x.state = 3 then s else s.report ⟨0, 0x0A, srcOf 7 p, 0, 20, 0, 0, 0⟩
  else
    let (s, tk, rk) := s.portKeys p r
    let y : LPort := { x with state := 2, txKey := tk, rxKey := rk, width := w, narrow := decide (w < 8), bridge := r.bridge, peer := r.peerId % 256, phase := false, rxPhase := false, rxNew := false,
                              tx := 0, rx := 0, fails := 0, credits := [(0, 2048), (1, 2048), (2, 64)], owe := [], retry := [], held := [] }
    -- R395: identical tables on every port that has the same peer
    let wins := match (s.portsTo y.peer).filter (· ≠ p) with
      | k :: _ => (List.range 16).foldl (fun t i => tput t (p * 16 + i) (tget s.lnk.wins (k * 16 + i))) s.lnk.wins
      | [] => if x.peer = y.peer then s.lnk.wins else tclear s.lnk.wins (p * 16) (p * 16 + 16)
    ({ s with lnk := { s.lnk with wins := wins } } : State).setLport p y

/-- The ports serve: HUB runs, bring-up has passed its step 4, not shut down. -/
def State.linksRun (s : State) : Bool := s.manages && !s.pwr.shutdown

/-- R386, R387, R393: a port that is DOWN, in MISMATCH where firmware asks for it, or on its way out of half-mast trains again; not before
bring-up has ended (R434, R444). -/
def execPortRetry (p : Nat) (r : PortFind) (s : State) : Host.Outcome State Fault Refusal :=
  unit (decide (p < 8))
    (if s.linksRun && !s.sleeping && s.boot.bring.isNone && decide ((s.lport p).state = 0 ∨ (s.lport p).state = 1 ∨ (s.lport p).state = 3) then s.trainPort p r true else s)

def execPortSignalLoss (p : Nat) (s : State) : Host.Outcome State Fault Refusal :=
  unit (decide (p < 8))
    (if s.linksRun && (s.lport p).hears then s.portDown p else s)

/-- The frame of a request leaves its port, where it is still held for credits (R393; log entry 86). -/
def State.dropHeld (s : State) (q : RemReq) : State :=
  let x := s.lport q.port
  s.setLport q.port { x with held := x.held.filter fun e => !(decide (vcOf e.1 = 0) && decide (e.2.tag = q.tag)) }

/-- R398: the `i`-th outstanding request has had no answer for 1 ms. -/
def execRemoteTimeout (i : Nat) (s : State) : Host.Outcome State Fault Refusal :=
  match s.lnk.rem[i]? with
  | none => .next s
  | some q => .next (if s.hubRuns then (s.dropHeld q).answerRemote q causeRange [] else s)

/-! Receiving a frame (R389 to R391) -/

/-- Count and send a NAK; its ACK_CTR says what the receiver has in order. -/
def State.sendNak (s : State) (p : Nat) : State :=
  (s.setLport p { s.lport p with nak := sat 16 ((s.lport p).nak + 1) }).sendFrame p 7 default

/-- R391: frames that an acknowledgement covers leave the retry buffer; those of an older key phase with them. -/
def LPort.ackUpTo (x : LPort) (a : Nat) : LPort :=
  if a = 0 then x
  else if a ≤ x.tx then { x with retry := x.retry.filter fun e => decide (e.2.phase = x.phase) && decide (a < e.2.ctr) }
  else { x with retry := x.retry.filter fun e => decide (e.2.phase = x.phase) || decide (a < e.2.ctr) }

/-- The key of a received frame: the one in use, or with the other phase the one that follows it (R390, R392). -/
def LPort.keyOf (x : LPort) (phase : Bool) : Bytes := if phase = x.rxPhase then x.rxKey else Config.nextKey x.rxKey

/-- R391: the tag of a received frame passes. -/
def LPort.tagOk (x : LPort) (typ : Nat) (f : Frame) : Bool := decide (f.sealed = frameSeal (x.keyOf f.phase) typ f)

/-- An accepted frame: key, counters, acknowledgement, credits back, credits to return. -/
def LPort.accept (x : LPort) (typ : Nat) (f : Frame) : LPort :=
  let x := x.ackUpTo f.ack
  { x with rx := f.ctr, rxPhase := f.phase, rxKey := x.keyOf f.phase, rxNew := (x.rxNew && decide (f.phase = x.rxPhase)) || startsUpdate typ f, fails := 0
           credits := tput x.credits f.creditVc (tget x.credits f.creditVc + f.creditUnits)
           owe := tput x.owe f.vc (tget x.owe f.vc + frameUnits f.data) }

/-- R391, R392: the counter that the next frame of a key phase must have: the other phase is the new key of an update that has been
started, and the retired key otherwise, whose frames are all replays. -/
def LPort.want (x : LPort) (phase : Bool) : Nat := if phase = x.rxPhase then x.rx + 1 else if x.rxNew then 1 else 2 ^ 48

/-- R388, R394: the frame is for this module, and its data are within what a frame holds; any other has no effect beyond its acceptance
(log entry 105). -/
def State.forMe (s : State) (f : Frame) : Bool := decide (f.dst = s.flash.fabricId.getD 0) && decide (f.len ≤ 1024) && decide (f.data.length ≤ 1024)

/-- R391: one frame of type `typ` at port `p`: accepted once and in order, then `body`. -/
def receive (p typ : Nat) (f : Frame) (s : State) (body : State → State) : Host.Outcome State Fault Refusal :=
  unit (decide (p < 8))
    (let x := s.lport p
     let want := x.want f.phase
     if !s.linksRun || !x.carries (vcOf typ) then s
     else if f.ctr < want then s.setLport p { x with replay := sat 16 (x.replay + 1) }
     else if want < f.ctr then s.sendNak p
     else if !x.tagOk typ f then
       let s := s.setLport p { x with tagFail := sat 16 (x.tagFail + 1), fails := x.fails + 1 }
       if 3 ≤ x.fails then (s.sendNak p).portDown p else s.sendNak p
     else
       let s := s.setLport p (x.accept typ { f with vc := vcOf typ })
       (if s.forMe f then body s else s).drainPort p)

/-! Requests of another module (R396) -/

/-- The checks on a window: the target address, or a cause. -/
def State.windowTarget (s : State) (p : Nat) (f : Frame) (write : Bool) : Except Nat (Nat × Nat) :=
  let w := tget s.lnk.wins (p * 16 + f.off / 2 ^ 28 % 16)
  let off := f.off % 2 ^ 28
  let size := bits w.w1 28 17 * 4096
  let base := bits w.w1 12 16 * 4096
  let lcore := bits w.w0 0 11
  if !w.valid || decide (size < off + max f.len 1) || decide (w.epoch ≠ f.epoch) then .error causeRange
  else if !(if write then bit w.w0 61 else bit w.w0 62) then .error causeRegion
  else .ok (if bit w.w0 60 then 2 ^ 40 + lcore * 2 ^ 20 + base + off else lcore * 2 ^ 28 + base + off, bits w.w0 48 8)

/-- The target's die answers (R37, R401). -/
def State.targetRuns (s : State) (da : Nat) : Bool :=
  let c := if da / 2 ^ 40 = 0 then da / 2 ^ 28 else da / 2 ^ 20 % 2 ^ 20
  s.dieRuns (c / 256) && s.bothWays 5 (c / 256)

/-- The halyard requester of a window's context: class 2 (log entry 114). -/
def byRemote (ctx : Nat) : By := ⟨.remote, 2, 0, some ctx, 20, false⟩

/-- The reach of a window access: a slice or a scratch range, or the cause of the refusal (R22, R23, R41, R201, R410), at each bank that it
touches. -/
def State.remoteReach (s : State) (ctx da len : Nat) (write : Bool) : Except Nat Place0 :=
  match s.decodeDA da with
  | some (.slice c off) =>
    match s.phys c with
    | some p =>
      if s.refused (.ctx ctx) c p off write || s.refused (.ctx ctx) c p (off + len - 1) write then .error causeRegion else .ok (.slice c off)
    | none => .error causeRange
  | some (.scratch c off) => if s.reachesScratch (.ctx ctx) c then .ok (.scratch c off) else .error causeRegion
  | _ => .error causeRange

/-- Perform a remote write: 0, or the cause of the refusal; an uncorrectable word of scratch answers as one of a slice does (R54, R208). -/
def State.remoteWrite (s : State) (ctx da : Nat) (data : Bytes) : State × Nat :=
  match s.remoteReach ctx da data.length true with
  | .error e => (s, e)
  | .ok (.slice c off) =>
    match s.phys c with
    | some p => (s.writeNow p off data (fun _ => true) false (byRemote ctx), 0)
    | none => (s, causeRange)
  | .ok (.scratch c off) =>
    match s.scratchRefuses c off (fun _ => true) data.length with
    | some _ => (s, causeSealed)
    | none => (s.scratchWrite c off data (fun _ => true), 0)
  | .ok _ => (s, causeRange)

/-- Perform a remote read: its data and cause. -/
def State.remoteRead (s : State) (ctx da len : Nat) : State × Bytes × Nat :=
  match s.remoteReach ctx da len false with
  | .error e => (s, [], e)
  | .ok (.slice c off) =>
    match s.phys c with
    | some p =>
      match s.readSlice p off len (byRemote ctx) with
      | (s, .ok d) => (s, d, 0)
      | (s, .error (cause, _)) => (s, [], cause)
    | none => (s, [], causeRange)
  | .ok (.scratch c off) => if s.scratchUe c off len then (s, [], causeSealed) else (s.scratchFix c off len, s.scratchRead c off len, 0)
  | .ok _ => (s, [], causeRange)

/-- The answer to a request: its transaction tag and a status. -/
def answerFrame (f : Frame) (status : Nat) (data : Bytes) : Frame :=
  { (default : Frame) with off := f.off, epoch := f.epoch, tag := f.tag, status := status, len := data.length, data := data }

def execFrameWrite (p : Nat) (fr : Frame) (s : State) : Host.Outcome State Fault Refusal :=
  receive p 1 fr s fun s =>
    match s.windowTarget p fr true with
    | .error e => s.sendFrame p 4 (answerFrame fr e [])
    | .ok (da, ctx) =>
      if !s.targetRuns da then s
      else
        let (s, e) := s.remoteWrite ctx da (fr.data.take fr.len)
        s.sendFrame p 4 (answerFrame fr e [])

def execFrameRead (p : Nat) (fr : Frame) (s : State) : Host.Outcome State Fault Refusal :=
  receive p 2 fr s fun s =>
    match s.windowTarget p fr false with
    | .error e => s.sendFrame p 3 (answerFrame fr e [])
    | .ok (da, ctx) =>
      if !s.targetRuns da then s
      else
        let (s, d, e) := s.remoteRead ctx da fr.len
        s.sendFrame p 3 (answerFrame fr e d)

/-! Answers of another module -/

/-- The outstanding request that a frame answers; an answer to none is dropped (R398). -/
def State.answered (s : State) (p : Nat) (f : Frame) (write : Bool) : State :=
  match s.lnk.rem.find? fun r => decide (r.tag = f.tag) && decide (r.port = p) && (r.write == write) with
  | some q => s.answerRemote q f.status f.data
  | none => s

def execReadCompletion (p : Nat) (fr : Frame) (s : State) : Host.Outcome State Fault Refusal :=
  receive p 3 fr s fun s => s.answered p fr false

def execWriteAcknowledgement (p : Nat) (fr : Frame) (s : State) : Host.Outcome State Fault Refusal :=
  receive p 4 fr s fun s => s.answered p fr true

/-- An idle frame carries credits and acknowledgements. -/
def execFrameIdle (p : Nat) (fr : Frame) (s : State) : Host.Outcome State Fault Refusal := receive p 5 fr s id

/-- A management frame; the notices that one may carry are commands of their own. -/
def execFrameManagement (p : Nat) (fr : Frame) (s : State) : Host.Outcome State Fault Refusal := receive p 6 fr s id

/-- R390, R391: retransmit, bit-identical, from the counter that the peer expects. -/
def State.retransmit (s : State) (p : Nat) : State :=
  (s.lport p).retry.foldl (fun s e => s.send (.frame p e.1 e.2)) s

def execFrameNak (p : Nat) (fr : Frame) (s : State) : Host.Outcome State Fault Refusal := receive p 7 fr s fun s => s.retransmit p

/-- R392: a key update on VC 2 once 2^47 frames are sent; at 2^48 − 1 frames the port goes DOWN. -/
def execPortKeyUpdate (p : Nat) (s : State) : Host.Outcome State Fault Refusal :=
  unit (decide (p < 8))
    (let x := s.lport p
     if !s.linksRun || !(decide (x.state = 2) || decide (x.state = 4)) || decide (x.tx < 2 ^ 47) then s
     else if 2 ^ 48 - 1 ≤ x.tx then s.portDown p
     else if x.held.any fun e => startsUpdate e.1 e.2 then s
     else s.sendFrame p 6 keyFrame)

/-! Windows (R395, R399) -/

/-- One LNK_WIN_CMD: `body` answers with a CODE. -/
def winRun (op : Nat) (w : Word) (s : State) (body : State → Nat → Nat → State × Nat) : Host.Outcome State Fault Refusal :=
  let done := fun (r : State × Nat) => { r.1 with lnk := { r.1.lnk with cmd := none, code := r.2 } }
  .next (if !s.linksRun || decide (bits w 62 2 ≠ op) || (match s.lnk.cmd with | some c => decide (c ≠ w) | none => false) then s
    else if bits w 24 37 ≠ 0 ∨ bits w 4 4 ≠ 0 then done (s, 1)
    else done (body s (bits w 8 8) (bits w 0 4)))

/-- R399, PARAM and CONTEXT on the staged words. -/
def State.windowErr (s : State) (a b : Word) : Option Nat :=
  let size := bits b 28 17 * 4096
  let base := bits b 12 16 * 4096
  let c := bits a 0 11
  let n := bits a 48 8
  let j := bits a 40 8
  let scr := bit a 60
  if bits a 56 4 ≠ 0 ∨ bits a 11 13 ≠ 0 ∨ bits b 45 19 ≠ 0 ∨ bits b 0 12 ≠ 0 ∨ size = 0 ∨ (if scr then 2 ^ 20 else 2 ^ 28) < base + size then some 1
  else
    let own := if scr then s.reachesScratch (.ctx n) c
      else s.backed c && (List.range ((base + size + 2 ^ 21 - 1) / 2 ^ 21 - base / 2 ^ 21)).all fun k =>
        let o := s.owner c (base / 2 ^ 21 + k)
        o.owned && decide (o.ctx = n)
    if !own || (decide (j ≠ 0) && (decide ((s.job j).state = 0) || decide ((s.job j).rc.ctx ≠ n))) then some 2 else none

/-- Write one entry on every ACTIVE port to a peer. -/
def State.putWindow (s : State) (m i : Nat) (w : Win) : State :=
  { s with lnk := { s.lnk with wins := (s.portsTo m).foldl (fun t p => tput t (p * 16 + i) w) s.lnk.wins } }

def execWindowCreate (w : Word) (s : State) : Host.Outcome State Fault Refusal :=
  winRun 1 w s fun s m i =>
    let a := s.lnk.stage0
    match s.windowErr a s.lnk.stage1 with
    | some e => (s, e)
    | none =>
      if (s.portsTo m).any fun p => (tget s.lnk.wins (p * 16 + i)).valid then (s, 3)
      else if s.portsTo m = [] then (s, 4)
      else
        let j := bits a 40 8
        let e : Win := Win.setEpoch ⟨a ||| (1 : Word) <<< (63 : Nat), s.lnk.stage1⟩ (if j = 0 then 1 else s.winEpoch j)
        let s := s.putWindow m i e
        ((s.portsTo m).foldl (fun s p => s.noticeEpoch p i e.epoch) s, 0)

def execWindowDelete (w : Word) (s : State) : Host.Outcome State Fault Refusal :=
  winRun 2 w s fun s m i => if s.portsTo m = [] then (s, 4) else (s.putWindow m i default, 0)

/-- R384: PLDM provisions the module id and the expected peer of each port. -/
def execFabricIdProvision (id : Nat) (peers : List Nat) (s : State) : Host.Outcome State Fault Refusal :=
  .next (if s.manages then { s with flash := { s.flash with fabricId := some (id % 256), fabricPeers := (peers.take 8).map (· % 256) } } else s)

/-! Die-to-die pairs (R400, R401) -/

def State.pairOf (s : State) (k : Nat) : Pair := tget s.pairs k
def State.setPair (s : State) (k : Nat) (x : Pair) : State := { s with pairs := tput s.pairs k x }

/-- Dies and HUB that a job's traffic joins. -/
def Job.sites (x : Job) : List Nat := 5 :: ((List.range 5).filter fun d => x.cores.any fun c => decide (c / 256 = d))

/-- A route between two of the job's sites crosses the pair. -/
def Job.crosses (x : Job) (k : Nat) : Bool := x.sites.any fun a => x.sites.any fun b => (routePairs a b).contains k

/-- R401: a pair without a working module. -/
def State.losePair (s : State) (k : Nat) : State :=
  let x := s.pairOf k
  let s := (s.setPair k { x with state := 2, degraded := true, modules := 0, rate := 0 }).raiseAlert 6
  let s := if k = 7 then { s with guestUp := false } else s
  let l := s.live.filter fun e => e.2.crosses k
  if l = [] then s.report ⟨0, 0x09, srcOf 6 k, 0, 20, 0, 0, 0⟩
  else l.foldl (fun s e => s.report ⟨0, 0x09, srcOf 6 k, e.1, 20, 0, 0, 0⟩) s

/-- The pair is up in service. -/
def State.pairUp (s : State) (k : Nat) : Bool := s.hubRuns && !s.halfMast && decide ((s.pairOf k).state = 1)

def execPairLost (pair : Nat) (s : State) : Host.Outcome State Fault Refusal :=
  unit (decide (pair < 8)) (if s.pairUp pair then s.losePair pair else s)

def execD2dModuleFail (pair m : Nat) (s : State) : Host.Outcome State Fault Refusal :=
  unit (decide (pair < 8) && decide (m < 2))
    (let x := s.pairOf pair
     if !s.pairUp pair || !x.modules.testBit m then s
     else if x.modules = 2 ^ m then s.losePair pair
     else s.setPair pair { x with modules := x.modules - 2 ^ m, degraded := true })

/-- R401: the adapter retries; more than 64 retries of a lane in a round repair it, or narrow its module to 32 lanes. -/
def execD2dCrcFail (pair m lane retries : Nat) (s : State) : Host.Outcome State Fault Refusal :=
  unit (decide (pair < 8) && decide (m < 2) && decide (lane < 64))
    (let x := s.pairOf pair
     if !s.pairUp pair || !x.modules.testBit m then s
     else
      let key := m * 64 + lane
      let n := tget x.round key + retries
      let x := { x with retries := wrap 32 (x.retries + retries), degraded := true, round := tput x.round key n }
      if n ≤ 64 then s.setPair pair x
      else
        let r := tget x.repaired m
        let x := { x with round := tput x.round key 0 }
        if r < Config.repairLanes then s.setPair pair { x with repaired := tput x.repaired m (r + 1), repairs := wrap 16 (x.repairs + 1) }
        else s.setPair pair (if x.narrow.testBit m then x else { x with narrow := x.narrow + 2 ^ m }))

/-! The guest die (R404, R405) -/

/-- Complete an access of the host to the guest window. -/
def State.guestDone (s : State) (width : Nat) (wr : Bool) (v : Nat) : State := if wr then s else s.send (.hostCpl (leBytes width v))

/-- R405: an access at window offset `off`; `resp` is the guest's answer where it comes in time. -/
def execGuestWindowAccess (off : Nat) (a : HostAcc) (wr : Bool) (v : Nat) (resp : Option Nat) (s : State) : Host.Outcome State Fault Refusal :=
  .next (if !s.hubRuns ∨ 0x800000 ≤ off then s
    else if !s.takes a.secure then s.send (if wr then .hostUrPosted else .hostUr)
    else if (a.width ≠ 4 ∧ a.width ≠ 8) ∨ off % a.width ≠ 0 then (s.accessFault 0 0 (guestBase + off)).send (if wr then .hostUrPosted else .hostUr)
    else if !s.guestUp ∨ s.guest.csr * 2 ^ 20 ≤ off then (if wr then s.accessFault 1 0 (guestBase + off) else s.guestDone a.width false 0)
    else
      let s := s.send (.guestAccess off wr (if wr then leBytes a.width v else []))
      match resp with
      | some d => s.guestDone a.width wr d
      | none => { s with guest := { s.guest with waiting := s.guest.waiting ++ [(a.width, wr)] } })

def execGuestTimeout (s : State) : Host.Outcome State Fault Refusal :=
  .next (match s.guest.waiting with
    | [] => s
    | (width, wr) :: rest =>
      if !s.hubRuns then s
      else ({ s with guest := { s.guest with waiting := rest, timeouts := wrap 32 (s.guest.timeouts + 1) } } : State).guestDone width wr 0)

/-- The guest's requester: the context that firmware assigned, or the host. -/
def Guest.who (g : Guest) : Who := match g.owner with | some n => .ctx n | none => .host

/-- The cause of a refusal of a guest request, first ADDR_RANGE and then REGION (R404, R350). -/
def State.guestRefusal (s : State) (da len : Nat) (op : GuestOp) : Option Nat :=
  if da / 2 ^ 40 = 3 ∨ da / 2 ^ 40 = 0xFF ∨ op = .atomic then some causeRegion
  else
    match s.reachAll s.guest.who (if op = .read then [(da, len)] else []) (if op = .write then [(da, len)] else []) with
    | some (4, _) => some causeRange
    | some _ => some causeRegion
    | none => none

def execGuestRequest (da len : Nat) (op : GuestOp) (d : Bytes) (s : State) : Host.Outcome State Fault Refusal :=
  .next (if !s.hubRuns || !s.guestUp || decide (len = 0) then s
    else
      let wr := decide (op = .write)
      match s.guestRefusal da len op with
      | some cause => s.send (.guestCpl cause [])
      | none =>
        let b : By := ⟨.dma, 2, 0, s.guest.owner, 20, false⟩
        if da / 2 ^ 40 = 2 then
          if !s.hostOk (da % 2 ^ 40) len then s.send (.guestCpl causePoison [])
          else if wr then (s.hostWrite (da % 2 ^ 40) (d.take len)).send (.guestCpl 0 [])
          else
            if s.readsFull (cuts s.maxRead (da % 2 ^ 40) len).length then s
            else (cuts s.maxRead (da % 2 ^ 40) len).foldl (fun s e =>
              let (t, s) := s.hostRead e.1 e.2
              { s with guest := { s.guest with rds := s.guest.rds ++ [t] } }) s
        else if !s.targetRuns da then s
        else if wr then
          match s.dmaWrite 0 b da (d.take len) (fun _ => true) with
          | (s, none) => s.send (.guestCpl 0 [])
          | (s, some _) => s.send (.guestCpl causeScratch [])
        else
          match s.dmaRead b da len with
          | (s, .ok x) => s.send (.guestCpl 0 x)
          | (s, .error (code, _)) => s.send (.guestCpl (if code = 7 then causeResidue else if da / 2 ^ 40 = 1 then causeScratch else causeSealed) []))

end Sys2Proof.Machine
end

