-- ==== Sys2Proof/Machine/Power.lean ====
section
/-! DEFINITION. Sensors, governing temperatures, forecasts, cap, dip levels, emergency, clamp, shutdown, clocks and half-mast
(R37, R39, R185, R193, R240, R393, R455 to R476, R520, R523). Temperatures are in 0.25 °C. -/

namespace Sys2Proof.Machine

/-! Limits (R464, R240, R462) -/

/-- Core clock at a dip level. -/
def clockAt (d : Nat) : Nat := 500 + 50 * ((maxMhz - 500) / 50 * (15 - d) / 15)
/-- Near-bank admission limit at a dip level. -/
def limitAt (d : Nat) : Nat := if d ≤ 7 then 32 else if d ≤ 11 then 24 else if d ≤ 13 then 16 else 8

/-- Keys of spots: DRAM below 2000. T_limit, emergency forecast and shutdown of a spot. -/
def spotLimit (k : Nat) : Nat := if k < 2000 then 400 else 420
def spotEmergency (k : Nat) : Nat := spotLimit k + 20
def spotShutdown (k : Nat) : Nat := spotLimit k + 40
/-- Cluster or hoist of a spot; 20 for HUB. -/
def spotHoist (k : Nat) : Nat := if k < 2000 then k / 72 else if k < 3000 then (k - 2000) / 9 else 20
/-- Place of a spot in the model's outputs. -/
def spotIndex (k : Nat) : Nat := if k < 2000 then k else if k < 3000 then k - 2000 + 1440 else k - 3000 + 1620

/-- Spots of a die. -/
def dieSpots (d : Nat) : List Nat := (List.range 288).map (288 * d + ·) ++ (List.range 36).map (2000 + 36 * d + ·)
/-- Spots that exist: those of the dies that are up, and HUB's two pairs. -/
def State.spotKeys (s : State) : List Nat := ((List.range 5).filter fun d => (s.die d).up).flatMap dieSpots ++ [3000, 3001]

def State.spot (s : State) (k : Nat) : Spot := tget s.thm.spots k
def State.setSpot (s : State) (k : Nat) (x : Spot) : State := { s with thm := { s.thm with spots := tput s.thm.spots k x } }
def State.setSens (s : State) (k : Nat) (x : Sens) : State := { s with thm := { s.thm with sens := tput s.thm.sens k x } }

/-- Firmware runs and power is on. -/
def State.heatRuns (s : State) : Bool := s.manages && !s.pwr.shutdown

/-! The coolant alert (R467), shutdown (R471, R472, R523) -/

/-- The thermal cap sets the cap in force. -/
def Pwr.byHeat (p : Pwr) : Bool := match p.thermal with | some t => decide (t < min capW p.limitNow) | none => false

/-- FLOW_LOW, and the alert cause COOLANT that follows it, the thermal cap and an emergency. -/
def State.coolantAlert (s : State) : State :=
  let on := s.thm.flowLow || s.pwr.byHeat || s.pwr.emergency
  if on then (if s.alert.causes.getLsbD 1 then s else s.raiseAlert 1) else s.alertOff 1

/-- A thermal shutdown latches; one that ends a bring-up leaves the module not ready (R450, R451). -/
def State.thermalShutdown (s : State) (dram : Bool) (site temp : Nat) : State :=
  if s.pwr.shutdown then s
  else
    let booting := decide (s.boot.state = 0)
    let s : State := { s with
      boot := { s.boot with state := 3, cause := 0x15, elapsed := s.hubCount / 10800 % 2 ^ 24, bring := none, lacks := [], failed := [], relocked := [] }
      pwr := { s.pwr with state := 5, emergency := false, clamp := false, shutdown := true, sdDram := dram, sdSite := site, sdTemp := min temp 1023 }
      halfMast := false, guestUp := false
      guest := { s.guest with present := false, waiting := [], rds := [] }
      map := [], dies := [], clus := [], cores := [], hals := [], nbus := [], mem := [], flips := []
      scratch := [], scratchBad := [], scratchOne := []
      caches := [], invals := [], net := default, jobs := [], serve := []
      place := { s.place with cmd := none }
      sec := { s.sec with cmd := none, genBusy := false }
      mbox := { s.mbox with cmd := none }
      que := { s.que with q := [], copies := [], cmd := none, midx := [], late := [] }
      dma := { s.dma with ch := tmap (fun _ x => { x with run := none }) s.dma.ch }
      lnk := { s.lnk with ports := tmap (fun _ x => { x with state := 0, width := 0, narrow := false, retry := [], held := [], owe := [], credits := [], txKey := [], rxKey := [] }) s.lnk.ports
                          cmd := none, rem := [] } }
    let s := if booting then s.raiseAlert 7 else s
    (s.raiseAlert 0).coolantAlert.report ⟨0, 0x0D, srcOf 8 3, 0, 20, 0, 0, 0⟩

/-- R471: the comparator of a diode, or the guest die's report, trips. -/
def execThermalTrip (site : Nat) (dram : Bool) (temp : Nat) (s : State) : Host.Outcome State Fault Refusal :=
  unit (decide (site < 22))
    (if !s.hubRuns || decide (s.boot.state = 4) || decide (temp < (if dram then 440 else 460)) then s
     else s.thermalShutdown dram site temp)

/-! A die's round (R455, R456, R471, R185) -/

/-- A sensor fails, or becomes stuck or flagged: a fault of class SENSOR. -/
def State.sensorFault (s : State) (count : Bool) : State :=
  let s : State := if count then { s with pwr := { s.pwr with stuck := wrap 16 (s.pwr.stuck + 1) } } else s
  s.report ⟨0, 0x0C, srcOf 8 3, 0, 20, 0, 0, 0⟩

/-- A reading outside 0 °C to 150 °C, or none. -/
def badReading (r : Option Nat) : Bool := match r with | some t => decide (600 < t) | none => true

/-- One sensor is read: the entry of a failed or stuck sensor is the model's. -/
def State.readSens (s : State) (k : Nat) (r : Option Nat) : State :=
  let x := s.sens k
  if x.failed then s
  else if badReading r then (s.setSens k { x with failed := true, flag := 3, runs := 0, highs := 0 }).sensorFault true
  else if x.stuck then s
  else s.setSens k { x with temp := r.getD 0 }

/-- Readings of a die, with the keys of their sensors. -/
def roundKeys (d : Nat) (r : DieRound) : List (Nat × Option Nat) :=
  ((List.range 288).map fun i => (288 * d + i, r.dram.getD i none)) ++ ((List.range 72).map fun i => (2000 + 72 * d + i, r.logic.getD i none))

/-- A raw reading at which the comparator of a diode trips: DRAM or not, site, temperature. -/
def tripOf (s : State) (e : Nat × Option Nat) : Option (Bool × Nat × Nat) :=
  match e.2 with
  | none => none
  | some t =>
    if (s.sens e.1).failed then none
    else if e.1 < 2000 then (if 440 ≤ t then some (true, e.1 / 72, t) else none)
    else if 460 ≤ t then some (false, if e.1 < 3000 then (e.1 - 2000) / 18 else 20, t) else none

/-- Trip where a comparator of a list of sensors does. -/
def State.tripAny (s : State) (l : List (Nat × Option Nat)) : State :=
  match l.findSome? (tripOf s) with
  | some (dram, site, t) => s.thermalShutdown dram site t
  | none => s

/-- Read a list of sensors, and trip where a comparator does. -/
def State.readAll (s : State) (l : List (Nat × Option Nat)) : State := (l.foldl (fun s e => s.readSens e.1 e.2) s).tripAny l

/-- R185: the round of a die ends at its halyards. -/
def State.endViaRound (s : State) (d : Nat) : State :=
  { s with hals := tmap (fun p x => if p / 288 = d then { x with via := x.via.endRound } else x) s.hals }

/-- R54: upsets of scratch words of the die's backed cores, found or not. -/
def State.upsetScratch (s : State) (d : Nat) (l : List (Nat × Nat × Bool)) : State :=
  l.foldl (fun s e => let c := 256 * d + e.1 % 256; if s.backed c then s.scratchUpset c (e.2.1 % 2 ^ 17) e.2.2 else s) s

/-- R455: a die's round. Where a lost pair cuts the way to HUB its readings do not arrive, and its comparators trip all the same
(R401, R471; log entry 56). -/
def execDieHousekeepingRound (d : Nat) (r : DieRound) (s : State) : Host.Outcome State Fault Refusal :=
  unit (decide (d < 5))
    (if !s.heatRuns || s.halfMast || !(s.die d).up then s
     else
      let s := (s.endViaRound d).upsetScratch d r.scratch
      if s.routeUp d 5 then ({ s with thm := { s.thm with seen := tput s.thm.seen d true } } : State).readAll (roundKeys d r)
      else s.tripAny (roundKeys d r))

/-! Governing temperatures (R457, R458) -/

/-- A pair: the higher reading, the other's when one has failed, the estimate when both have. -/
def pairGov (x y : Sens) (e : Nat) : Nat :=
  if x.failed then (if y.failed then e else y.temp) else if y.failed then x.temp else max x.temp y.temp

/-- The two sensors of a pair differ by more than 5 °C. -/
def pairDiffers (x y : Sens) : Bool := !x.failed && !y.failed && (decide (y.temp + 20 < x.temp) || decide (x.temp + 20 < y.temp))

/-- The sensors of a logic or HUB spot. -/
def pairKey (k : Nat) : Nat := if k < 3000 then 2000 + 2 * (k - 2000) else 3000 + 2 * (k - 3000)

/-- One round of a pair: the governing temperature. -/
def State.stepPair (s : State) (k e : Nat) : State × Nat :=
  let a := pairKey k
  let x := s.sens a
  let y := s.sens (a + 1)
  let runs := if pairDiffers x y then min 3 (x.runs + 1) else 0
  let new := decide (runs = 3) && decide (x.flag = 0)
  let fix := fun z : Sens => if z.failed then { z with temp := e } else if new then { z with flag := 2 } else z
  let s := (s.setSens a (fix { x with runs := runs })).setSens (a + 1) (fix y)
  (if new then s.sensorFault false else s, pairGov x y e)

/-- One round of a DRAM sensor. -/
def State.stepDram (s : State) (k e : Nat) : State × Nat :=
  let x := s.sens k
  if x.failed || x.stuck then (s.setSens k { x with temp := e }, e)
  else
    let runs := if x.temp + 32 < e then x.runs + 1 else 0
    let highs := if e + 60 < x.temp then min 500 (x.highs + 1) else 0
    if 3 ≤ runs then ((s.setSens k { x with stuck := true, flag := 1, temp := e, runs := 0, highs := 0 }).sensorFault true, e)
    else
      let new := decide (highs = 500) && decide (x.flag = 0)
      let s := s.setSens k { x with runs := runs, highs := highs, flag := if new then 2 else x.flag }
      (if new then s.sensorFault false else s, x.temp)

/-- R460: the least forecast of a spot: its rise of one round carried on for five. -/
def linear (t prev : Nat) : Nat := t + 5 * t - 5 * prev
def Spot.linear (x : Spot) : Nat := Machine.linear x.gov x.prev

/-- One round of a spot; `dead` says that its die's readings are missing and the model governs. -/
def State.stepSpot (s : State) (r : HubRound) (dead : Bool) (k : Nat) : State :=
  let e := min 1023 (r.estimate.getD (spotIndex k) 0)
  let (s, t) := if dead then (s, e) else if k < 2000 then s.stepDram k e else s.stepPair k e
  let x := s.spot k
  let prev := if x = default then t else x.gov
  s.setSpot k { x with gov := t, prev := prev, fcst := min 1023 (max (r.model.getD (spotIndex k) 0) (linear t prev)), sum := x.sum + t }

/-- HUB rounds in a row without the readings of a die, at which the model takes over. -/
def State.deadDie (s : State) (d : Nat) : Bool := decide (2 ≤ tget s.thm.missing d)
def State.deadHoist (s : State) (h : Nat) : Bool := decide (h < 20) && s.deadDie (h / 4)

/-- R455: count the rounds in which a die's readings, or the guest's report (5), are missing; in half-mast HUB takes them itself. -/
def State.noteMissing (s : State) (r : HubRound) : State :=
  let t := s.thm
  let next := fun (k : Nat) (here : Bool) (m : Tbl Nat) => tput m k (if here then 0 else min 3 (tget m k + 1))
  let m := ((List.range 5).filter fun d => (s.die d).up).foldl (fun m d => next d (s.halfMast || tget t.seen d) m) t.missing
  let m := if s.guestUp then next 5 r.guest.isSome m else m
  { s with thm := { t with missing := m, seen := [] }
           guest := { s.guest with temp := match r.guest with | some g => min g 255 | none => s.guest.temp } }

/-! Bands (R193, R459) -/

/-- The next band of a layer at a governing temperature. -/
def bandOf (cur t : Nat) : Nat :=
  if 380 < t then 2 else if cur = 2 ∧ 368 < t then 2 else if 340 < t then 1 else if 1 ≤ cur ∧ 328 < t then 1 else 0

/-- Governing temperature of a layer. -/
def State.layerTemp (s : State) (h l : Nat) : Nat := ((List.range 9).map fun i => (s.spot (h * 72 + l * 9 + i)).gov).foldl max 0

/-- Set the bands of every halyard of a hoist. -/
def State.setBands (s : State) (h : Nat) : State :=
  let ts := (List.range 8).map (s.layerTemp h)
  { s with hals := tmap (fun p x => if p / 72 = h then
      { x with bands := (List.range 8).foldl (fun t l => tput t l (bandOf (tget x.bands l) (ts.getD l 0))) x.bands } else x) s.hals }

/-! Flow (R467, R520) -/

/-- 500 ms of HUB's clock. -/
def halfSecond : Nat := 5400000

/-- Drop the edges that are older than 500 ms, and form the flow in 0.01 L/min. -/
def State.formFlow (s : State) : State :=
  let t := s.thm
  let l := t.edges.filter fun x => decide (s.hubCount < x + halfSecond)
  { s with thm := { t with edges := l, flowTach := match t.tach with | some f => min 0xFFF (l.length * 2 * 60 * 100 / f) | none => 0 } }

def State.formFlowLow (s : State) : State :=
  let t := s.thm
  ({ s with thm := { t with flowLow := (t.tach.isSome && decide (t.flowTach < 200)) || decide (t.flowEst < 200) } } : State).coolantAlert

/-- R520: PLDM sets the factor of the tachometer. -/
def execTachFactorSet (factor : Nat) (s : State) : Host.Outcome State Fault Refusal :=
  .next (if !s.manages || decide (factor < 100) || decide (10000 < factor) then s
    else { s with thm := { s.thm with tach := some factor } })

/-- An edge of the tachometer, `gap` cycles of HUB's clock after the last: one within the deglitch time of 10 µs does not count. -/
def execFlowTachEdge (gap : Nat) (s : State) : Host.Outcome State Fault Refusal :=
  .next (if !s.hubRuns || decide (gap < 108) then s
    else ({ s with thm := { s.thm with edges := s.thm.edges ++ [s.hubCount] } } : State).formFlow)

/-! Dip levels (R464, R465) -/

/-- Order a dip level: the level, its clock; the admission limit comes with the clock. -/
def State.setDip (s : State) (h d : Nat) : State := s.setClu h { s.clu h with undip := 15 - d, target := clockAt d }

/-- The admission limit of every slice of a cluster. -/
def State.setLimits (s : State) (h n : Nat) : State :=
  { s with nbus := tmap (fun p x => if p / 72 = h then { x with limit := some n } else x) s.nbus }

/-- The synthesiser of a cluster takes the clock that has been ordered. -/
def State.takeClock (s : State) (h : Nat) : State :=
  let x := s.clu h
  if !(s.die (h / 4)).locked || s.halfMast || decide (x.mhz = x.target) then s
  else (s.setClu h { x with mhz := x.target, changes := wrap 16 (x.changes + 1) }).setLimits h (limitAt x.dip)

def execClockChange (h : Nat) (s : State) : Host.Outcome State Fault Refusal :=
  unit (decide (h < 20)) (if s.heatRuns then s.takeClock h else s)

/-- Clusters of dies that are up. -/
def State.liveClusters (s : State) : List Nat := (List.range 20).filter fun h => (s.die (h / 4)).up
/-- Spots of a cluster and of its hoist. -/
def clusterSpots (h : Nat) : List Nat := (List.range 72).map (72 * h + ·) ++ (List.range 9).map (2000 + 9 * h + ·)

/-- A spot of the cluster forecasts above T_limit; no dip level changes its least forecast where that alone is above. -/
def State.forecastHot (s : State) (h : Nat) : Bool := (clusterSpots h).any fun k => decide (spotLimit k < (s.spot k).fcst)
def State.linearAbove (s : State) (h margin : Nat) : Bool := (clusterSpots h).any fun k => decide (spotLimit k < (s.spot k).linear + margin)

/-- The level to which heat raises a cluster. -/
def State.heatLevel (s : State) (r : HubRound) (h : Nat) : Nat :=
  let d := (s.clu h).dip
  if s.deadHoist h then 15
  else if !s.forecastHot h then d
  else if s.linearAbove h 0 then 15 else min 15 (max (d + 1) (r.fit.getD h 15))

/-- Forecast draw at the given dip levels. -/
def drawFor (r : HubRound) (l : List Nat) : Nat :=
  r.drawRest + (l.zipIdx.map fun e => (r.drawAt.getD e.2 []).getD e.1 0).sum

/-- The cluster with the lowest level among those given, the lower number first. -/
def lowestLevel (live l : List Nat) : Option Nat :=
  live.foldl (fun b h => match b with | none => some h | some k => if l.getD h 15 < l.getD k 15 then some h else b) none

/-- Raise the lowest level by one until the forecast draw fits the cap. -/
def raiseForCap (r : HubRound) (live : List Nat) (cap : Nat) : Nat → List Nat → List Nat
  | 0, l => l
  | n + 1, l =>
    if drawFor r l ≤ cap then l
    else
      match lowestLevel live l with
      | none => l
      | some h => if 15 ≤ l.getD h 15 then l else raiseForCap r live cap n (l.set h (l.getD h 15 + 1))

/-- Lower by one each cluster whose spots and whose draw allow it. -/
def State.lowerLevels (s : State) (r : HubRound) (old : List Nat) : List Nat → List Nat → List Nat
  | [], l => l
  | h :: t, l =>
    let d := l.getD h 15
    let m := l.set h (d - 1)
    if d ≠ 0 ∧ d = old.getD h 15 ∧ r.lowOk.getD h false ∧ !s.linearAbove h 12 ∧ !s.deadHoist h ∧ drawFor r m ≤ s.pwr.capNow then
      s.lowerLevels r old t m
    else s.lowerLevels r old t l

/-- The dip decisions of a round. -/
def State.dipRound (s : State) (r : HubRound) : State :=
  let live := s.liveClusters
  let old := (List.range 20).map fun h => (s.clu h).dip
  let hot := (List.range 20).map fun h => if live.contains h then s.heatLevel r h else 15
  let capped := raiseForCap r live s.pwr.capNow 300 hot
  let new := s.lowerLevels r old live capped
  let s := live.foldl (fun s h => if new.getD h 15 = old.getD h 15 then s else s.setDip h (new.getD h 15)) s
  if live.any fun h => decide (old.getD h 15 < new.getD h 15) then { s with pwr := { s.pwr with dipRaises := wrap 16 (s.pwr.dipRaises + 1) } }
  else s

/-- PWR_STATUS.STATE in service. -/
def State.formPwrState (s : State) : State :=
  if s.pwr.state ≤ 1 then { s with pwr := { s.pwr with state := if s.dipMax = 0 then 0 else 1 } } else s

/-! Emergency (R468 to R470) -/

/-- R469: the active units after the first 8 admitted are asked to pause. -/
def Nbu.holdBack (n : Nbu) : Nbu :=
  { n with limit := some 8
           units := tmap (fun _ u => if u.active && !u.paused && decide (8 ≤ (n.units.filter fun e => e.2.active && decide (e.2.seq < u.seq)).length)
             then { u with pauseReq := true } else u) n.units }

def State.enterEmergency (s : State) : State :=
  let live := s.liveClusters
  let raised := live.any fun h => decide ((s.clu h).dip < 15)
  let s := live.foldl (fun s h => s.setDip h 15) s
  let s := { s with nbus := tmap (fun _ x => x.holdBack) s.nbus }
  let s : State := { s with pwr := { s.pwr with emergency := true, emergencies := sat 16 (s.pwr.emergencies + 1), cool := 0
                                                dipRaises := if raised then wrap 16 (s.pwr.dipRaises + 1) else s.pwr.dipRaises } }
  s.coolantAlert

def execEmergencyEnd (s : State) : Host.Outcome State Fault Refusal :=
  .next (if s.heatRuns && s.pwr.emergency && decide (50 ≤ s.pwr.cool) then
      ({ s with pwr := { s.pwr with emergency := false } } : State).coolantAlert
    else s)

/-! HUB's round (R455) -/

/-- Water sensors have the keys 3100 and 3101. -/
def State.readWater (s : State) (r : HubRound) : State :=
  let s := (s.readSens 3100 r.inlet).readSens 3101 r.outlet
  { s with thm := { s.thm with inlet := (s.sens 3100).temp, outlet := (s.sens 3101).temp, flowEst := min 0xFFF r.flowEst } }

/-- The input, and the sums of R461. -/
def State.readInput (s : State) (r : HubRound) : State :=
  let p := s.pwr
  { s with pwr := { p with volt := r.volt % 2 ^ 16, current := r.current % 2 ^ 16, draws := (r.draw :: p.draws).take 500
                           sumIn := p.sumIn + s.thm.inlet, sumP := p.sumP + r.draw, rounds := p.rounds + 1 } }

/-- A governing temperature or the guest die trips at the end of the round. -/
def State.tripRound (s : State) (r : HubRound) (keys : List Nat) : State :=
  match keys.find? fun k => decide (spotShutdown k ≤ (s.spot k).gov) with
  | some k => s.thermalShutdown (decide (k < 2000)) (spotHoist k) (s.spot k).gov
  | none =>
    if s.guestUp && (decide (460 ≤ r.guest.getD 0 * 4) || decide (3 ≤ tget s.thm.missing 5)) then
      s.thermalShutdown false 21 (s.guest.temp * 4)
    else s

/-- Steps of the round after its temperatures: shutdown, emergency, the clamp's release, dip levels (R523); dip 15 holds through bring-up
(R441). -/
def State.actOnHeat (s : State) (r : HubRound) (keys : List Nat) : State :=
  let s := s.tripRound r keys
  if s.pwr.shutdown then s
  else
    let cool := keys.all fun k => decide ((s.spot k).fcst + 40 ≤ spotLimit k)
    let s : State := { s with pwr := { s.pwr with clamp := false, cool := if cool then min 50 (s.pwr.cool + 1) else 0 } }
    let s := if s.halfMast || s.boot.bring.isSome || s.pwr.emergency then s
      else if keys.any fun k => decide (spotEmergency k ≤ (s.spot k).fcst) then s.enterEmergency
      else s.dipRound r
    s.formPwrState

def execHubRound (r : HubRound) (s : State) : Host.Outcome State Fault Refusal :=
  .next (if !s.heatRuns then s
    else
      let s := (s.readWater r).readInput r
      let s := s.readAll ((List.range 4).map fun i => (3000 + i, r.hub.getD i none))
      let s := if s.halfMast then
          ((List.range 5).filter fun d => (s.die d).up).foldl (fun s d => s.readAll (roundKeys d (r.diodes.getD d default))) s
        else s
      if s.pwr.shutdown then s
      else
        let s := s.noteMissing r
        let keys := s.spotKeys
        let s := keys.foldl (fun s k => s.stepSpot r (s.deadHoist (spotHoist k)) k) s
        let s := s.liveClusters.foldl State.setBands s
        let s := s.formFlow.formFlowLow
        let s := { s with pairs := tmap (fun _ x => { x with round := [] }) s.pairs }
        s.actOnHeat r keys)

/-! The cap (R461, R462) -/

/-- Thermal resistance of a spot, in K/W. -/
def State.rthOf (s : State) (k : Nat) : Rat := ((s.spot k).rth).getD ((Config.rthFused k : Rat) / 10000)

/-- R461: the new resistance from averages of draw, spot and inlet (in 0.25 K), and the last ones. -/
def newRth (old p t tin p0 t0 in0 : Rat) (hadLast : Bool) : Rat :=
  let dp := p - p0
  let step := decide ((capW : Rat) / 20 ≤ (if dp < 0 then -dp else dp))
  let x := if hadLast && step then old + (((t - t0) - (tin - in0)) / 4 / dp - old) / 8 else old
  if p = 0 then x else max x ((t - tin) / 4 / p)

/-- A spot's thermal cap; none where its resistance bounds nothing. -/
def thermalCap (k : Nat) (rth tin : Rat) : Option Rat := if rth ≤ 0 then none else some (max 0 (((spotLimit k : Rat) - tin) / 4 / rth))

/-- The lowest thermal cap: its value and its spot's resistance. -/
def State.lowestCap (s : State) (tin : Rat) (keys : List Nat) : Option (Rat × Rat) :=
  keys.foldl (fun b k => match thermalCap k (s.rthOf k) tin, b with
    | none, b => b
    | some c, none => some (c, s.rthOf k)
    | some c, some (d, y) => if c < d then some (c, s.rthOf k) else some (d, y)) none

def floorNat (x : Rat) : Nat := x.floor.toNat

/-- The averages of the rounds since the last update, the resistances, and the caps. -/
def State.updateCap (s : State) : State :=
  let p := s.pwr
  let n : Rat := p.rounds
  let avgP := (p.sumP : Rat) / n
  let tin := (p.sumIn : Rat) / n
  let keys := s.thm.spots.map (·.1)
  let step := fun (k : Nat) (x : Spot) =>
    let t := (x.sum : Rat) / n
    { x with rth := some (newRth (s.rthOf k) avgP t tin p.lastP x.last p.lastIn (decide (p.formed ≠ 0))), last := t, sum := 0 }
  let s := { s with thm := { s.thm with spots := tmap step s.thm.spots } }
  let (cap, rth) := match s.lowestCap tin keys with
    | some (c, y) => (min 0xFFF (floorNat c), floorNat (y * 10000))
    | none => (0xFFF, fusedRth)
  let s : State := { s with pwr := { p with
      thermal := some cap, rth := some (min 0xFFFF rth), cap := some (max floorW (min (min capW p.limitNow) cap)), belowFloor := decide (cap < floorW)
      lastP := avgP, lastIn := tin, sumP := 0, sumIn := 0, rounds := 0, formed := p.formed + 1 } }
  s.coolantAlert

/-- Every 50 rounds. -/
def execCapUpdate (s : State) : Host.Outcome State Fault Refusal :=
  .next (if s.heatRuns && decide (50 ≤ s.pwr.rounds) then s.updateCap else s)

/-- R466: hardware sets every cluster to the clock of dip 15. -/
def execOvercurrentClamp (s : State) : Host.Outcome State Fault Refusal :=
  .next (if !s.heatRuns || s.halfMast || s.pwr.clamp then s
    else
      let s := s.liveClusters.foldl (fun s h => (s.setDip h 15).takeClock h) s
      ({ s with pwr := { s.pwr with clamp := true, clamps := sat 16 (s.pwr.clamps + 1) } } : State).formPwrState)

/-! Clocks (R37, R39) -/

/-- The core clock of a cluster, from its die's root PLL: as it locks, the clock ordered and the limit of its dip level (R240). -/
def State.setCoreClock (s : State) (h : Nat) (on : Bool) : State :=
  let x := s.clu h
  if on then (s.setClu h { x with mhz := x.target }).setLimits h (limitAt x.dip) else s.setClu h { x with mhz := 0 }

/-- The core clocks of a die. -/
def State.setDieClocks (s : State) (d : Nat) (on : Bool) : State :=
  (List.range 4).foldl (fun s c => s.setCoreClock (4 * d + c) on) s

/-- A die's root PLL locks: counter, LOCK_SEQ, sync record, scrubber laps. -/
def State.lockDie (s : State) (d : Nat) : State :=
  let x := s.die d
  let s := s.setDie d { x with locked := true, count := 0, lockSeq := wrap 16 (x.lockSeq + 1) }
  let s := { s with hals := tmap (fun p h => if p / 288 = d then { h with scrub := { h.scrub with line := 0, lapStart := 0, late := false } } else h) s.hals
                    trc := { s.trc with sync := tput s.trc.sync d { tget s.trc.sync d with valid := false } } }
  s.setDieClocks d true

def State.stopDie (s : State) (d : Nat) : State := (s.setDie d { s.die d with locked := false }).setDieClocks d false

/-- Jobs with a core on a die. -/
def State.jobsOn (s : State) (d : Nat) : List Nat := (s.jobs.filter fun e => decide (e.2.state ≠ 0) && e.2.cores.any fun c => decide (c / 256 = d)).map (·.1)

def execHubPllLoss (s : State) : Host.Outcome State Fault Refusal :=
  .next (if !s.hubRuns then s
    else (({ s with hubPllLost := true } : State).raiseAlert 8).report ⟨0, 0x0D, srcOf 8 2, 0, 20, 0, 0, 0⟩)

/-! Half-mast (R380, R393, R474, R475) -/

/-- The entry is asked for, in service: nothing acts on a bring-up but PERST_N (R434). -/
def State.startHalfMast (s : State) : State :=
  if s.heatRuns && s.boot.bring.isNone && !s.halfMast && decide (s.pwr.state ≤ 1) then { s with pwr := { s.pwr with state := 3 } } else s

/-- A job runs or restarts. -/
def State.jobActive (s : State) : Bool := s.jobs.any fun e => decide (e.2.state = 1) || decide (e.2.state = 3)

def execHalfMastEntry (pldm : Bool) (s : State) : Host.Outcome State Fault Refusal :=
  .next (if (if pldm then !s.jobActive else s.host.d3hot) then s.startHalfMast else s)

/-- Every DMA ring is empty, and no bank program is admitted or queued. -/
def State.restful (s : State) : Bool :=
  s.dma.ch.all (fun e => e.2.run.isNone && decide (e.2.prod = e.2.cons)) &&
    s.nbus.all fun e => e.2.queue.isEmpty && e.2.units.all fun u => !u.2.active

/-- Steps 3 to 5 of R474. -/
def execHalfMastDrained (s : State) : Host.Outcome State Fault Refusal :=
  .next (if !s.heatRuns || decide (s.pwr.state ≠ 3) || !s.restful then s
    else
      let s := s.hals.foldl (fun s e => s.flushNow e.1 fun _ => true) s
      let s : State := { s with
        caches := tmap (fun _ x => { x with lines := [], leaving := [] }) s.caches, invals := []
        hals := tmap (fun _ x => if x.train = 2 then { x with train := 4 } else x) s.hals
        lnk := { s.lnk with ports := tmap (fun _ x => if x.state = 2 then { x with state := 4, width := 1, narrow := true } else x) s.lnk.ports } }
      let s := ((List.range 5).filter fun d => (s.die d).up).foldl State.stopDie s
      { s with halfMast := true, pwr := { s.pwr with state := 2 } })

/-- R475: the dies relock, the halyards recalibrate, the ports retrain, and the scrubbers begin new laps. -/
def State.leaveHalfMast (s : State) : State :=
  let s : State := { s with pwr := { s.pwr with state := if s.dipMax = 0 then 0 else 1 } }
  if !s.halfMast then s
  else
    let s : State := { s with
      halfMast := false
      hals := tmap (fun _ x => if x.train = 4 then { x with train := 2 } else x) s.hals
      lnk := { s.lnk with ports := tmap (fun _ x => if x.state = 4 then { x with state := 1 } else x) s.lnk.ports } }
    let s := ((List.range 5).filter fun d => (s.die d).up).foldl State.lockDie s
    s.hals.foldl (fun s e => s.recal e.1) s

/-- Half-mast holds or is on its way. -/
def State.inHalfMast (s : State) : Bool := s.halfMast || decide (s.pwr.state = 3)

def execHalfMastExit (pldm : Bool) (s : State) : Host.Outcome State Fault Refusal :=
  .next (if s.heatRuns && s.inHalfMast && (pldm || !s.host.d3hot) then s.leaveHalfMast else s)

/-- Function 0 is placed in D3hot. -/
def execD3hotEntry (s : State) : Host.Outcome State Fault Refusal :=
  .next (if s.hubRuns then ({ s with host := { s.host with d3hot := true } } : State).startHalfMast else s)

/-- Function 0 returns to D0: WAKE_N is released. -/
def State.toD0 (s : State) : State := { s with host := { s.host with d3hot := false, wake := false } }
def execD0Return (s : State) : Host.Outcome State Fault Refusal :=
  .next (if !s.hubRuns || !s.host.d3hot then s
    else if s.heatRuns && s.inHalfMast then s.toD0.leaveHalfMast else s.toD0)

/-! Function level resets (R381) -/

def execFlrFunction0 (s : State) : Host.Outcome State Fault Refusal :=
  .next (if !s.hubRuns then s
    else
      let s := ((s.jobs.filter fun e => decide (e.2.state ≠ 0)).map (·.1)).foldl State.retireJob s
      let s := (s.que.q.map (·.1)).foldl State.destroyQueue s
      let s := ((s.dma.ch.filter fun e => e.2.host).map (·.1)).foldl State.disableChannel s
      let s := s.clearConfig 0
      if s.heatRuns && s.inHalfMast && s.host.d3hot then s.toD0.leaveHalfMast else s.toD0)

def execFlrFunction1 (s : State) : Host.Outcome State Fault Refusal :=
  .next (if s.hubRuns then s.clearConfig 1 else s)

end Sys2Proof.Machine
end

