-- ==== Sys2Proof/Machine/Boot.lean ====
section
/-! DEFINITION. Input power, PERST_N, bring-up and the mailbox (R17, R381, R385, R402, R434 to R453, R507, R516). -/

namespace Sys2Proof.Machine

/-! Flash slots (R435 to R437, R439) -/

def State.setSlot (s : State) (n : Nat) (x : SlotInfo) : State :=
  { s with flash := { s.flash with slots := tput s.flash.slots n { x with present := true } } }

/-- The fused floor of the SVN. -/
def State.svnFloor (s : State) : Nat := max Config.svnFloor s.flash.fuseSvn

/-- R436, but for the SVN. -/
def slotVerifies (x : SlotInfo) : Bool := x.markerValid && x.signature && decide (x.markerDigest = x.manifestDigest) && x.image

/-- The slot with the higher sequence number in a valid marker. -/
def State.firstSlot (s : State) : Nat :=
  let seq := fun n => if (s.slot n).markerValid then (s.slot n).markerSeq + 1 else 0
  if seq 0 < seq 1 then 1 else 0
def State.romAccepts (s : State) (n : Nat) : Bool := slotVerifies (s.slot n) && decide (s.svnFloor ≤ (s.slot n).svn)
/-- The slot that the ROM accepts. -/
def State.chooseSlot (s : State) : Option Nat := ([s.firstSlot, 1 - s.firstSlot] : List Nat).find? s.romAccepts

/-- R439: the slot that the mailbox acts on. -/
def State.inactiveSlot (s : State) : Nat :=
  if s.boot.slot = 1 then 1 else if s.boot.slot = 2 then 0 else if (s.slot 1).markerSeq < (s.slot 0).markerSeq then 1 else 0

/-- Erase the commit marker of a slot. -/
def State.eraseMarker (s : State) (n : Nat) : State := s.setSlot n { s.slot n with markerSeq := 0, markerValid := false }

/-- A STAGE or COMMIT that a reset or a loss of power ends leaves no valid marker. -/
def State.cutMailbox (s : State) : State :=
  match s.mbox.cmd with
  | some w => if bits w 60 4 = 2 ∨ bits w 60 4 = 3 then s.eraseMarker s.inactiveSlot else s
  | none => s

/-! Power and PERST_N (R381, R451, R471, R476, R516) -/

/-- Everything at its reset value, but for what lies outside the module's reset: the queue of commands, what has been sent, the
flash and the fuses, the meter board and its place, and the shutdown latch where `latch` says that it holds. -/
def State.resetModule (s : State) (latch : Bool) : State :=
  let r : State := { State.reset with pending := s.pending, tx := s.tx, fresh := s.fresh, flash := s.flash, meter := s.meter
                                      mtrPres := s.mtrPres }
  if latch && s.pwr.shutdown then
    ({ r with pwr := { r.pwr with state := 5, shutdown := true, sdDram := s.pwr.sdDram, sdSite := s.pwr.sdSite, sdTemp := s.pwr.sdTemp } } : State).alertOn 0
  else r

def execPerstNAssert (s : State) : Host.Outcome State Fault Refusal := .next (if s.struck then s else s.cutMailbox.resetModule true)

/-- A hot reset resets the module as PERST_N does; bring-up follows as after its deassertion. -/
def execHotReset (s : State) : Host.Outcome State Fault Refusal := .next (if s.struck || !s.perstOut then s else s.cutMailbox.resetModule true)

/-- The 36 V input leaves its operating range (R476). -/
def execInputLoss (s : State) : Host.Outcome State Fault Refusal :=
  .next (if s.struck then s else { s.cutMailbox.resetModule false with struck := true })

/-- The supply returns: R514, without a meter board the module has no return path and stays struck. -/
def execInputRestore (s : State) : Host.Outcome State Fault Refusal :=
  .next (if s.struck && s.mtrPres then { s with struck := false } else s)

/-! Step 2: pairs, guest, dies (R34, R400 to R402, R440) -/

/-- A pair that trains with the modules of mask `m`. -/
def trainPair (m : Nat) : Pair :=
  let n := b2n (m.testBit 0) + b2n (m.testBit 1)
  if n = 0 then { (default : Pair) with state := 2, degraded := true }
  else { (default : Pair) with state := 1, degraded := decide (n < 2), rate := 6, modules := m % 4, base := 64 }

/-- R402: the guest die answers with the fused partner code, and a module trains. -/
def guestFound (b : BootIn) : Bool := b.guestAnswers && decide (b.guestPartner = partnerCode) && decide (b.guestModules % 4 ≠ 0)

/-- Pair 7: absent without a guest site. -/
def guestPair (b : BootIn) : Pair :=
  if !Config.guestSite then { (default : Pair) with state := 3 }
  else
    let n := b2n (b.guestModules.testBit 0) + b2n (b.guestModules.testBit 1)
    if n = 0 then { (default : Pair) with state := 2, degraded := true }
    else { (default : Pair) with state := 1, degraded := decide (n < 2), rate := max 1 (min 6 b.guestRate), modules := b.guestModules % 4
                                 base := if b.guestLanes = 32 then 32 else 64 }

def State.trainPairs (s : State) (b : BootIn) : State :=
  let s : State := { s with pairs := tput (tputs [] 0 ((List.range 7).map fun k => trainPair (b.pairModules.getD k 3))) 7 (guestPair b) }
  if !Config.guestSite then s
  else if !b.guestAnswers then { s with guestUp := decide (b.guestModules % 4 ≠ 0), guest := { s.guest with owner := b.guestOwner } }
  else
    { s with guestUp := decide (b.guestModules % 4 ≠ 0)
             guest := { s.guest with owner := b.guestOwner, vendor := b.guestVendor % 2 ^ 16, partner := b.guestPartner % 2 ^ 16, device := b.guestDevice % 2 ^ 16
                                     power := b.guestPower % 2 ^ 8, csr := min 8 b.guestCsr, present := guestFound b } }

/-- The pairs that forward a die's reference. -/
def refPairs (d : Nat) : List Nat := [[5, 2], [3], [6, 4], [5], [6]].getD d []

/-- R440: a die stays out where its PLL does not lock or a lost pair cuts it off. -/
def State.dieReached (s : State) (b : BootIn) (d : Nat) : Bool :=
  decide (b.dieLocks.getD d 1 ≠ 0) && s.bothWays 5 d && (refPairs d).all fun k => decide ((s.pairOf k).state ≠ 2)

/-- Leave out the higher-numbered of two dies that a lost pair parts. -/
def State.partDies (s : State) (ups : List Nat) : List Nat :=
  ((List.range 5).flatMap fun a => (List.range 5).map fun c => (a, c)).foldl
    (fun l e => if e.1 < e.2 ∧ l.contains e.1 ∧ l.contains e.2 ∧ !s.bothWays e.1 e.2 then l.filter (· ≠ e.2) else l) ups

def State.lockDies (s : State) (b : BootIn) : State :=
  let ups := s.partDies ((List.range 5).filter (s.dieReached b))
  { s with dies := ups.map fun d => (d, { up := true, locked := true, lockSeq := b.dieLocks.getD d 1 % 2 ^ 16, count := b.dieCounts.getD d 0 % 2 ^ 64 }) }

/-! Step 3: training, repair, tests, reconciliation (R179 to R184, R219, R220, R441 to R443) -/

/-- What is found of a physical core; a cluster whose cache fails its test makes every core of it bad (R441). -/
def findingOf (b : BootIn) (k : Nat) : PhysFind :=
  let f := (b.phys.find? fun f => decide (f.key = k)).getD default
  if b.cacheBad.contains (k / 72) then { f with tests := .cache :: f.tests } else f

/-- Vias in ascending order, once each. -/
def sortVias (n : Nat) (l : List Nat) : List Nat := (List.range n).filter l.contains

/-- R180: a via is bad when a pattern bit it carries is in error at any layer, or its eye at any layer is narrower than 0.35 of a unit
interval; a suspect clock via is bad unless step 3 passes on it. -/
def viaBad (v : ViaFind) : Bool := decide (v.errors ≠ 0) || (match v.eye with | some w => decide (w < 350) | none => false)

/-- Bad vias: data and check, and command (from 0). -/
def badDataOf (f : PhysFind) : List Nat := sortVias 576 ((f.vias.filter viaBad).map (·.via))
def badCmdOf (f : PhysFind) : List Nat := sortVias 44 ((f.vias.filter fun v => viaBad v && decide (576 ≤ v.via)).map (·.via - 576))

/-- R181, R182: the half in use (none at full width), and the data and check vias that take spares; none where training fails. -/
def trainVias (f : PhysFind) : Option (Option Nat × List Nat) :=
  let bad := badDataOf f
  let of := fun h => bad.filter fun v => decide (viaHalf v = h)
  if 4 < (badCmdOf f).length then none
  else if bad.length ≤ 32 then some (none, bad)
  else
    let h := if (of 1).length < (of 0).length then 1 else 0
    if 32 < (of h).length then none else some (some h, of h)

/-! Repair (R177, R219, R220): the units that share spares are a bank's column groups, four spares, and the rows of one of its four
sub-arrays, two spares -/

/-- The pools of spares of a bank: the four sub-arrays, then the column groups. -/
def spareCount (k : Nat) : Nat := if k = 4 then 4 else 2
/-- The pool that a unit takes its spare from; a row's sub-array is its number modulo four. -/
def unitPool (u : UnitFind) : Nat := if u.col then 4 else u.num % 4

/-- Bad units of a bank and pool: those of the fuse map, or those that the fuse map calls good and the test finds bad. -/
def poolUnits (f : PhysFind) (bank k : Nat) (fuse : Bool) : List Nat :=
  let l := f.units.filter fun u => decide (u.bank = bank) && decide (unitPool u = k)
  let fused := (l.filter (·.fuse)).map (·.num)
  (if fuse then fused else ((l.filter (·.test)).map (·.num)).filter fun n => !fused.contains n).eraseDups

/-- Spares of a pool that the fuse map takes, and then the test. -/
def poolTaken (f : PhysFind) (bank k : Nat) (fuse : Bool) : Nat :=
  let a := min (spareCount k) (poolUnits f bank k true).length
  if fuse then a else min (spareCount k - a) (poolUnits f bank k false).length

/-- A bank whose bad units exceed its free spares. -/
def unrepairable (f : PhysFind) (bank : Nat) : Bool :=
  (List.range 5).any fun k => decide (spareCount k < (poolUnits f bank k true).length + (poolUnits f bank k false).length)
/-- A unit of the bank that the fuse map calls good and the test finds bad. -/
def disagrees (f : PhysFind) (bank : Nat) : Bool := (List.range 5).any fun k => !(poolUnits f bank k false).isEmpty

/-- Spare rows (or column groups) of a layer that the fuse map (or the test) has taken. -/
def layerTaken (f : PhysFind) (layer : Nat) (col fuse : Bool) : Nat :=
  ((List.range 16).map fun b => if col then poolTaken f (16 * layer + b) 4 fuse
    else ((List.range 4).map fun k => poolTaken f (16 * layer + b) k fuse).sum).sum

/-- HAL_REPAIR of one layer. -/
def repairOf (f : PhysFind) (layer : Nat) : Repair :=
  ⟨layerTaken f layer false true, layerTaken f layer false false, layerTaken f layer true true, layerTaken f layer true false,
    maskOf 16 fun b => unrepairable f (16 * layer + b), maskOf 16 fun b => disagrees f (16 * layer + b)⟩

/-- The halyard controller of a physical core after training. -/
def trainedHal (f : PhysFind) : Hal :=
  let x : Hal := { (default : Hal) with repair := tputs [] 0 ((List.range 8).map (repairOf f)) }
  match trainVias f with
  | none => { x with train := 5 }
  | some (half, vs) =>
    { x with train := 2, half := half.isSome, halfSel := decide (half = some 1), degraded := half.isSome
             via := { x.via with bad := badDataOf f
                                 spares := assignSpares 32 false (badCmdOf f) (assignSpares 0 false vs []) } }

/-- A test of R441 fails. -/
def testsBad (f : PhysFind) : Bool := !f.tests.isEmpty || (trainVias f).isNone || (List.range 128).any (unrepairable f)
def isBad (f : PhysFind) : Bool := f.fuseBad || testsBad f
def isHalf (f : PhysFind) : Bool := match trainVias f with | some (some _, _) => true | _ => false

/-- The map of one cluster (R443): pairs of logical and physical place, spares, half-width cores left over. -/
def assignCluster (full half : List Nat) : List (Nat × Nat) × List Nat × List Nat :=
  let n := 64 - min 64 full.length
  let up := (full.take 64).zipIdx.map fun e => (e.2, e.1)
  let down := (half.take n).zipIdx.map fun e => (63 - e.2, e.1)
  (up ++ down.reverse, full.drop 64, half.drop n)

/-- A core that bring-up holds while its bunting goes on. -/
def bornCore (vector run : Nat) : Core :=
  { (default : Core) with run := run, fw := true, epoch := 1, pc := vector
                          sys := { (default : Sysr) with fwVector := BitVec.ofNat 64 vector, clean := true, cold := true } }

/-- Physical places of a cluster that are good at full width, and at half width. -/
def goodPlaces (b : BootIn) (h : Nat) : List Nat × List Nat :=
  let good := (List.range 72).filter fun p => !isBad (findingOf b (72 * h + p))
  (good.filter fun p => !isHalf (findingOf b (72 * h + p)), good.filter fun p => isHalf (findingOf b (72 * h + p)))

/-- CLU_RECONCILE and the spares of a cluster. -/
def bornClu (b : BootIn) (h : Nat) : Clu :=
  let fs := (List.range 72).map fun p => findingOf b (72 * h + p)
  let (full, half) := goodPlaces b h
  let (_, spares, left) := assignCluster full half
  { (default : Clu) with
    spares := spares, leftover := left, mhz := 500, target := 500
    recFuse := (fs.filter (·.fuseBad)).length, recTest := (fs.filter testsBad).length
    recDisagree := (fs.filter fun f => !f.fuseBad && testsBad f).length, recHalf := half.length, recGood := full.length }

/-- The map, the clusters and the slices of the dies that are up; every core at epoch 1, with its firmware vector still to come. -/
def State.reconcile (s : State) (b : BootIn) : State :=
  let hs := s.liveClusters
  let keys := hs.flatMap fun h => (List.range 72).map (72 * h + ·)
  { s with
    map := hs.flatMap fun h => let g := goodPlaces b h; (assignCluster g.1 g.2).1.map fun e => (64 * h + e.1, e.2 + 1)
    clus := hs.map fun h => (h, bornClu b h)
    hals := keys.map fun k => (k, trainedHal (findingOf b k))
    nbus := keys.map fun k => (k, { (default : Nbu) with limit := some 8 }) }

/-! Steps 4 and 5: ports, queue table, store, bunting (R371, R444 to R448) -/

/-- The core whose slice holds a die's copy of the queue table. -/
def State.copyHome (s : State) (d : Nat) : Option Nat := ((List.range 256).map (256 * d + ·)).find? s.backed

def State.placeCopies (s : State) : State :=
  let l := ([1, 3] : List Nat).filterMap s.copyHome
  l.foldl (fun s c => s.reserveBanks c true) { s with que := { s.que with copies := l } }

/-- A good physical core has still to report. -/
def State.reporting (s : State) (p : Nat) : Bool := s.boot.lacks.any fun e => decide (e.1 = p)

/-- RUN of a core while step 5 goes on; `sent` says that the store's copies are good and the bunting has begun. -/
def State.bornRun (s : State) (sent : Bool) (c : Nat) : Nat :=
  match s.phys c with
  | some p => if !sent || s.reporting p || s.boot.failed.contains p then 1 else 2
  | none => 0

def State.bearCores (s : State) (sent : Bool) : State :=
  { s with cores := s.map.map fun e => (e.1, bornCore (s.storeFor (e.1 / 256)) (s.bornRun sent e.1)) }

/-- Good physical cores of the dies that are up. -/
def State.goodCores (s : State) (b : BootIn) : List Nat :=
  s.liveClusters.flatMap fun h => let g := goodPlaces b h; (g.1 ++ g.2).map (72 * h + ·)

/-- Start the bunting: the blocks that cores lack, and the cores whose digest is wrong. -/
def State.startBunting (s : State) (b : BootIn) : State :=
  let fs := b.phys.filter fun f => (s.goodCores b).contains f.key
  { s with boot := { s.boot with lacks := (fs.filter fun f => !f.digestBad).flatMap fun f => f.lacks.map fun k => (f.key, k, 0)
                                 failed := (fs.filter fun f => f.digestBad).map (·.key) } }

/-- R445: management firmware writes the blocks of core firmware into the store behind each copy of the queue table. -/
def State.fillStore (s : State) (m : SlotInfo) : State :=
  s.que.copies.foldl (fun s c =>
    match s.phys c with
    | some p => { s with mem := tputs s.mem (p * 2 ^ 28 + storeBase) m.blocks.flatten }
    | none => s) s

/-- R445: a copy reads back with the digests of the manifest, at the first write or the second. -/
def storeGood (m : SlotInfo) (fails : List Nat) : Bool :=
  fails.all (fun n => decide (n < 2)) && decide (m.blocks.map shake256 = m.blockDigests) &&
    (m.blocks.isEmpty || decide (shake256 m.blocks.flatten = m.finalDigest))

/-- R448: replace one failed core in its cluster. -/
def State.replace (s : State) (p : Nat) : State :=
  let h := p / 72
  let x := s.clu h
  match s.lcoreOf p with
  | none => s.setClu h { x with spares := x.spares.filter (· ≠ p % 72), leftover := x.leftover.filter (· ≠ p % 72) }
  | some c =>
    let put := fun (q : Nat) (x : Clu) => ({ s with map := tput s.map c (q + 1) } : State).setClu h x
    match x.spares, x.leftover with
    | q :: t, _ => put q { x with spares := t }
    | [], q :: t => put q { x with leftover := t }
    | [], [] => ({ s with map := tput s.map c 0, cores := tput s.cores c default } : State).setClu h x

/-- BUNTING_BAD, GOOD, and the replacements: first the failed cores that no logical number needs, then the others. -/
def State.replaceFailed (s : State) : State :=
  let bad := s.boot.failed
  let s := bad.foldl (fun s p =>
    let x := s.clu (p / 72)
    s.setClu (p / 72) { x with recBunting := x.recBunting + 1, recGood := if (s.hal p).half then x.recGood else x.recGood - 1 }) s
  let mapped := (s.map.map fun e => e.1 / 64 * 72 + (e.2 - 1)).filter bad.contains
  let s := (bad.filter fun p => !mapped.contains p).foldl State.replace s
  mapped.foldl State.replace s

/-! The topology check and the outcome (R449, R450) -/

/-- CAUSE of the first failing item, 0 for none. -/
def State.topologyCause (s : State) (m : SlotInfo) : Nat :=
  let ups := maskOf 5 fun d => (s.die d).up
  let exposed := ((List.range 20).filter fun h => s.map.any fun e => decide (e.1 / 64 = h)).length
  if ups ≠ m.expDies % 32 then 0x10
  else if exposed < m.expClusters ∨ s.lcoreCount < max m.minLcores minCores then 0x12
  else if (List.range 8).any fun p => m.expPorts.testBit p && decide ((s.lport p).state ≠ 2) then 0x13
  else if m.expGuest ≠ partnerCode ∨ (Config.guestSite ∧ !s.guest.present) then 0x11
  else 0

/-- HUB_BOOT_MISMATCH. -/
def State.recordMismatch (s : State) (m : SlotInfo) : State :=
  { s with boot := { s.boot with
      misCluster := maskOf 20 fun h => decide ((s.backedOf h).length < 64)
      misPorts := maskOf 8 fun p => m.expPorts.testBit p && !(decide ((s.lport p).state = 2) && decide ((s.lport p).width = 8))
      misGuest := decide (m.expGuest ≠ partnerCode) || (Config.guestSite && !s.guest.present)
      misDie := maskOf 5 fun d => m.expDies.testBit d && !(s.die d).up } }

/-- A ready module is degraded. -/
def State.isDegraded (s : State) (m : SlotInfo) : Bool :=
  decide (s.lcoreCount < 1280) || s.map.any (fun e => (s.hal (e.1 / 64 * 72 + (e.2 - 1))).half) ||
    (List.range 8).any (fun p => m.expPorts.testBit p && decide ((s.lport p).width < 8)) || s.pairs.any fun e => e.2.degraded

/-- HUB_BOOT_STATUS at an outcome. -/
def State.outcome (s : State) (b : BootIn) (state step cause : Nat) : State :=
  { s with boot := { s.boot with state := state, step := step, cause := cause, elapsed := b.elapsedMs % 2 ^ 24, bring := none, lacks := [], failed := [], relocked := [] }
           hubCount := b.elapsedMs * 10800 }

/-- The steps of a ready or degraded outcome. -/
def State.openModule (s : State) (m : SlotInfo) : State :=
  { s with
    caches := s.liveClusters.map fun h => (h, { (default : Cache) with enabled := true })
    hals := tmap (fun p x => { x with scrub := { x.scrub with enabled := true, lapStart := (s.die (p / 288)).count } }) s.hals
    dma := { s.dma with mode0 := true, crc := tclear s.dma.crc 4 16 }
    flash := { s.flash with fuseSvn := if s.svnFloor < m.svnFloor then m.svnFloor else s.flash.fuseSvn } }

/-- The end of step 5: replacements, after which a queue copy in a slice that is no longer backed moves (R371), the topology check, and the
outcome. -/
def State.finishBoot (s : State) (b : BootIn) (m : SlotInfo) : State :=
  let s := s.replaceFailed
  let s := (s.que.copies.filter fun c => !s.backed c).foldl (fun s c => (s.queCopyLost c).1) s
  let s := (({ s with boot := { s.boot with lacks := [], failed := [] } } : State).bearCores true).recordMismatch m
  let cause := s.topologyCause m
  if cause ≠ 0 then (s.outcome b 3 6 cause).alertOn 7
  else (s.openModule m).outcome b (if s.isDegraded m then 2 else 1) 6 0

/-! Bring-up (R434) -/

/-- What the accepted manifest sets. -/
def State.takeManifest (s : State) (n : Nat) : State :=
  let m := s.slot n
  { s with boot := { s.boot with slot := n + 1, svn := m.svn % 2 ^ 16, expPorts := m.expPorts % 2 ^ 8, expGuest := m.expGuest, peerSvnMin := m.peerSvnMin, step := 5 }
           sec := { s.sec with ideRequired := m.ideRequired }
           mbox := { s.mbox with seq := m.markerSeq % 2 ^ 32 } }

/-- Steps 2 to 5. -/
def State.bringUp (s : State) (b : BootIn) (n : Nat) : State :=
  let s := s.takeManifest n
  match b.trip with
  | some (step, dram, site, t) =>
    ({ s with hubCount := b.elapsedMs * 10800, boot := { s.boot with step := max 2 (min 6 step) } } : State).thermalShutdown dram site t
  | none =>
    let s := (((s.trainPairs b).lockDies b).reconcile b)
    let s := (List.range 8).foldl (fun s p => s.trainPort p (b.ports.getD p default) false) s
    let s := s.placeCopies
    let s := s.fillStore (s.slot n)
    if !storeGood (s.slot n) b.storeFails then ((s.bearCores false).outcome b 3 5 0x14).alertOn 7
    else
      let s := (s.startBunting b).bearCores true
      if s.boot.lacks.isEmpty then s.finishBoot b (s.slot n) else { s with boot := { s.boot with bring := some (b, s.slot n) } }

/-- R438: no slot passes. -/
def State.recovery (s : State) (b : BootIn) : State :=
  let rollback := ([0, 1] : List Nat).any fun n => slotVerifies (s.slot n)
  s.outcome b 4 1 (if rollback then 2 else 1)

/-- PERST_N deasserts: straps sampled, HUB's clock and counter started, the slot chosen. -/
def execPerstNDeassert (b : BootIn) (s : State) : Host.Outcome State Fault Refusal :=
  .next (if s.struck || s.perstOut then s
    else
      let s := s.resetModule true
      let s : State := { s with perstOut := true, host := { s.host with bifur := b.strapBifur, addr := 0x60 + b.strapAddr % 4 } }
      if !b.refclk then ({ s with hubPllLost := true } : State).alertOn 8
      else if s.pwr.shutdown then (s.outcome b 3 1 0x15).alertOn 7
      else
        match s.chooseSlot with
        | some n => s.bringUp b n
        | none => s.recovery b)

/-- R447: one request for a block; a block that fails the third makes its core bad. -/
def State.rerequest (s : State) (p block : Nat) (good : Bool) : State :=
  match s.boot.lacks.find? fun e => decide (e.1 = p) && decide (e.2.1 = block) with
  | none => s
  | some e =>
    let l := s.boot.lacks
    if good then { s with boot := { s.boot with lacks := l.erase e } }
    else if e.2.2 < 2 then { s with boot := { s.boot with lacks := l.map fun x => if x = e then (p, block, e.2.2 + 1) else x } }
    else { s with boot := { s.boot with lacks := l.filter (fun x => decide (x.1 ≠ p)), failed := s.boot.failed ++ [p] } }

/-- The core's RUN, once it has reported. -/
def State.reportRun (s : State) (p : Nat) : State :=
  match s.lcoreOf p with
  | some c => if s.reporting p || s.boot.failed.contains p then s else s.setCore c { s.core c with run := 2 }
  | none => s

def execBuntingRerequest (c block : Nat) (good : Bool) (s : State) : Host.Outcome State Fault Refusal :=
  unit (decide (c < 1440))
    (match s.boot.bring with
     | none => s
     | some (b, m) =>
      if !s.hubRuns then s
      else
        let s := (s.rerequest c block good).reportRun c
        if s.boot.lacks.isEmpty then s.finishBoot b m else s)

/-! Loss of a die's clock (R37, R440) -/

/-- R440: a die is left out: its cores, slices and copies of the queue table with it. -/
def State.leaveOut (s : State) (d : Nat) : State :=
  let cs := s.que.copies.filter fun c => decide (c / 256 = d)
  let s : State := { s with
    dies := tput s.dies d { s.die d with up := false, locked := false }
    map := s.map.filter fun e => decide (e.1 / 256 ≠ d), cores := s.cores.filter fun e => decide (e.1 / 256 ≠ d)
    clus := s.clus.filter fun e => decide (e.1 / 4 ≠ d), hals := s.hals.filter fun e => decide (e.1 / 288 ≠ d)
    nbus := s.nbus.filter fun e => decide (e.1 / 288 ≠ d)
    boot := { s.boot with lacks := s.boot.lacks.filter (fun e => decide (e.1 / 288 ≠ d)), failed := s.boot.failed.filter fun p => decide (p / 288 ≠ d) } }
  cs.foldl (fun s c => (s.queCopyLost c).1) s

/-- R37, R440, R480: a die's root PLL loses lock. With no job on the die one record has JOB 0 (log entry 108). While step 5 goes on, a second
loss leaves the die out, a loss in steps 2 to 4 counting as the first. -/
def execDiePllLoss (d : Nat) (s : State) : Host.Outcome State Fault Refusal :=
  unit (decide (d < 5))
    (if !s.heatRuns || s.halfMast || !(s.die d).locked then s
     else
      let js := s.jobsOn d
      let s := (if js = [] then [0] else js).foldl (fun s j => s.report ⟨d + 1, 0x08, srcOf 4 d, j, 20, 0, 0, 0⟩) (s.stopDie d)
      match s.boot.bring with
      | none => s
      | some (b, m) =>
        if 2 ≤ b.dieLocks.getD d 1 ∨ d ∈ s.boot.relocked then
          let s := s.leaveOut d
          if s.boot.lacks.isEmpty then s.finishBoot b m else s
        else { s with boot := { s.boot with relocked := s.boot.relocked ++ [d] } })

/-- R440: the part of step 3 of one die, done again: its slices trained, its near-bank units at rest. -/
def State.redoDie (s : State) (b : BootIn) (d : Nat) : State :=
  { s with hals := tmap (fun p x => if p / 288 = d then trainedHal (findingOf b p) else x) s.hals
           nbus := tmap (fun p x => if p / 288 = d then { (default : Nbu) with limit := some 8 } else x) s.nbus }

/-- R37: management firmware relocks a die; in service also while a pair that forwards its reference is lost (log entry 109). -/
def execDiePllRelock (d : Nat) (s : State) : Host.Outcome State Fault Refusal :=
  unit (decide (d < 5))
    (if s.heatRuns && !s.halfMast && (s.die d).up && !(s.die d).locked then
      (match s.boot.bring with
       | some (b, _) => (s.lockDie d).redoDie b d
       | none => s.lockDie d)
     else s)

/-! The mailbox (R439) -/

/-- One HUB_MBOX_CMD: `body` gets ARG and answers with a CODE. -/
def mboxRun (op : Nat) (w : Word) (s : State) (body : State → Nat → State × Nat) : Host.Outcome State Fault Refusal :=
  .next (if !s.hubRuns || decide (bits w 60 4 ≠ op) then s
    else if (match s.mbox.cmd with | some c => decide (c ≠ w) | none => false) then { s with mbox := { s.mbox with overrun := true } }
    else
      let r := body s (bits w 0 13)
      { r.1 with mbox := { r.1.mbox with cmd := none, code := r.2 } })

/-- Record `i` of the boot log's ring of 32,768; erased where none has been written. -/
def logRecord (log : List Bytes) (i : Nat) : Bytes :=
  let n := log.length
  let k := if i < n % 32768 then n / 32768 * 32768 + i else (n / 32768 - 1) * 32768 + i
  if n ≤ i then List.replicate 64 0xFF else log.getD k []

/-- Cells of a window of bytes. -/
def windowCells (l : Bytes) : List Host.Cell := (l.zipIdx.filter fun e => decide (e.1 ≠ 0)).map fun e => (e.2, e.1)

def execMboxReadLog (w : Word) (s : State) : Host.Outcome State Fault Refusal :=
  mboxRun 1 w s fun s a =>
    if 511 < a then (s, 1)
    else ({ s with mbox := { s.mbox with window := windowCells ((List.range 64).flatMap fun i => logRecord s.flash.log (64 * a + i)) } }, 0)

/-- R435: flash offset of an image slot. -/
def slotBase (n : Nat) : Nat := 0x0100000 + n * 0x1800000

/-- The data window is programmed into a chunk of the slot. `slot` tells how the slot's manifest then reads and verifies; its `present` is
false where the program or the erase fails. -/
def execMboxStage (w : Word) (slot : SlotInfo) (s : State) : Host.Outcome State Fault Refusal :=
  mboxRun 2 w s fun s a =>
    if 6143 < a then (s, 1)
    else
      let n := s.inactiveSlot
      let old := s.slot n
      let (seq, ok) := if a = 0 then (0, false) else if a = 6143 then (slot.markerSeq, slot.markerValid) else (old.markerSeq, old.markerValid)
      let dig := if a = 0 then [] else if a = 6143 then slot.markerDigest else old.markerDigest
      let s : State := if slot.present then
          { s with flash := { s.flash with chunks := tput s.flash.chunks (slotBase n / 4096 + a) (fitBytes 4096 (tgets s.mbox.window 0 4096)) } }
        else s
      (s.setSlot n { slot with markerSeq := seq, markerValid := ok, markerDigest := dig }, if slot.present then 0 else 2)

/-- The sequence number of the next commit. -/
def State.nextSeq (s : State) : Nat :=
  if s.boot.slot = 0 then max (s.slot 0).markerSeq (s.slot 1).markerSeq + 1 else s.mbox.seq + 1

/-- A marker that the flash fails to program is not valid. -/
def execMboxCommit (x : FlashOp) (s : State) : Host.Outcome State Fault Refusal :=
  mboxRun 3 x.word s fun s _ =>
    let n := s.inactiveSlot
    let m := s.slot n
    if !m.signature then (s, 3)
    else if m.svn < s.svnFloor then (s, 4)
    else if !m.image then (s, 5)
    else if x.fails then (s.eraseMarker n, 2)
    else (s.setSlot n { m with markerSeq := s.nextSeq % 2 ^ 32, markerValid := true, markerDigest := m.manifestDigest }, 0)

def execMboxAbort (x : FlashOp) (s : State) : Host.Outcome State Fault Refusal :=
  mboxRun 4 x.word s fun s _ => if x.fails then (s, 2) else (s.eraseMarker s.inactiveSlot, 0)

end Sys2Proof.Machine
end

