-- ==== Sys2Proof/Machine/Matrix.lean ====
section
/-! DEFINITION. Matrix class: stationary block, array operations, check columns (R78 to R95, R148 to R151). -/

namespace Sys2Proof.Machine

/-- R80: the operand types of the arrays; K of each. -/
def arrayType (n : Nat) : Option EType := if n < 6 then etypeOf n else none
def arrayK (t : EType) : Nat := if t.width = 4 then 32 else 16

/-- R81: row type and block type go together. -/
def typesMatch (a b : EType) : Bool := decide (a.isFloat = b.isFloat) && decide (a.width = b.width)

/-- R82: element W[k][n] of a block image. -/
def blockElem (t : EType) (tr : Bool) (img : Bytes) (k n : Nat) : Nat :=
  if t.width = 8 then (img.getD (if tr then 16 * n + k else 16 * k + n) 0).toNat
  else
    let (byte, odd) := if tr then (16 * n + k / 2, k % 2) else (8 * k + n / 2, n % 2)
    (img.getD byte 0).toNat / 16 ^ odd % 16

/-- R83: element x[k] of a row image. -/
def rowElem (t : EType) (img : Bytes) (k : Nat) : Nat :=
  if t.width = 8 then (img.getD k 0).toNat else (img.getD (k / 2) 0).toNat / 16 ^ (k % 2) % 16

/-- Exact sum under IEEE 754 rules; an exact zero sum is +0 (R107). -/
def fvSum (l : List Fv) : Fv := l.foldl Fv.add (.fin false 0 0)

/-- R78, R107: the exact column sum n. -/
def colSum (xs : List Fv) (w : Nat → Nat → Fv) (n : Nat) : Fv :=
  fvSum ((List.range xs.length).map fun k => (xs.getD k .nan).mul (w k n))

/-- Round to FP32 and take the exact value back. -/
def round32 (v : Fv) : Fv := f32 (rnd32 v)

/-- R93, R108: the check of one row: none when it passes, otherwise TOL and DIFF. -/
def checkRow (xs : List Fv) (w : Nat → Nat → Fv) (sums : List Fv) : Option (Nat × Nat) :=
  let ks := List.range xs.length
  let ck := fun k => round32 (fvSum ((List.range 16).map (w k)))
  let mk := fun k => round32 (fvSum ((List.range 16).map fun n => (w k n).abs))
  let cv := round32 (fvSum (ks.map fun k => (xs.getD k .nan).mul (ck k)))
  let yv := round32 (fvSum sums)
  let mv := round32 (fvSum (ks.map fun k => (xs.getD k .nan).abs.mul (mk k)))
  if !(cv.isFinite && yv.isFinite && mv.isFinite) then none
  else
    let d := (cv.add yv.neg).abs
    if (mv.scale (-20)).lt d then some (rnd32 (mv.scale (-20)), rnd32 d) else none

/-- R85, R105: one tile element after a row: base, column sum, sign and exponent; NaN when a scale is 0xFF. -/
def tileElem (base : Nat) (sum : Fv) (neg : Bool) (psh xs ws : Nat) : Nat :=
  if xs = 0xFF ∨ ws = 0xFF then f32Nan
  else
    let v := sum.scale ((psh : Int) + (xs - 127) + (ws - 127))
    rnd32 ((f32 base).add (if neg then v.neg else v))

/-! Formats MW, MO and MT (R148, R149) -/

/-- A register group vN to vN+3. -/
def Core.group (x : Core) (n : Nat) : List V512 := (List.range 4).map fun i => x.vreg (n + i)

/-- R149: the source field is legal. -/
def srcOk (sk src : Nat) : Bool := if sk = 0 then decide (src < 16) else decide (src % 4 = 0)

/-- An array operation still depends on the current block (R91). -/
def Core.blockBusy (x : Core) : Bool := x.arr.any fun e => e.2.any fun o => !o.clear

/-- A stationary load that is replaced before it has read its stream still receives the bytes that it reserved (R92, R155). -/
def Core.keepLoad (x : Core) : Core :=
  match x.blk.src with
  | some (q, u) => { x with blkOld := x.blkOld ++ [(q, u, x.blk.seq)] }
  | none => x

/-- What holds a consumer of a stream in D2: a ticket on a bank of its bytes (R61), in which case RUN reads 4, or a fault on its way
from an earlier consumer (R74). -/
def Core.takeHeld (x : Core) (q n : Nat) : Option Bool :=
  if x.ticketUnits (x.desc q) (x.desc q).pos n then some true
  else if x.badStreams.contains q then some false
  else none

/-- R90, R150: MLDW. -/
def execMldw (c : Nat) (f : BitVec 56) (s : State) : Host.Outcome State Fault Refusal :=
  runCore c s fun s x =>
    let sk := fld f 52 1
    let src := fld f 47 5
    let typ := fld f 38 4
    legal s (zeros f [(53, 3), (0, 37)] && srcOk sk src && decide (typ < 6))
      (if x.blockBusy then .held false
       else
        let b : Blk := ⟨true, none, false, false, typ, decide (fld f 37 1 = 1), (x.sreg (fld f 42 5)).toNat % 256, [], x.issue⟩
        let x' := { x.keepLoad with issue := (x.issue + 1) % 2 ^ 16 }
        if sk = 1 then .done (s.setCore c { x' with blk := { b with data := ((x.group src).map vbytes).flatten } })
        else
          let d := x.desc src
          match d.takeCause 0 16, x.takeHeld src 16 with
          | some cause, _ => .exc s cause 0
          | none, some ev => .held ev
          | none, none => .done (s.setCore c ({ x' with blk := { b with src := some (src, d.pos) } }.setDesc src { d with pos := d.pos + 16 })))

/-- R69, R92: a stationary load reads its 256 bytes: none where they cannot be delivered yet. A failure raises M_OPERAND with the load's
issue number. -/
def State.loadBlock (s : State) (c p q u seq : Nat) : Option (State × Option Bytes) :=
  if s.unitsWait c p q u 16 then none
  else
    match s.readUnits c p q u 16 with
    | (s, .ok data) => some (s.setCore c ((s.core c).delivered q u 16), some data)
    | (s, .error (_, a)) =>
      let x := (s.core c).delivered q u 16
      some ((s.setCore c { x with badStreams := x.badStreams ++ [q] }).imprecise c ⟨causeMOperand, a, seq, 0⟩, none)

/-- R91, R92: once the block is present and no earlier operation depends on the old one, it shifts into the arrays. A load that a later one
has replaced only reads its bytes, first. -/
def execBlockShiftStart (c : Nat) (s : State) : Host.Outcome State Fault Refusal :=
  let x := s.core c
  unit (decide (c < 1280))
    (if !(s.dieRuns (c / 256)) || !x.blk.held then s
     else
      match x.blkOld, s.phys c with
      | (q, u, seq) :: t, some p =>
        (match s.loadBlock c p q u seq with
         | some (s, _) => s.setCore c { s.core c with blkOld := t }
         | none => s)
      | _, none => s
      | [], some p =>
        if x.blk.shifted then s
        else
          match x.blk.src with
          | none => s.setCore c { x with blk := { x.blk with shifted := true } }
          | some (q, u) =>
            match s.loadBlock c p q u x.blk.seq with
            | none => s
            | some (s, some data) =>
              let x := s.core c
              s.setCore c { x with blk := { x.blk with src := none, shifted := true, data := data } }
            | some (s, none) =>
              let (d, s) := s.freeBytes 256
              let x := s.core c
              s.setCore c { x with blk := { x.blk with src := none, shifted := true, invalid := true, data := d } })

/-- R84 to R87, R150: MOP. -/
def execMop (c : Nat) (f : BitVec 56) (s : State) : Host.Outcome State Fault Refusal :=
  runCore c s fun s x =>
    let arr := fld f 54 2
    let tile := fld f 51 3
    let sk := fld f 50 1
    let src := fld f 45 5
    let rows := fld f 36 9
    let xt := fld f 27 4
    let psh := fld f 25 2
    let xs := fld f 23 1
    let vs := fld f 18 5
    let ok := zeros f [(0, 18)] && decide (tile / 2 = arr) && srcOk sk src && decide (rows ≤ 256) && decide (psh < 3) &&
      (decide (xs = 1) || decide (vs = 0)) && x.blk.held &&
      (match arrayType xt, arrayType x.blk.typ with | some a, some b => typesMatch a b | _, _ => false)
    let d := x.desc src
    let long := decide (sk = 1 ∧ 16 < rows) || decide (xs = 1 ∧ 64 < rows)
    let op : ArrOp := ⟨false, tile, if sk = 0 then some (src, d.pos) else none, if sk = 0 then [] else x.group src,
      rows, fld f 32 4, decide (fld f 31 1 = 1), xt, 8 * psh, decide (fld f 24 1 = 1),
      if xs = 1 then some (x.vreg vs) else none, x.issue, 0⟩
    let x' := { x with issue := (x.issue + 1) % 2 ^ 16 }
    legal s ok
      (if rows = 0 then .done (s.setCore c x')
       else if 8 ≤ (x.queue arr).length then .held false
       else
        match if sk = 0 then d.takeCause 0 rows else none, if sk = 0 then x.takeHeld src rows else none with
        | some cause, _ => .exc s cause 0
        | none, held =>
          if long then .exc s causeLen 0
          else if held.isSome then .held (held.getD false)
          else if fld f 31 1 = 1 ∧ x.badTiles.contains tile then .held false
          else
            let x' := x'.setQueue arr (x.queue arr ++ [op])
            .done (s.setCore c (if sk = 0 then x'.setDesc src { d with pos := d.pos + rows } else x')))

/-- Retire the first operation of an array. -/
def Core.popOp (x : Core) (k : Nat) : Core := x.setQueue k (x.queue k).tail

/-- The operation at the head of an array ends in a fault: its tile may no longer be read, nor its stream consumed (R74). -/
def State.arrayFault (s : State) (c k : Nat) (op : ArrOp) (cause addr : Nat) : State :=
  let x := (s.core c).popOp k
  (s.setCore c { x with badTiles := x.badTiles ++ [op.tile]
                        badStreams := match op.src with | some (q, _) => x.badStreams ++ [q] | none => x.badStreams }).imprecise c
    ⟨cause, addr, op.seq, 0⟩

/-- The 16 bytes of row `i`: from the register group, or from the stream. -/
def State.rowBytes (s : State) (c p : Nat) (op : ArrOp) (i : Nat) : State × Except (Nat × Nat) Bytes :=
  match op.src with
  | none => (s, .ok (((vbytes (op.regs.getD (i / 4) 0)).drop (16 * (i % 4))).take 16))
  | some (q, u) => s.readUnits c p q (u + i) 1

/-- The column sums with the fault of a cell added (R93). -/
def faultySums (sums : List Fv) : RowFault → List Fv
  | .cell n m e => sums.mapIdx fun i v => if i = n then v.add (.fin (decide (m < 0)) m.natAbs e) else v
  | _ => sums

/-- R85, R93 to R95: the row at the head of array `k` enters. A row that fails its check raises CHECK_COLUMN, and the operation's
later rows enter all the same (log entry 69). A fault inside the check logic finds free values of TOL and DIFF. On an invalid block the
checks are made on its undefined bytes, and the tile is not written and may no longer be read (R74, R92; log entry 77). -/
def State.enterRow (s : State) (c k : Nat) (op : ArrOp) (img : Bytes) (flt : RowFault) : State :=
  let x := s.core c
  let i := op.next
  let t := (op.r0 + i) % 16
  match arrayType op.xtype, arrayType x.blk.typ with
  | some xt, some wt =>
    let kk := arrayK xt
    let xs := (List.range kk).map fun j => xt.val (rowElem xt img j)
    let w := fun a n => wt.val (blockElem wt x.blk.tr x.blk.data a n)
    let sums := faultySums ((List.range 16).map (colSum xs w)) flt
    let scale := match op.xs with | none => 127 | some v => lane 8 v i
    let old := x.tile op.tile t
    let base := fun n => if !op.acc && decide (i < 16) then 0 else lane 32 old n
    let row := packLanes 32 ((List.range 16).map fun n => tileElem (base n) (sums.getD n .nan) op.neg op.psh scale x.blk.ws)
    let x := { x with stat := { x.stat with rows := x.stat.rows + 1 } }
    let s := s.setCtx x.ctx { s.ctx x.ctx with rows := (s.ctx x.ctx).rows + 1 }
    let parity := match flt with | .wire j => if j < kk then some j else none | _ => none
    let (tol, diff, s) := match flt with
      | .check =>
        let (tol, s) := s.free
        let (diff, s) := s.free
        (tol % 2 ^ 32, diff % 2 ^ 32, s)
      | _ => (0, 0, s)
    let bad : Option (Nat × Nat × Option Nat) :=
      match parity, flt with
      | some j, _ => some (0, 0, some j)
      | none, .check => some (tol, diff, none)
      | none, _ => (checkRow xs w sums).map fun e : Nat × Nat => (e.1, e.2, none)
    let goesOn := fun x : Core =>
      if op.rows ≤ i + 1 then
        (let y := x.popOp k; if x.blk.invalid then { y with badTiles := y.badTiles ++ [op.tile] } else y)
      else x.setQueue k ({ op with next := i + 1 } :: (x.queue k).tail)
    let put := fun (x : Core) (v : V512) => if x.blk.invalid then x else x.setTile op.tile t v
    match bad with
    | none => s.setCore c (goesOn (put x row))
    | some (tol, diff, wire) =>
      let (v, s) := s.free
      let x := put x (BitVec.ofNat 512 v)
      let x := if x.exc.chkSet then x else
        { x with exc := { x.exc with
            chkSet := true
            chk0 := packFields [(32, tol), (0, diff)]
            chk1 := packFields [(16, i), (12, t), (9, op.tile), (8, b2n wire.isSome), (0, wire.getD 0)] } }
      (s.setCore c (goesOn { x with badTiles := x.badTiles ++ [op.tile] })).imprecise c ⟨causeCheck, 0, op.seq, 0⟩
  | _, _ => s

/-- R79, R85, R88, R91: a row enters array `k`, or an MCLR takes its array cycle. -/
def execArrayRowEnter (c k : Nat) (flt : RowFault) (s : State) : Host.Outcome State Fault Refusal :=
  let x := s.core c
  unit (decide (c < 1280) && decide (k < 4))
    (match x.queue k, s.phys c with
     | op :: _, some p =>
      if !s.dieRuns (c / 256) then s
      else if op.clear then
        s.setCore c (((List.range 16).foldl (fun x r => x.setTile op.tile r 0) x).popOp k)
      else if !x.blk.shifted then s
      else
        match op.src with
        | some (q, u) =>
          if s.unitsWait c p q (u + op.next) 1 then s
          else
            match s.rowBytes c p op op.next with
            | (s, .error (_, a)) =>
              -- log entry 77: the operation ends, and its remaining reserved bytes count as delivered
              let s := s.setCore c ((s.core c).delivered q (u + op.next) (op.rows - op.next))
              s.arrayFault c k op causeMOperand a
            | (s, .ok img) =>
              let s := s.setCore c ((s.core c).delivered q (u + op.next) 1)
              s.enterRow c k op img flt
        | none =>
          match s.rowBytes c p op op.next with
          | (s, .ok img) => s.enterRow c k op img flt
          | (s, .error _) => s
     | _, _ => s)

/-- A tile has a pending array write, or its last operation faulted (R61, R74). -/
def Core.tileHeld (x : Core) (t : Nat) : Bool :=
  (x.queue (t / 2)).any (fun o => decide (o.tile = t)) || x.badTiles.contains t

/-- R150: MRD. -/
def execMrd (c : Nat) (f : BitVec 56) (s : State) : Host.Outcome State Fault Refusal :=
  runCore c s fun s x =>
    legal s (zeros f [(53, 3), (0, 41)])
      (if x.tileHeld (fld f 45 3) then .held false
       else doneV s c (fRD f) (x.tile (fld f 45 3) (fld f 41 4)))

/-- R150: MCLR. -/
def execMclr (c : Nat) (f : BitVec 56) (s : State) : Host.Outcome State Fault Refusal :=
  runCore c s fun s x =>
    let tile := fld f 45 3
    legal s (zeros f [(53, 3), (48, 5), (41, 4), (0, 41)])
      (if 8 ≤ (x.queue (tile / 2)).length then .held false
       else
        let op : ArrOp := ⟨true, tile, none, [], 1, 0, false, 0, 0, false, none, x.issue, 0⟩
        .done (s.setCore c ({ x with issue := (x.issue + 1) % 2 ^ 16 }.setQueue (tile / 2) (x.queue (tile / 2) ++ [op]))))

end Sys2Proof.Machine
end

