-- ==== Sys2Proof/Machine/Meter.lean ====
section
/-! DEFINITION. The sealed meter board and its mirror in the module (R495 to R503). -/

namespace Sys2Proof.Machine

/-! The board -/

def State.setMeter (s : State) (m : Meter) : State := { s with meter := m }

/-- The board's seconds go on, but not to the next multiple of 900, whose record is a command (log entry 9). -/
def State.meterTime (s : State) : State :=
  let (v, s) := s.free
  s.setMeter { s.meter with seconds := s.meter.seconds + v % (900 - s.meter.seconds % 900) }

/-- The body of the next record (R498). -/
def Meter.body (m : Meter) (typ : Nat) (nonce : Bytes) : Bytes :=
  leBytes 4 0x4D545231 ++ leBytes 1 typ ++ leBytes 1 (b2n m.tamper + 2 * b2n m.voltOut + 4 * b2n m.overload) ++ leBytes 2 (Config.meterSwVersion m.id) ++
    leBytes 8 m.id ++ leBytes 8 (m.seq + 1) ++ leBytes 8 m.seconds ++ leBytes 8 m.energy ++ leBytes 4 m.powerFails ++
    leBytes 4 m.tampers ++ fitBytes 32 nonce ++ fitBytes 32 (Config.meterSwDigest m.id) ++ List.replicate 16 0

/-- Issue a record (R499): the flags of the time since the last one begin anew; the board holds 4,096. -/
def State.issueRecord (s : State) (typ : Nat) (nonce : Bytes) : State :=
  let m := s.meter
  let b := m.body typ nonce
  s.setMeter { m with seq := m.seq + 1, voltOut := false, overload := false, records := ((m.seq + 1, b ++ Config.meterSign m.id b) :: m.records).take 4096 }

/-- An event record, and an entry of the event log, whose form the spec does not give. -/
def State.meterEvent (s : State) : State :=
  let (v, s) := s.free
  (s.setMeter { s.meter with log := s.meter.log ++ [leBytes 8 v] }).issueRecord 3 []

def execIntervalRecord (s : State) : Host.Outcome State Fault Refusal :=
  .next (if s.meter.off then s
    else (s.setMeter { s.meter with seconds := (s.meter.seconds / 900 + 1) * 900 }).issueRecord 1 [])

/-- R497, R502: the latch of the cover switch holds without supply; the record then follows the return of supply. -/
def execCoverOpening (s : State) : Host.Outcome State Fault Refusal :=
  .next (
    let m := s.meter
    let s := s.setMeter { m with tamper := true, tampers := wrap 32 (m.tampers + 1), owed := if m.off then m.owed + 1 else 0 }
    if m.off then s else s.meterTime.meterEvent)

/-- R495, R499: the supply falls below 24 V: the board records it and stops. -/
def State.meterDown (s : State) : State :=
  let m := s.meter
  if m.off then s
  else
    let s := (s.setMeter { m with powerFails := wrap 32 (m.powerFails + 1), voltOut := true }).meterTime.meterEvent
    s.setMeter { s.meter with off := true }

/-- R499, R502: the supply returns: the records of the cover openings in between, and that of the return. -/
def State.meterUp (s : State) : State :=
  let m := s.meter
  if m.off then
    let s := (List.range m.owed).foldl (fun s _ => s.meterEvent) (s.setMeter { m with off := false, voltOut := true, owed := 0 })
    s.meterEvent
  else s

/-- R503: the board that is fitted; another one than that known last comes with its own values, without supply. -/
def Meter.fitted (m : Meter) (b : Board) : Meter :=
  if b.id = m.id then m
  else
    { (default : Meter) with id := b.id, energy := b.energy, seconds := b.seconds, seq := b.seq, powerFails := b.powerFails
                             tampers := b.tampers, tamper := b.tamper, off := true }

/-- R499, R503, R504: a change of the board's supply; a board is fitted or taken off while the module is struck. -/
def execMeterSupplyEvent (e : MeterSupply) (s : State) : Host.Outcome State Fault Refusal :=
  .next (match e with
    | .lost => s.meterDown
    | .returned => if s.mtrPres then s.meterUp else s
    | .removed => if s.struck then { s.meterDown with mtrPres := false } else s
    | .fitted b => if s.struck && !s.mtrPres then { s.setMeter (s.meter.fitted b) with mtrPres := true } else s)

/-- R495: the energy register rises by `mwh`. -/
def execEnergyStore (mwh : Nat) (s : State) : Host.Outcome State Fault Refusal :=
  .next (if s.meter.off then s else s.setMeter { s.meter with energy := wrap 64 (s.meter.energy + mwh) })

/-! The mirror -/

/-- A request goes to the board, while MTR_PRES_N reads low (R514); it answers while it has supply. -/
def State.askMeter (s : State) (kind arg : Nat) : State := if s.mtrPres then s.send (.meterRequest kind arg) else s
/-- A board that does not answer: none is fitted, or it has no supply. -/
def State.meterMute (s : State) : Bool := !s.mtrPres || s.meter.off

/-- Record `n`, when the board still holds it. -/
def Meter.record (m : Meter) (n : Nat) : Option Bytes := (m.records.find? fun e => decide (e.1 = n)).map (·.2)

/-- SEQ of a mirrored record, 0 for none. -/
def recSeq (b : Bytes) : Nat := leAt b 0x10 8
/-- The newest record that HUB has fetched. -/
def Mirror.newest (m : Mirror) : Nat := (m.recs.map fun e => recSeq e.2).foldl max 0

/-- First 6 bytes of the digest, byte 0 highest. -/
def Meter.digestHi (m : Meter) : Nat := (fitBytes 6 (Config.meterSwDigest m.id)).foldl (fun a b => a * 256 + b.toNat) 0

/-- Alert causes that follow MTR_STATUS (R502). -/
def State.meterAlerts (s : State) : State :=
  let s := if s.mtr.tamper then (if s.alert.causes.getLsbD 2 then s else s.raiseAlert 2) else s.alertOff 2
  if s.mtr.lost then (if s.alert.causes.getLsbD 3 then s else s.raiseAlert 3) else s.alertOff 3

/-- What the board measures at this moment: outside 30 V to 42 V, above Imax. -/
def State.meterMeasures (s : State) (m : MeterState) : State :=
  s.setMeter { s.meter with voltOut := s.meter.voltOut || decide (m.volt < 30000) || decide (42000 < m.volt)
                            overload := s.meter.overload || decide (12000 < m.current) }

/-- R500, R501: one READ_STATE. -/
def execMeterReadState (m : MeterState) (s : State) : Host.Outcome State Fault Refusal :=
  .next (if !s.manages then s
    else
      let s := s.askMeter 0 0
      if !m.answers || s.meterMute then s
      else
        let s := s.meterMeasures m
        let x := s.mtr
        ({ s with mtr := { x with
            id := s.meter.id % 2 ^ 64, sw := Config.meterSwVersion s.meter.id % 2 ^ 16, digestHi := s.meter.digestHi, energy := s.meter.energy
            volt := m.volt % 2 ^ 16, current := m.current % 2 ^ 16, power := m.power % 2 ^ 16, lastSeq := x.newest % 2 ^ 32
            updates := wrap 16 (x.updates + 1), lost := false, tamper := s.meter.tamper, present := true } } : State).meterAlerts)

/-- R500, R501: no answer for 1 s. -/
def execMeterLost (s : State) : Host.Outcome State Fault Refusal :=
  .next (if !s.manages || s.mtr.lost then s
    else ({ s with mtr := { s.mtr with lost := true, updates := wrap 16 (s.mtr.updates + 1), demand := none } } : State).meterAlerts)

/-- Keep a record in its slot, unless a newer one lies there. -/
def Mirror.keep (x : Mirror) (b : Bytes) : Mirror :=
  let k := recSeq b % 8
  if recSeq (tget x.recs k) ≤ recSeq b then { x with recs := tput x.recs k b } else x

/-- The record answers the outstanding DEMAND. -/
def Mirror.answers (x : Mirror) (b : Bytes) : Bool :=
  match x.demand with
  | some n => decide (leAt b 4 1 = 2) && ((b.drop 0x30).take 32 == n)
  | none => false

def execMeterReadRecord (n : Nat) (s : State) : Host.Outcome State Fault Refusal :=
  .next (if !s.manages then s
    else
      let s := s.askMeter 1 n
      match (if s.meterMute then none else s.meter.record n) with
      | none => s
      | some b =>
        let x := s.mtr.keep b
        if s.mtr.answers b then ({ s with mtr := { x with demand := none } } : State).send (.meterAnswer b) else { s with mtr := x })

def execMeterReadCert (s : State) : Host.Outcome State Fault Refusal :=
  .next (if !s.manages then s
    else
      let s := s.askMeter 2 0
      if s.meterMute then s else { s with mtr := { s.mtr with cert := Config.meterChain s.meter.id } })

/-- The board answers with an entry of its event log. -/
def execMeterReadLog (n : Nat) (s : State) : Host.Outcome State Fault Refusal :=
  .next (if !s.manages then s
    else
      let s := s.askMeter 4 n
      match (if s.meterMute then none else s.meter.log[n]?) with
      | none => s
      | some e => s.send (.meterAnswer e))

/-- R499: one DEMAND at a time; it is answered when HUB has fetched its record, and given up where the board is lost. -/
def execMeterDemand (nonce : Bytes) (s : State) : Host.Outcome State Fault Refusal :=
  .next (if !s.manages then s
    else if s.mtr.demand.isSome then s.send .meterBusy
    else
      let s := s.askMeter 3 0
      if s.meterMute && s.mtr.lost then s
      else
        let s : State := { s with mtr := { s.mtr with demand := some (fitBytes 32 nonce) } }
        if s.meterMute then s else s.meterTime.issueRecord 2 nonce)

end Sys2Proof.Machine
end

