-- ==== Sys2Proof/Machine/Scalar.lean ====
section
/-! DEFINITION. Scalar class without memory accesses (R126, R127, R129) and the unassigned words (R117, R118). -/

namespace Sys2Proof.Machine

/-- R117, R118: an unassigned opcode or a reserved value. -/
def execIllegalOpcode (c : Nat) (_w : Word) (s : State) : Host.Outcome State Fault Refusal :=
  runCore c s fun s _ => .exc s causeIllegal 0

/-- R126: the operation FN of ALU; none where FN is not listed. -/
def aluOp (fn : Nat) (a b : Word) : Option Word :=
  match fn with
  | 0 => some (a + b)
  | 1 => some (a - b)
  | 2 => some (a &&& b)
  | 3 => some (a ||| b)
  | 4 => some (a ^^^ b)
  | 5 => some (a <<< (b.toNat % 64))
  | 6 => some (a >>> (b.toNat % 64))
  | 7 => some (a.sshiftRight (b.toNat % 64))
  | 8 => some (flagWord (a.slt b))
  | 9 => some (flagWord (a.ult b))
  | 10 => some (if b.slt a then b else a)
  | 11 => some (if a.slt b then b else a)
  | 12 => some (if b.ult a then b else a)
  | 13 => some (if a.ult b then b else a)
  | _ => none

/-- A register operation of format R whose result may be missing for an FN that is not listed. -/
def regOp (c : Nat) (f : BitVec 56) (op : Nat → Word → Word → Option Word) (s : State) : Host.Outcome State Fault Refusal :=
  runCore c s fun s x =>
    legal s (rOk f) (match op (rFN f) (x.sreg (fRA f)) (x.sreg (fRB f)) with
      | some w => doneS s c (fRD f) w
      | none => .exc s causeIllegal 0)

def execAlu (c : Nat) (f : BitVec 56) (s : State) : Host.Outcome State Fault Refusal := regOp c f aluOp s

/-- R126: MUL. -/
def mulOp (fn : Nat) (a b : Word) : Option Word :=
  match fn with
  | 0 => some (a * b)
  | 1 => some (ofI (a.toInt * b.toInt / 2 ^ 64))
  | 2 => some (BitVec.ofNat 64 (a.toNat * b.toNat / 2 ^ 64))
  | 3 => some (ofI (a.toInt * (b.toNat : Int) / 2 ^ 64))
  | _ => none

def execMul (c : Nat) (f : BitVec 56) (s : State) : Host.Outcome State Fault Refusal := regOp c f mulOp s

/-- R126, R127: DIV, DIVU, REM, REMU with their edge cases. -/
def divOp (fn : Nat) (a b : Word) : Option Word :=
  match fn with
  | 0 => some (if b = 0 then BitVec.allOnes 64 else ofI (a.toInt.tdiv b.toInt))
  | 1 => some (if b = 0 then BitVec.allOnes 64 else BitVec.ofNat 64 (a.toNat / b.toNat))
  | 2 => some (if b = 0 then a else ofI (a.toInt.tmod b.toInt))
  | 3 => some (if b = 0 then a else BitVec.ofNat 64 (a.toNat % b.toNat))
  | _ => none

def execDivide (c : Nat) (f : BitVec 56) (s : State) : Host.Outcome State Fault Refusal := regOp c f divOp s

/-- An immediate operation of format I. -/
def immOp (c : Nat) (f : BitVec 56) (op : Word → Word → Word) (s : State) : Host.Outcome State Fault Refusal :=
  runCore c s fun s x => legal s (iOk f) (doneS s c (fRD f) (op (x.sreg (fRA f)) (ofI (iImm f))))

def execAddi (c : Nat) (f : BitVec 56) (s : State) : Host.Outcome State Fault Refusal := immOp c f (· + ·) s
def execAndi (c : Nat) (f : BitVec 56) (s : State) : Host.Outcome State Fault Refusal := immOp c f (· &&& ·) s
def execOri (c : Nat) (f : BitVec 56) (s : State) : Host.Outcome State Fault Refusal := immOp c f (· ||| ·) s
def execXori (c : Nat) (f : BitVec 56) (s : State) : Host.Outcome State Fault Refusal := immOp c f (· ^^^ ·) s

/-- R126: SHI: kind in IMM43[7:6], count in IMM43[5:0]. -/
def shiOp (kind n : Nat) (a : Word) : Option Word :=
  match kind with
  | 0 => some (a <<< n)
  | 1 => some (a >>> n)
  | 2 => some (a.sshiftRight n)
  | _ => none

def execShi (c : Nat) (f : BitVec 56) (s : State) : Host.Outcome State Fault Refusal :=
  runCore c s fun s x =>
    legal s (zeros f [(53, 3), (8, 35)]) (match shiOp (fld f 6 2) (fld f 0 6) (x.sreg (fRA f)) with
      | some w => doneS s c (fRD f) w
      | none => .exc s causeIllegal 0)

def execSlti (c : Nat) (f : BitVec 56) (s : State) : Host.Outcome State Fault Refusal :=
  immOp c f (fun a b => flagWord (a.slt b)) s
def execSltiu (c : Nat) (f : BitVec 56) (s : State) : Host.Outcome State Fault Refusal :=
  immOp c f (fun a b => flagWord (a.ult b)) s

/-- R126: LI, LIU, LIH of format L. -/
def execLi (c : Nat) (f : BitVec 56) (s : State) : Host.Outcome State Fault Refusal :=
  runCore c s fun s _ => legal s (zeros f [(53, 3)]) (doneS s c (fRD f) (ofI (sext 48 (fld f 0 48))))
def execLiu (c : Nat) (f : BitVec 56) (s : State) : Host.Outcome State Fault Refusal :=
  runCore c s fun s _ => legal s (zeros f [(53, 3)]) (doneS s c (fRD f) (BitVec.ofNat 64 (fld f 0 48)))
def execLih (c : Nat) (f : BitVec 56) (s : State) : Host.Outcome State Fault Refusal :=
  runCore c s fun s x =>
    legal s (zeros f [(53, 3), (16, 32)])
      (doneS s c (fRD f) (BitVec.ofNat 64 (fld f 0 16 * 2 ^ 48 + (x.sreg (fRD f)).toNat % 2 ^ 48)))

/-- R129: predicate logic of FN 0 to 3. -/
def predOp (fn : Nat) (a b : Word) : Word :=
  match fn with
  | 0 => a &&& b
  | 1 => a ||| b
  | 2 => a ^^^ b
  | _ => a &&& ~~~b

/-- R120, R129: PRED; a field that names a predicate has bits 4:3 zero. -/
def execPred (c : Nat) (f : BitVec 56) (s : State) : Host.Outcome State Fault Refusal :=
  runCore c s fun s x =>
    let rd := fRD f
    let ra := fRA f
    let rb := fRB f
    legal s (rOk f) (match rFN f with
      | 4 => legal s (decide (ra < 8) && decide (rb = 0)) (doneS s c rd (x.preg ra))
      | 5 => legal s (decide (rd < 8) && decide (rb = 0)) (.done (s.setCore c ((s.core c).setP rd (x.sreg ra))))
      | fn => legal s (decide (fn < 4) && decide (rd < 8) && decide (ra < 8) && decide (rb < 8))
          (.done (s.setCore c ((s.core c).setP rd (predOp fn (x.preg ra) (x.preg rb))))))

end Sys2Proof.Machine
end

