-- ==== Sys2Proof/Machine/Security.lean ====
section
/-! DEFINITION. Contexts: SEC commands, key generations, the counter page (R406 to R421, R431 to R433, R532). -/

namespace Sys2Proof.Machine

/-! The order of refusals (R532) -/

/-- R433, R532: the ranges of SEC_CMD and SEC_ARG that a command does not use are zero. JOB is used by HOLD and RELEASE, LCORE, LAYER and
BANKS by GRANT, REVOKE and LOWER_HOST, HOST by the first and the last of these; PAGE uses bits 47:0 of SEC_ARG and no others. -/
def argOk (op : Nat) (cmd w : Word) : Bool :=
  let banks := decide (3 ≤ op) && decide (op ≤ 5)
  decide (bits cmd 16 43 = 0) && (decide (op = 7) || decide (op = 8) || decide (bits cmd 8 8 = 0)) &&
    (if op = 9 then decide (bits w 48 16 = 0)
     else decide (bits w 43 19 = 0) && decide (bits w 19 13 = 0) && (banks || decide (bits w 0 62 = 0)) &&
       (decide (op = 3) || decide (op = 5) || decide (bits w 62 2 = 0)))

/-- One SEC command: refusals for every command, then `body`, which answers with a CODE. -/
def secRun (op : Nat) (w : Word) (s : State) (body : State → State × Nat) : Host.Outcome State Fault Refusal :=
  let done := fun (r : State × Nat) => { r.1 with sec := { r.1.sec with cmd := none, code := r.2 } }
  .next (if !s.manages || decide (bits w 59 5 ≠ op) then s
    else if (match s.sec.cmd with | some c => decide (c ≠ w) | none => false) then { s with sec := { s.sec with overrun := true } }
    else if !s.serves then done (s, 8)
    else if !argOk op w s.sec.arg then done (s, 1)
    else if op ≠ 1 ∧ !(s.ctx (bits w 0 8)).defined then done (s, 2)
    else done (body s))

def secCtx (w : Word) : Nat := bits w 0 8
def secJob (w : Word) : Nat := bits w 8 8

/-- A key that HUB's random-bit generator has not given before. -/
def State.drawKey (s : State) : Bytes × State := (fitBytes 32 (Config.randomKey s.fresh), { s with fresh := s.fresh + 1 })

/-- R406, R418: CREATE. -/
def execCtxCreate (w : Word) (s : State) : Host.Outcome State Fault Refusal :=
  secRun 1 w s fun s =>
    let n := secCtx w
    if (s.ctx n).defined then (s, 2)
    else
      let (k, s) := s.drawKey
      let m := nextEpoch s.sec.creations
      let s := { s with sec := { s.sec with creations := m } }
      (s.setCtx n { (default : Ctx) with defined := true, creation := m, kvKey := k, created := s.hubCount }, 0)

/-! Banks (R407 to R409) -/

/-- Keys of the banks that SEC_ARG names. -/
def argBanks (a : Word) : List Nat :=
  ((List.range 16).filter fun b => bit a b).map fun b => bits a 32 11 * 128 + bits a 16 3 * 16 + b
def State.ownAt (s : State) (k : Nat) : Owner := tget s.own k

/-- The bank is owned by context `n`. -/
def State.ownedBy (s : State) (n k : Nat) : Bool := (s.ownAt k).owned && decide ((s.ownAt k).ctx = n)

/-- The attribute that GRANT gives for a HOST: 0 to 2 itself; what 3 does the spec leaves open (log entry 24). -/
def grantAttr (h : Nat) : Option Nat := if h < 3 then some h else Config.grantHost3.map (·.val)

def execBankGrant (w : Word) (s : State) : Host.Outcome State Fault Refusal :=
  secRun 3 w s fun s =>
    let a := s.sec.arg
    let l := argBanks a
    if !s.backed (bits a 32 11) then (s, 1)
    else
      match grantAttr (bits a 62 2) with
      | none => (s, 1)
      | some h =>
        if l.any fun k => (s.ownAt k).owned || (s.ownAt k).hub then (s, 3)
        else ({ s with own := l.foldl (fun t k => tput t k ⟨true, false, h, secCtx w⟩) s.own }, 0)

def execLowerHost (w : Word) (s : State) : Host.Outcome State Fault Refusal :=
  secRun 5 w s fun s =>
    let a := s.sec.arg
    let l := argBanks a
    let h := bits a 62 2
    if !s.backed (bits a 32 11) || decide (h = 3) || l.any (fun k => s.ownedBy (secCtx w) k && decide ((s.ownAt k).host < h)) then (s, 1)
    else if l.any fun k => !s.ownedBy (secCtx w) k then (s, 3)
    else ({ s with own := l.foldl (fun t k => tput t k { tget t k with host := h }) s.own }, 0)

/-- R409: zero a bank, then return it to nobody. -/
def State.revokeBank (s : State) (k : Nat) : State :=
  let s := match s.phys (k / 128) with | some p => s.zeroBank p (k % 128) | none => s
  { s with own := tput s.own k default }

/-- The counter page lies in one of the banks. -/
def Ctx.pageIn (x : Ctx) (l : List Nat) : Bool :=
  match x.page with | some da => l.contains (da / 2 ^ 28 * 128 + bankOf (da % 2 ^ 28)) | none => false

/-- The slice's die must run for a bank to be zeroed: until then the command stays under way. -/
def execBankRevoke (w : Word) (s : State) : Host.Outcome State Fault Refusal :=
  if s.serves && !s.dieRuns (bits s.sec.arg 32 11 / 256) && s.backed (bits s.sec.arg 32 11) then .next s
  else secRun 4 w s fun s =>
    let a := s.sec.arg
    let l := argBanks a
    let n := secCtx w
    let c := bits a 32 11
    if !s.backed c then (s, 1)
    else if l.any fun k => !s.ownedBy n k then (s, 3)
    else if s.live.any fun e => decide (e.2.rc.ctx = n) && e.2.cores.contains c then (s, 4)
    else
      let s := l.foldl State.revokeBank s
      (if (s.ctx n).pageIn l then s.setCtx n { s.ctx n with page := none } else s, 0)

/-- R406, R417, R426: DESTROY. -/
def execCtxDestroy (w : Word) (s : State) : Host.Outcome State Fault Refusal :=
  if s.serves && s.own.any (fun e => e.2.owned && decide (e.2.ctx = secCtx w) && s.backed (e.1 / 128) && !s.dieRuns (e.1 / 128 / 256)) then .next s
  else secRun 2 w s fun s =>
    let n := secCtx w
    if s.live.any fun e => decide (e.2.rc.ctx = n) then (s, 4)
    else
      let l := (s.own.filter fun e => e.2.owned && decide (e.2.ctx = n)).map (·.1)
      let s := l.foldl State.revokeBank s
      let chans := (s.dma.ch.filter fun e => decide (8 ≤ e.1) && !e.2.host && decide (e.2.ctx = n) && e.2.enable).map (·.1)
      let s := chans.foldl State.disableChannel s
      let s := { s with dma := { s.dma with crc := tmap (fun _ x => if !x.host ∧ x.ctx = n then { x with off := true } else x) s.dma.crc } }
      let s := { s with sess := tmap (fun _ x => if x.ctx = some n then { x with ctx := none } else x) s.sess }
      (s.setCtx n default, 0)

/-! Keys (R416 to R421) -/

/-- The guidons of a context's live jobs are to hear of a new generation (R419): kind 0 payload, 1 KV. -/
def State.announceKey (s : State) (n kind gen : Nat) : State :=
  (s.live.filter fun e => decide (e.2.rc.ctx = n) && e.2.guidon.isSome).foldl
    (fun s e => s.setJob e.1 { s.job e.1 with evKeys := (s.job e.1).evKeys ++ [(kind, gen)] }) s

/-- R419, R311: rotate the KV key of a context; the second value is false when the rotation is refused. -/
def State.rotateKv (s : State) (n : Nat) : State × Bool :=
  let x := s.ctx n
  if x.kvPrev.isSome then ({ s with sec := { s.sec with genBusy := true } }, false)
  else
    let (k, s) := s.drawKey
    let g := (x.kvGen + 1) % 4
    let s := s.setCtx n { x with kvKey := k, kvGen := g, kvPrev := if x.curImages = 0 then none else some x.kvKey,
                                 prevImages := x.curImages, curImages := 0, sealSeq := 0 }
    (({ s with sec := { s.sec with genBusy := false } } : State).announceKey n 1 g, true)

def execKvRotate (w : Word) (s : State) : Host.Outcome State Fault Refusal :=
  secRun 6 w s fun s =>
    match s.rotateKv (secCtx w) with
    | (s, true) => (s, 0)
    | (s, false) => (s, 5)

/-- R420: the pending payload key takes over once no request of the context is open. -/
def execPayloadRotation (n : Nat) (s : State) : Host.Outcome State Fault Refusal :=
  unit (decide (n < 256))
    (let x := s.ctx n
     match x.payPend with
     | none => s
     | some k =>
      if !s.hubRuns || s.live.any (fun e => decide (e.2.rc.ctx = n) && decide (e.2.openSerials ≠ 0)) then s
      else
        let g := (x.payGen + 1) % 4
        (s.setCtx n { x with payPrev := x.payCur, payCur := some k, payPend := none, payGen := g, serial := 0 }).announceKey n 0 g)

/-! HOLD, RELEASE, PAGE (R414, R415, R433) -/

def execJobHold (w : Word) (s : State) : Host.Outcome State Fault Refusal :=
  secRun 7 w s fun s =>
    let j := secJob w
    let x := s.job j
    if j = 0 ∨ x.state ≠ 1 ∨ x.faults ≠ [] ∨ x.rc.ctx ≠ secCtx w then (s, 7)
    else (((s.jobChans j).foldl State.disableChannel s).holdJob j, 0)

def execJobRelease (w : Word) (s : State) : Host.Outcome State Fault Refusal :=
  secRun 8 w s fun s =>
    let j := secJob w
    let x := s.job j
    if j = 0 ∨ x.state ≠ 2 ∨ x.rc.ctx ≠ secCtx w then (s, 7)
    else if (clustersOf x.cores).any fun h => (s.claims h).any fun k => decide (k ≠ x.rc.ctx) then (s, 6)
    else
      let s := s.setJob j { s.job j with state := 3, mappedOut := [], awaits := true }
      (if s.jobRunsOn j || !s.jobDiesRun j then s else s.finishRestart j, 0)

def execCtxPage (w : Word) (s : State) : Host.Outcome State Fault Refusal :=
  secRun 9 w s fun s =>
    let da := s.sec.arg.toNat
    let n := secCtx w
    let ok := decide (da / 2 ^ 40 = 0) && decide (da % 64 = 0) && s.bankSealed da &&
      s.ownedBy n (da / 2 ^ 28 * 128 + bankOf (da % 2 ^ 28))
    if !ok then (s, 1) else (s.setCtx n { s.ctx n with page := some da }, 0)

/-! The counter page (R431, R432) -/

def coarse (x : Nat) : Nat := x / 4096 * 4096 % 2 ^ 64

/-- The bytes of a page with sequence number `q`. -/
def Ctx.pageBytes (x : Ctx) (q power ms : Nat) : Bytes :=
  leBytes 8 q ++ leBytes 8 (coarse x.rows) ++ leBytes 8 (coarse x.lines) ++ leBytes 8 (coarse x.steps) ++ leBytes 8 (coarse x.units) ++
    leBytes 8 (coarse x.dmaBytes) ++ leBytes 4 (power / 5 * 5) ++ leBytes 4 ms ++ List.replicate 8 0

/-- R431: HUB writes the page of every context that has one: SEQ odd, the fields, SEQ even. `powers` holds each cluster's draw in W,
averaged over the last 100 ms. -/
def execCounterPageUpdate (powers : List Nat) (s : State) : Host.Outcome State Fault Refusal :=
  .next (if !s.hubRuns then s
    else
      (s.ctxs.filter fun e => e.2.defined).foldl (fun s e =>
        let x := s.ctx e.1
        match x.page with
        | none => s
        | some da =>
          let c := da / 2 ^ 28
          if !s.dieRuns (c / 256) then s
          else
            let power := (((List.range 20).filter fun h => s.claimed h && decide ((s.clu h).ctx = e.1)).map fun h => powers.getD h 0).sum
            let b := x.pageBytes ((x.pageSeq + 1) % 2 ^ 64) power ((s.hubCount - x.created) / 10800)
            let s := s.setCtx e.1 { x with pageSeq := (x.pageSeq + 2) % 2 ^ 64 }
            let s := s.hubWrite c (da % 2 ^ 28) (leBytes 8 ((x.pageSeq + 1) % 2 ^ 64))
            let s := s.hubWrite c (da % 2 ^ 28 + 8) (b.drop 8)
            s.hubWrite c (da % 2 ^ 28) (leBytes 8 ((x.pageSeq + 2) % 2 ^ 64))) s)

end Sys2Proof.Machine
end

