-- ==== Sys2Proof/Machine/Serving.lean ====
section
/-! DEFINITION. The serving runtime on the guidon: events, admission, requests, steps and posts (R313 to R340, R419). -/

namespace Sys2Proof.Machine

/-- The guidon of a running job, while it runs its code. -/
def State.guidonRuns (s : State) (j : Nat) : Option Nat :=
  match (s.job j).guidon with
  | some c =>
    let x := s.core c
    if s.hubRuns && decide ((s.job j).state = 1) && s.dieRuns (c / 256) && decide (x.job = j) && !x.fw && (decide (x.run = 3) || decide (x.run = 4)) then some c
    else none
  | none => none

/-! Events (R324) -/

/-- The oldest event of the guidon's port 7: the core, the entry of its ring, the 64 bytes. -/
def State.eventAt (s : State) (j : Nat) : Option (Nat × RingMsg × Bytes) :=
  match s.guidonRuns j with
  | none => none
  | some c =>
    let p := (s.core c).port 7
    match (if p.kind = 2 then p.head else none) with
    | some r => if r.units = 1 then some (c, r, s.scratchRead c (p.base + r.off) 64) else none
    | none => none

/-- Take the oldest event where it is of kind `k`, and return its credit. -/
def State.takeEvent (s : State) (j k : Nat) : Option (State × Bytes) :=
  match s.eventAt j with
  | none => none
  | some (c, r, b) =>
    if leAt b 0 1 ≠ k then none
    else
      let x := s.core c
      let p := x.port 7
      some ((s.setCore c (x.setPort 7 { p with ring := dropHead p.ring })).returnCredits c 7 [(r, 1)], b)

/-! The checks on a request (R319) -/

/-- A queue of the given kind in the job's range. -/
def State.jobQueue (s : State) (j q kind : Nat) : Bool :=
  let r := (s.job j).rc
  decide (r.qFirst ≤ q) && decide (q < r.qFirst + r.qCount) && decide ((s.qe q).kind = kind)

/-- The open request of the job with an identifier: one that has not ended. -/
def Serve.openReq (v : Serve) (id : Nat) : Option Nat := (v.reqs.zipIdx.find? fun e => decide (e.1.id = id) && !e.1.ended).map (·.2)

/-- Check 2: identifiers and reserved fields. -/
def entryOk (v : Serve) (e : Bytes) : Bool :=
  decide (entId e ≠ 0) && (v.openReq (entId e)).isNone && decide (leAt e 1 1 < 2) && decide (leAt e 6 2 = 0) && decide (leAt e 0x2C 4 = 0) &&
    decide (leAt e 0x38 8 = 0) && (decide (entKind e = 5) || decide (entTarget e = 0))

/-- Check 8 on the header of a GENERATE (R316). -/
def genOk (p : Bytes) : Bool :=
  let t := f32 (leAt p 4 4)
  let tp := f32 (leAt p 8 4)
  let pen := f32 (leAt p 0x10 4)
  (t.isZero || (t.isFinite && !t.isNeg && !t.lt (.fin false 1 (-8)))) && (Fv.fin false 0 0).lt tp && !(Fv.fin false 1 0).lt tp && !tp.isNan &&
    decide (1 ≤ leAt p 0xC 2) && decide (leAt p 0xC 2 ≤ 256) && decide (leAt p 0xE 2 ≤ 4096) && pen.isFinite && !pen.lt (.fin false 1 0) &&
    !(Fv.fin false 8 0).lt pen && decide (leAt p 0x14 1 ≤ 4) && decide (leAt p 0x15 1 ≤ 8) && decide (leAt p 0x16 2 = 0) &&
    allZero ((p.drop (0x20 + 4 * leAt p 0x14 1)).take (16 - 4 * leAt p 0x14 1)) && allZero ((p.drop 0x30).take 16)

/-- Check 8 on the header of a TILE (R317). -/
def tileOk (p : Bytes) : Bool :=
  let dim := fun o => decide (1 ≤ leAt p o 2) && decide (leAt p o 2 ≤ 1024)
  dim 0 && dim 2 && decide (2 ≤ leAt p 4 1) && decide (leAt p 4 1 ≤ 16) && (decide (leAt p 5 1 = 8) || decide (leAt p 5 1 = 16)) && decide (leAt p 6 1 < 2)

def headerOk (kind : Nat) (p : Bytes) : Bool :=
  if kind = 4 then tileOk p
  else decide (1 ≤ inNtok p) && decide (inNtok p ≤ 2 ^ 20) && (if kind = 1 then genOk p else allZero ((p.drop 4).take 60))

/-- The length that the header requires of the plaintext. -/
def inputLength (kind : Nat) (p : Bytes) : Nat :=
  if kind = 4 then 64 + leAt p 0 2 * leAt p 2 2 * leAt p 4 1 * leAt p 5 1 / 8 else 64 + 4 * inNtok p

/-- Checks 8 to 10: the status of the first that fails. -/
def plainErr (kind vocab n : Nat) (p : Bytes) : Option Nat :=
  if !headerOk kind p then some 0x21
  else if n ≠ inputLength kind p + 16 then some 0x22
  else if kind ≠ 4 && (inTokens p).any fun t => decide (vocab ≤ t) then some 0x21 else none

/-- The largest INPUT_BYTES of a kind. -/
def inputLimit (kind : Nat) : Nat := if kind = 4 then 33554512 else 4194384

/-- Check 4: an amount of the entry lies beyond its bound: INPUT_BYTES (R319), MAX_NEW (R315, R528). -/
def amountErr (e : Bytes) : Bool := decide (inputLimit (entKind e) < entBytes e) || (decide (entKind e = 1) && decide (2 ^ 20 < entMaxNew e))

/-- The input opened under the current generation, or under the previous one (R320, R420). -/
def State.openInput (s : State) (j : Nat) (e d : Bytes) : Option Bytes :=
  let x := s.ctx (s.job j).rc.ctx
  let iv := leBytes 8 (entId e) ++ leBytes 4 0
  let try1 := fun k : Option Bytes => match k with | some key => gcmOpen key iv (e.take 48) d | none => none
  if entBytes e < 16 then none
  else
    match try1 x.payCur with
    | some p => some p
    | none => try1 x.payPrev

/-- Assign the next SERIAL (R320, R421). -/
def State.nextSerial (s : State) (j : Nat) : Nat × State :=
  let n := (s.job j).rc.ctx
  let x := s.ctx n
  (x.serial + 1, (s.setCtx n { x with serial := x.serial + 1 }).setJob j { s.job j with openSerials := (s.job j).openSerials + 1 })

/-- R490: add to a trace counter of the guidon in the last 32 bytes of its scratch: 0 entries discarded (R319), 1 rows with a NaN
(R332), 8 bytes each (log entry 99). -/
def State.bumpTrace (s : State) (j k n : Nat) : State :=
  match (s.job j).guidon with
  | some c =>
    let a := 0xFFFE0 + 8 * k
    if n = 0 then s else s.scratchWrite c a (leBytes 8 ((leAt (s.scratchRead c a 8) 0 8 + n) % 2 ^ 64)) fun _ => true
  | none => s

/-- End an entry that is never admitted: a completion without a SERIAL, or none where its queue is not one (check 3). -/
def State.refuse (s : State) (j : Nat) (e : Bytes) (status : Nat) : State :=
  let v := s.serving j
  if !s.jobQueue j (entCompl e) 2 then s.bumpTrace j 0 1
  else s.setServing j { v with replies := v.replies ++ [⟨entCompl e, completionImage (entKind e) status 0 j 0 (entId e) 0 0 0 0 0, none⟩] }

/-- A CANCEL (R325). -/
def State.cancelEntry (s : State) (j : Nat) (e : Bytes) : State :=
  let v := s.serving j
  match v.openReq (entTarget e) with
  | some i => (s.setServing j { v with reqs := v.reqs.modify i fun x => { x with cancel := true } }).refuse j e 3
  | none => s.refuse j e 0x28

/-- R317: the samples of a band-interleaved tile become band-planar on their way into sealed memory. -/
def planarTile (p : Bytes) : Bytes :=
  if leAt p 6 1 = 0 then p.take 64 ++ bandToPlanar (p.drop 64) (leAt p 4 1) (leAt p 5 1 / 8) else p

/-- Checks 7 to 10, and the admission: a request that has a SERIAL is in the ledger, ended or not (R335). -/
def State.accept (s : State) (j : Nat) (e d : Bytes) : State :=
  match s.openInput j e d with
  | none => s.refuse j e 0x24
  | some p =>
    let (serial, s) := s.nextSerial j
    let v := s.serving j
    let x : SReq := { (default : SReq) with entry := e, input := p, serial := serial, gen := (s.ctx (s.job j).rc.ctx).payGen }
    let x := match plainErr (entKind e) (Config.vocabulary (s.job j).rc.bytes) (entBytes e) p with
      | some status => x.finish j status
      | none => if entKind e = 1 ∧ entMaxNew e = 0 then x.finish j 3 else if entKind e = 4 then { x with input := planarTile p } else x
    s.setServing j { v with reqs := v.reqs ++ [x] }

/-! Room (R326) -/

/-- Pennants that a prompt of `n` tokens takes at a KV unit. -/
def kvNeed (u : KvUnit) (n : Nat) : Nat := if u.ring = 0 then (n + 255) / 256 else min u.ring ((n + 255) / 256)

/-- The pennant pool can hold a prompt of `n` tokens, beside those admitted; entries of the prefix table that no open request holds
may go. -/
def State.poolRoom (s : State) (j n : Nat) : Bool :=
  let v := s.serving j
  let held := (v.reqs.flatMap (·.lists)).flatten
  v.units.zipIdx.all fun e =>
    let loose := ((v.prefixes.filter fun f => !f.lists.flatten.any held.contains).flatMap fun f => listOf f.lists e.2).eraseDups
    let owed := ((v.reqs.filter fun x => !x.ended && (decide (x.kind = 1) || decide (x.kind = 2))).map fun x =>
      kvNeed e.1 x.ntok - (listOf x.lists e.2).length).sum
    decide (kvNeed e.1 n + owed ≤ min (s.freeDescs e.1).length (s.freeBodies j e.1).length + loose.length)

/-- A slot of the ledger, room in the retention store and in the pool for an entry; its INPUT_BYTES bound the prompt. -/
def State.roomFor (s : State) (j : Nat) (e : Bytes) : Bool :=
  let v := s.serving j
  let rec' := (s.job j).rc.bytes
  decide (v.reqs.length < Config.ledgerSlots rec') && decide ((v.reqs.map fun x => x.input.length).sum + (entBytes e - 16) ≤ Config.retentionBytes rec') &&
    (!(decide (entKind e = 1) || decide (entKind e = 2)) || s.poolRoom j ((entBytes e - 80) / 4))

/-- A payload key is there to accept under (check 5). -/
def State.noKey (s : State) (j : Nat) : Bool :=
  let x := s.ctx (s.job j).rc.ctx
  x.payCur.isNone || x.payPend.isSome || decide (2 ^ 32 ≤ x.serial + 1)

/-- One entry of a submission queue with the input as host memory answers: none where it must stay in its ring (R326). -/
def State.takeEntry (s : State) (j : Nat) (e : Bytes) (r : HostReply) : Option State :=
  let v := s.serving j
  let k := entKind e
  if k = 0 ∨ 5 < k then some (s.refuse j e 0x20)
  else if !entryOk v e then some (s.refuse j e 0x21)
  else if !s.jobQueue j (entCompl e) 2 then some (s.refuse j e 0)
  else if k = 5 then some (s.cancelEntry j e)
  else if k = 1 ∧ !s.jobQueue j (entStream e) 3 then some (s.refuse j e 0x23)
  else if entBytes e = 0 then some (s.refuse j e 3)
  else if amountErr e then some (s.refuse j e 0x22)
  else if s.noKey j then some (s.refuse j e 0x26)
  else if !s.roomFor j e then none
  else if entInput e / 2 ^ 40 ≠ 2 ∨ entInput e % 64 ≠ 0 ∨ !s.hostOk (entInput e % 2 ^ 40) (entBytes e) then some (s.refuse j e 0x25)
  else
    let s := s.hostReads (entInput e % 2 ^ 40) (entBytes e)
    if r.has (entBytes e) then some (s.accept j e (r.bytes.take (entBytes e))) else some (s.refuse j e 0x25)

/-! Admission (R325, R326) -/

/-- The next submission queue in round robin that is not drained up to the PRODUCER known and not blocked. -/
def State.nextQueue (s : State) (j : Nat) (blocked : List Nat) : Option Nat :=
  let v := s.serving j
  let l := (v.known.filter fun e => s.jobQueue j e.1 1 && decide ((s.qe e.1).midx ≠ e.2) && !blocked.contains e.1).map (·.1)
  match l.find? fun q => decide (v.last < q) with
  | some q => some q
  | none => l.head?

/-- Visit the queues, taking each entry as the ring gives it. -/
def State.visit (s : State) (j : Nat) : List Bytes → List HostReply → List Nat → State
  | [], _, _ => s
  | e :: es, rs, blocked =>
    match s.nextQueue j blocked with
    | none => s
    | some q =>
      let x := s.qe q
      let a := x.ring % 2 ^ 40 + x.midx % 2 ^ x.log2 * 64
      if !s.hostOk a 64 || s.readsFull 1 then s else
      let s := (s.hostRead a 64).2
      let s := s.setServing j { s.serving j with last := q }
      match s.takeEntry j (fitBytes64 e) (rs.headD .ur) with
      | some s => (s.passEntry q).visit j es (rs.drop 1) blocked
      | none => s.visit j es rs (q :: blocked)
where
  /-- A ring entry has 64 bytes. -/
  fitBytes64 (e : Bytes) : Bytes := (e ++ List.replicate 64 0).take 64

/-- R338: the guidon rebuilds a copy of the retention store that is lost from the other. -/
def State.rebuildCopies (s : State) (j : Nat) : State :=
  let v := s.serving j
  s.setServing j { v with copies := (retentionPlaces (s.job j).rc.bytes).filter s.backed }

/-- A DOORBELL event where one is there, and a visit to the queues: `entries` are what the rings hold, in the order of the
visits, and `ciphers` what host memory answers for the inputs of those that are read. Without a copy of the retention store, and
before RESTARTED is taken, nothing is admitted (R337, R338). -/
def execDoorbellEvent (j : Nat) (ciphers : List HostReply) (entries : List Bytes) (s : State) : Host.Outcome State Fault Refusal :=
  unit (decide (j < 256))
    (if (s.guidonRuns j).isNone then s
     else
      let s := match s.takeEvent j 1 with
        | some (s, b) =>
          let v := s.serving j
          s.setServing j { v with known := tput v.known (leAt b 4 4) (leAt b 8 4) }
        | none => s
      let s := if (s.serving j).stale then s else s.rebuildCopies j
      if (s.serving j).stale || (s.serving j).copies.isEmpty then s else (s.tidyPennants j).visit j entries ciphers [])

/-- R312, R337: a RESTARTED event: the pennants from before are given up, and the requests of the ledger, whose ATTEMPT the restart has
raised (R339), go on. -/
def execRestartedEvent (j : Nat) (s : State) : Host.Outcome State Fault Refusal :=
  unit (decide (j < 256))
    (match s.takeEvent j 2 with
     | none => s
     | some (s, b) =>
      let s := s.forgetPennants j
      s.setServing j { s.serving j with restarts := leAt b 0x10 4, stale := false })

/-- R419: a KEY_ROTATED event. -/
def execKeyRotatedEvent (j : Nat) (s : State) : Host.Outcome State Fault Refusal :=
  unit (decide (j < 256))
    (match s.takeEvent j 3 with
     | none => s
     | some (s, b) =>
      let v := s.serving j
      s.setServing j (if leAt b 0xD 1 = 0 then { v with payGen := leAt b 0xC 1 } else { v with kvGen := leAt b 0xC 1 }))

/-! Requests (R318, R327, R337) -/

/-- Request `i` of a job whose guidon runs and has taken RESTARTED, while it has not ended, waits for no read-back of its output, and is
of kind `k` (0: any). -/
def State.openOf (s : State) (j i k : Nat) : Option SReq :=
  if (s.guidonRuns j).isNone || (s.serving j).stale then none
  else
    match (s.serving j).reqs[i]? with
    | some x => if !x.ended && x.out.isNone && (decide (k = 0) || decide (x.kind = k)) then some x else none
    | none => none

/-! Prefill (R327) -/

/-- Positions whose keys and values are there: prompt tokens among them are processed (R322). -/
def SReq.reach (x : SReq) (n : Nat) : SReq := { x with done := n, fed := max x.fed (min n x.ntok) }

/-- Before prefill: the sequence takes an index area, and whole pennants that the prefix table serves are shared. -/
def State.sharePrefix (s : State) (j : Nat) (x : SReq) : Option (State × SReq) :=
  if x.area.isSome then some (s, x)
  else
    (s.freeArea j).bind fun k =>
      if entNoShare x.entry then some (s, { x with area := some k, shared := 0 })
      else
        let (n, ls) := (s.serving j).prefixFor (inTokens x.input)
        (s.shareLists j n ls).map fun e => (e.1, ({ x with area := some k, lists := e.2, shared := 256 * n } : SReq).reach (256 * n))

/-- A PREFILL enters the whole pennants of its prompt in the prefix table. -/
def State.enterPrefix (s : State) (j : Nat) (x : SReq) (ls : List (List Nat)) : Option State :=
  let n := x.ntok / 256
  (s.shareLists j n ls).map fun e =>
    let v := e.1.serving j
    e.1.setServing j { v with prefixes := v.prefixes ++ [⟨(inTokens x.input).take (256 * n), e.2⟩] }

/-- Prefill tokens up to position `p + n`; the prompt's last whole pennant on the way enters the table where `x` is a PREFILL. -/
def State.prefillTo (s : State) (j : Nat) (x : SReq) (n : Nat) (kv : List (List Bytes)) : Option (State × SReq) :=
  let whole := x.ntok / 256 * 256
  if x.kind = 2 ∧ !entNoShare x.entry ∧ x.done < whole ∧ whole ≤ x.done + n then
    (s.fillSeq j (x.area.getD 0) x.lists x.done (whole - x.done) kv).bind fun e =>
      (e.1.enterPrefix j x e.2).bind fun s =>
        (s.fillSeq j (x.area.getD 0) e.2 whole (x.done + n - whole) (kv.map fun l => l.drop (whole - x.done))).map fun f =>
          (f.1, ({ x with lists := f.2 } : SReq).reach (x.done + n))
  else (s.fillSeq j (x.area.getD 0) x.lists x.done n kv).map fun e => (e.1, ({ x with lists := e.2 } : SReq).reach (x.done + n))

/-- Claim pennants that are waited for (R300). -/
def State.claimAll (s : State) (j : Nat) (l : List (KvUnit × Nat)) : State := l.foldl (fun s e => s.claimOpen j e.1 e.2) s

/-- One chunk of 256 to 4,096 tokens, or what is left of the history; it waits for pennants that it attends or writes and that are
swapped out or claimed (R289, R306). A PREFILL ends with its last chunk. A core that has stopped on the way stops the request. -/
def State.prefillChunk (s : State) (j i : Nat) (x : SReq) (r : ModelOut) : Option State :=
  (s.sharePrefix j x).bind fun e =>
    let n := min (max 256 (min 4096 r.chunk)) (e.2.hist - e.2.done)
    let waits := e.1.awaited j e.2.lists e.2.done n
    if waits ≠ [] then some ((e.1.setReq j i e.2).claimAll j waits)
    else
      (e.1.prefillTo j e.2 n r.kv).map fun f =>
        let x := { f.2 with ready := decide (f.2.hist ≤ f.2.done) }
        if f.1.unitsStopped j then f.1
        else if x.ready ∧ x.kind = 2 then f.1.endReq j i (x.finish j 3) else f.1.setReq j i x

/-- A chunk of the prefill of request `i`, where the pool has room for it. -/
def State.prefill (s : State) (j i : Nat) (x : SReq) (r : ModelOut) : State :=
  let s := s.tidyPennants j
  s.withPool j (fun s => s.prefillChunk j i x r) (s.serving j).prefixes.length

/-- GENERATE: the next chunk of the prefill of its history; a prompt that fills the sequence ends it (R333). -/
def execReqGenerate (j i : Nat) (r : ModelOut) (s : State) : Host.Outcome State Fault Refusal :=
  unit (decide (j < 256))
    (match s.openOf j i 1 with
     | some x =>
      if x.ready || x.cancel then s
      else if 2 ^ 20 ≤ x.hist then s.endReq j i ({ x with ready := true }.finish j 2)
      else if s.stagesRun j then s.prefill j i x r else s
     | none => s)

/-- PREFILL builds the pennants of its prompt. -/
def execReqPrefill (j i : Nat) (r : ModelOut) (s : State) : Host.Outcome State Fault Refusal :=
  unit (decide (j < 256))
    (match s.openOf j i 2 with
     | some x => if x.cancel || !s.stagesRun j then s else s.prefill j i x r
     | none => s)

/-- Write an output of an EMBED or a TILE, sealed, and read it back (R318, R320, R352); the request ends when that has come in. -/
def State.writeOutput (s : State) (j i : Nat) (x : SReq) (out : Bytes) : State :=
  let x := { x with ready := true, fed := x.ntok }
  if entOutBytes x.entry < out.length + 16 then s.setReq j i (x.finish j 0x22)
  else if entOutput x.entry / 2 ^ 40 ≠ 2 ∨ entOutput x.entry % 64 ≠ 0 ∨ !s.hostOk (entOutput x.entry % 2 ^ 40) (out.length + 16) then s.setReq j i (x.finish j 0x33)
  else
    let c := gcmSeal (s.payKey j) (iv3 x.serial (0x20000000 + x.attempt) 1) [] out
    let a := entOutput x.entry % 2 ^ 40
    let (t, s) := (s.hostWrite a c).hostRead ((a + c.length - 1) % 2 ^ 40) 1
    s.setReq j i { x with out := some t, written := c.length }

/-- Exactly `n` bytes of what the model computes. -/
def outBytes (n : Nat) (r : ModelOut) : Bytes := (r.bytes ++ List.replicate n 0).take n

def execReqEmbed (j i : Nat) (r : ModelOut) (s : State) : Host.Outcome State Fault Refusal :=
  unit (decide (j < 256))
    (match s.openOf j i 3 with
     | some x => if x.cancel then s else s.writeOutput j i x (outBytes (4 * Config.embedWidth (s.job j).rc.bytes) r)
     | none => s)

def execReqTile (j i : Nat) (r : ModelOut) (s : State) : Host.Outcome State Fault Refusal :=
  unit (decide (j < 256))
    (match s.openOf j i 4 with
     | some x =>
      if x.cancel then s
      else s.writeOutput j i x (outBytes (2 * leAt x.input 0 2 * leAt x.input 2 2 * Config.outChannels (s.job j).rc.bytes) r)
     | none => s)

/-- CANCEL: the request ends at its next step boundary. -/
def execReqCancel (j i : Nat) (s : State) : Host.Outcome State Fault Refusal :=
  unit (decide (j < 256))
    (match s.openOf j i 0 with
     | some x => if x.cancel then s.endReq j i (x.finish j 0x10) else s
     | none => s)

/-! Steps (R327 to R333) -/

/-- The sampling fields of an input header. -/
def samplingOf (p : Bytes) : Sampling :=
  { temp := leAt p 4 4, topP := leAt p 8 4, topK := leAt p 0xC 2, window := leAt p 0xE 2, penalty := leAt p 0x10 4, seed := leAt p 0x18 8, specMax := leAt p 0x15 1 }

/-- Stop tokens of a request: those of its header, and the model's end token. -/
def stopTokens (p rec : Bytes) : List Nat := ((List.range (leAt p 0x14 1)).map fun i => leAt p (0x20 + 4 * i) 4) ++ (Config.endToken rec).toList

/-- The committed tokens up to the first stop token. -/
def upToStop (stops : List Nat) : List Nat → List Nat
  | [] => []
  | t :: l => if stops.contains t then [t] else t :: upToStop stops l

/-- R323, R329, R333: the status with which the tokens so far end a request, if they do. -/
def SReq.endStatus (x : SReq) (stops : List Nat) : Option Nat :=
  match x.toks.getLast? with
  | none => none
  | some t =>
    if stops.contains t then some 0 else if entMaxNew x.entry ≤ x.toks.length then some 1 else if 2 ^ 20 ≤ x.ntok + x.toks.length then some 2 else none

/-- Log the tokens of a step: one entry for up to 8, two for 9; LAST where the request ends. -/
def SReq.logStep (x : SReq) (g : Nat) (ts : List Nat) (last : Bool) : SReq :=
  let one := fun first l last => streamImage x.id x.serial first l last
  { x with log := x.log ++ (if ts.length ≤ 8 then [one g ts last] else [one g (ts.take 8) false, one (g + 8) (ts.drop 8) last]) }

/-- Commit what a step has decided. -/
def SReq.commit (x : SReq) (j : Nat) (stops : List Nat) (d : Decided) : SReq :=
  let g := x.toks.length
  if d.2.2.2 then x.finish j 0x30
  else
    let room := min (entMaxNew x.entry - g) (2 ^ 20 - x.ntok - g)
    let ts := (upToStop stops d.1).take room
    if ts = [] then x
    else
      let x := { x with toks := x.toks ++ ts, accepted := x.accepted + min d.2.1 ts.length }
      let e := x.endStatus stops
      let x := x.logStep g ts e.isSome
      match e with
      | some status => x.finish j status
      | none => x

/-- Every entry logged so far is delivered, or its stream queue has room for the next (R328). -/
def State.streamRoom (s : State) (x : SReq) : Bool := (s.qe (entStream x.entry)).room

/-- A step that waits for pennants that are swapped out issues their POPEN (R300); any other runs its tentative tokens, decides, and
commits what is accepted (R294, R295, R329). -/
def State.specStep (s : State) (j i : Nat) (x : SReq) (d : SpecStep) (n : Nat) : State :=
  let old := x.hist - x.done
  let waits := s.awaited j x.lists x.done (old + n)
  if waits ≠ [] then s.claimAll j waits
  else
    s.withPool j (fun s => (s.tentSeq j (x.area.getD 0) x.lists x.done (old + n) d.kv d.queries).map fun e =>
      if e.1.unitsStopped j then e.1 else
      let r := decideStep (samplingOf x.input) x.toks.length (d.drafts.take n) d.draftLogits (d.logits.take (n + 1)) (inTokens x.input ++ x.toks) ([], 0, 0, false)
      let y := x.commit j (stopTokens x.input (s.job j).rc.bytes) r
      let c := if r.2.2.2 then 0 else old + min r.2.1 (y.toks.length - x.toks.length)
      let f := e.1.commitSeq j e.2 x.done (old + n) c
      if f.1.unitsStopped j then f.1 else
      let s := f.1.bumpTrace j 1 r.2.2.1
      let y := { y with lists := f.2, attend := e.2.attend, done := x.done + c }
      if y.ended then s.endReq j i y else s.setReq j i y) (s.serving j).prefixes.length

/-- The drafts of a step: at most SPEC_MAX, none at or beyond the last position (R329). -/
def SReq.draftsOf (x : SReq) (d : SpecStep) : Nat := min (min (samplingOf x.input).specMax d.drafts.length) (2 ^ 20 - x.hist)

/-- A step may run: prefill done, room in the stream queue, at least one draft where the request has speculative steps, and a row of
logits for each token that it decides. -/
def State.stepReady (s : State) (x : SReq) (d : SpecStep) : Bool :=
  x.ready && !x.cancel && s.streamRoom x && (decide ((samplingOf x.input).specMax = 0) || decide (x.draftsOf d ≠ 0)) &&
    decide (x.draftsOf d < d.logits.length)

def execVerificationStep (j i : Nat) (d : SpecStep) (s : State) : Host.Outcome State Fault Refusal :=
  unit (decide (j < 256))
    (match s.openOf j i 1 with
     | some x => if s.stepReady x d && s.stagesRun j then (s.tidyPennants j).specStep j i x d (x.draftsOf d) else s
     | none => s)

/-! Posting (R328, R335, R336) -/

/-- Where the next entry of a ring lies in host memory. -/
def QEntry.slotAt (e : QEntry) : Nat := e.ring % 2 ^ 40 + e.midx % 2 ^ e.log2 * 64

/-- Write an entry into its ring in host memory, and read it back: the tag. -/
def State.writeEntry (s : State) (q : Nat) (b : Bytes) : Nat × State := (s.hostWrite (s.qe q).slotAt b).hostRead (s.qe q).slotAt 64

/-- A queue takes an entry now. -/
def State.postable (s : State) (q : Nat) : Bool := !s.postBusy q && decide ((s.qe q).kind ≠ 0) && (s.qe q).room && s.hostOk (s.qe q).slotAt 64 && !s.readsFull 1

/-- Post the next logged entry of request `i`; after a restart, only once its history is prefilled again (R337). A completion of a
generation that is no longer current counts as delivered (R421). -/
def State.postNext (s : State) (j i : Nat) (x : SReq) : State :=
  match x.due with
  | none => s
  | some (q, last, img) =>
    if x.wait.isSome || !(x.ended || x.ready) || !s.postable q then s
    else if last && decide (x.gen ≠ (s.ctx (s.job j).rc.ctx).payGen) then
      s.setServing j { s.serving j with reqs := (s.serving j).reqs.eraseIdx i }
    else
      let (t, s) := s.writeEntry q (if last then sealCompletion (s.payKey j) img else sealStream (s.payKey j) img)
      s.setReq j i { x with wait := some t }

/-- Post the `k`-th completion without a SERIAL. -/
def State.postReply (s : State) (j k : Nat) (r : Reply) : State :=
  if r.wait.isSome || !s.postable r.queue then s
  else
    let (t, s) := s.writeEntry r.queue r.img
    let v := s.serving j
    s.setServing j { v with replies := v.replies.set k { r with wait := some t } }

/-- STREAM_ENTRY_POST: the next entry of request `i` of the ledger; the numbers after the ledger's are those of the completions without
a SERIAL. -/
def execStreamEntryPost (j i : Nat) (s : State) : Host.Outcome State Fault Refusal :=
  unit (decide (j < 256))
    (let v := s.serving j
     if (s.guidonRuns j).isNone || v.stale then s
     else
      match v.reqs[i]?, v.replies[i - v.reqs.length]? with
      | some x, _ => s.postNext j i x
      | none, some r => s.postReply j (i - v.reqs.length) r
      | none, none => s)

end Sys2Proof.Machine
end

