-- ==== Sys2Proof/Machine/Sessions.lean ====
section
/-! DEFINITION. The SPDM responder, tenant sessions and IDE key management (R378, R422 to R430; log entry 36 on message codes). -/

namespace Sys2Proof.Machine

def State.sessOf (s : State) (i : Nat) : Sess := tget s.sess i
def State.setSess (s : State) (i : Nat) (x : Sess) : State := { s with sess := tput s.sess i x }

/-- A message to the responder, which answers while HUB runs (R379), but not in recovery (R438). -/
def spdmRun (s : State) (body : State → State) : Host.Outcome State Fault Refusal := .next (if s.manages then body s else s)

/-! Tenant requests (R425) -/

/-- A vendor-defined message of R425: StandardID 3, Yaroux's vendor ID, the payload and its length (log entry 36). -/
def vendorMessage (payload : Bytes) : Bytes := leBytes 2 3 ++ [2] ++ leBytes 2 Config.vendorId.toNat ++ leBytes 2 payload.length ++ payload

/-- The command that the payload of a vendor-defined request in session `i` spells: byte 0 is REQ. -/
def tenantCommand (i std vendor : Nat) (l : Bytes) : Option Instr :=
  if std ≠ 3 ∨ vendor ≠ Config.vendorId.toNat then none
  else
    match leAt l 0 1 with
    | 1 => some (.sessionBind i (leAt l 1 1) (leAt l 2 2) (fitBytes 32 (l.drop 4)))
    | 2 => some (.sessionReport i)
    | 3 => some (.payloadSet i (l.drop 1))
    | 4 => some (.payloadRetire i)
    | 5 => some (.sessionKvRotate i)
    | 6 => some (.measure i (leAt l 1 8) (leAt l 9 4))
    | _ => none

/-- The answer to a vendor-defined request: RESULT and what follows it. -/
def State.result (s : State) (i r : Nat) (data : Bytes) : State := s.send (.spdm i 0x7E (vendorMessage (BitVec.ofNat 8 r :: data)))

/-- One vendor-defined request in session `i`: UnexpectedRequest outside a session. -/
def tenantRun (i : Nat) (s : State) (body : State → State) : Host.Outcome State Fault Refusal :=
  spdmRun s fun s => if i < 8 ∧ (s.sessOf i).active then body s else s.send (.spdmError 4)

/-- A request of a bound session. -/
def boundRun (i : Nat) (s : State) (body : State → Nat → State) : Host.Outcome State Fault Refusal :=
  tenantRun i s fun s =>
    match (s.sessOf i).ctx with
    | some n => body s n
    | none => s.result i 3 []

/-- R426: BIND. -/
def execSessionBind (i n creation : Nat) (secret : Bytes) (s : State) : Host.Outcome State Fault Refusal :=
  tenantRun i s fun s =>
    let x := s.sessOf i
    let c := s.ctx n
    let d := shake256 secret
    if 256 ≤ n ∨ !c.defined ∨ c.creation ≠ creation then s.result i 1 []
    else if x.rootPort ∨ (x.ctx.isSome ∧ x.ctx ≠ some n) ∨ (c.bound ∧ c.secret ≠ d) then s.result i 2 []
    else (((s.setCtx n { c with bound := true, secret := d }).setSess i { x with ctx := some n }).result i 0 [])

/-! Measurements (R424) -/

/-- Content of one measurement block; a digest has 64 bytes. -/
def State.block (s : State) (k : Nat) : Bytes :=
  let reg := fun w : Word => leBytes 8 w.toNat
  match k with
  | 1 => fitBytes 64 Config.romDigest
  | 2 => s.block2
  | 3 => fitBytes 64 s.activeSlot.finalDigest
  | 4 => reg variant ++ fitBytes 64 Config.fuseDigest
  | 5 => reg s.topology ++ reg (s.lnkReg 0) ++ reg (s.d2dReg 0x100)
  | 6 => reg (s.secReg 0x18) ++ [1]
  | _ => if s.mtr.present ∧ !s.mtr.lost then leBytes 8 s.mtr.id ++ fitBytes 64 (Config.meterSwDigest s.mtr.id) else List.replicate 72 0

/-- A block in the DMTF format, as a raw bit stream: index, specification, size, type of value, size of value (log entry 36). -/
def State.dmtfBlock (s : State) (k : Nat) : Bytes :=
  let v := s.block k
  leBytes 1 k ++ [1] ++ leBytes 2 (v.length + 3) ++ leBytes 1 (0x80 + ([0, 1, 1, 2, 2, 3] : List Nat).getD (k - 1) 1) ++ leBytes 2 v.length ++ v
def State.blocks (s : State) : Bytes := (List.range 7).flatMap fun k => s.dmtfBlock (k + 1)

/-- R427: what REPORT returns, in the order of the rule (log entry 36 on the packing). -/
def State.reportOf (s : State) (n : Nat) : Bytes :=
  let c := s.ctx n
  let owned := fun h => (s.own.filter fun e => e.2.owned && decide (e.2.ctx = n) && decide (e.2.host = h)).length
  leBytes 2 c.creation ++ leBytes 4 (owned 0) ++ leBytes 4 (owned 1) ++ leBytes 4 (owned 2) ++
    leBytes 1 c.payGen ++ leBytes 1 ((c.payGen + 3) % 4) ++ leBytes 1 c.payState ++ leBytes 1 c.kvGen ++ leBytes 1 ((c.kvGen + 3) % 4) ++
    leBytes 1 (b2n c.kvPrev.isSome) ++ leBytes 4 c.prevImages ++
    ((s.live.filter fun e => decide (e.2.rc.ctx = n)).flatMap fun e =>
      leBytes 1 e.1 ++ leBytes 1 e.2.state ++ shake256 e.2.rc.bytes) ++
    shake256 s.blocks

def execSessionReport (i : Nat) (s : State) : Host.Outcome State Fault Refusal :=
  boundRun i s fun s n => s.result i 0 (s.reportOf n)

/-! Keys (R418 to R420) -/

def execPayloadSet (i : Nat) (key : Bytes) (s : State) : Host.Outcome State Fault Refusal :=
  boundRun i s fun s n =>
    let c := s.ctx n
    if key.length ≠ 32 then s.result i 5 []
    else if c.payPrev.isSome ∨ c.payPend.isSome then s.result i 4 []
    else if c.payCur.isNone then (s.setCtx n { c with payCur := some key, payGen := 0, serial := 0 }).result i 0 []
    else (s.setCtx n { c with payPend := some key }).result i 0 []

def execPayloadRetire (i : Nat) (s : State) : Host.Outcome State Fault Refusal :=
  boundRun i s fun s n => (s.setCtx n { s.ctx n with payPrev := none }).result i 0 []

def execSessionKvRotate (i : Nat) (s : State) : Host.Outcome State Fault Refusal :=
  boundRun i s fun s n =>
    match s.rotateKv n with
    | (s, true) => s.result i 0 []
    | (s, false) => s.result i 4 []

/-- R428: MEASURE; a slice that HUB cannot read, because its core is not backed (R41) or its die stands still, is a read error (log entry
42). -/
def execMeasure (i da len : Nat) (s : State) : Host.Outcome State Fault Refusal :=
  boundRun i s fun s n =>
    let c := da / 2 ^ 28
    let off := da % 2 ^ 28
    if da / 2 ^ 40 ≠ 0 ∨ da % 4096 ≠ 0 ∨ len % 4096 ≠ 0 ∨ len < 4096 ∨ 268435456 < len ∨ 2 ^ 28 < off + len then s.result i 5 []
    else if (List.range ((off + len + 2 ^ 21 - 1) / 2 ^ 21 - off / 2 ^ 21)).any fun k => !s.ownedBy n (c * 128 + off / 2 ^ 21 + k) then
      s.result i 6 []
    else
      match s.phys c with
      | none => s.result i 7 []
      | some p =>
        if !s.dieRuns (c / 256) || !s.bothWays 5 (c / 256) then s.result i 7 []
        else
          match s.readSlice p off len byHub with
          | (s, .ok d) => s.result i 0 (shake256 d)
          | (s, .error _) => s.result i 7 []

/-! The responder itself (R422 to R424) -/

/-- What the responder is (R423): the answers to GET_VERSION, GET_CAPABILITIES and NEGOTIATE_ALGORITHMS, for which the table of commands has
no row: version 1.4; CERT, CHAL, MEAS with signature, ENCRYPT, MAC, KEY_EX, HBEAT, KEY_UPD and CHUNK; one algorithm of each kind. -/
def spdmVersion : Nat := 0x14
def spdmCapabilities : Nat := 2 ^ 1 + 2 ^ 2 + 2 ^ 4 + 2 ^ 6 + 2 ^ 7 + 2 ^ 9 + 2 ^ 13 + 2 ^ 14 + 2 ^ 17
def spdmAlgorithms : List String := ["SLH-DSA-SHAKE-256s", "SHA3-384", "ML-KEM-1024", "AES-256-GCM"]

def execGetCertificate (off len : Nat) (s : State) : Host.Outcome State Fault Refusal :=
  spdmRun s fun s =>
    if ensignChain.length ≤ off then s.send (.spdmError 1) else s.send (.spdm 0 0x02 ((ensignChain.drop off).take len))

/-- A signed answer: the data, then the signature over the nonce and the data. -/
def State.signed (s : State) (code : Nat) (nonce data : Bytes) : State := s.send (.spdm 0 code (data ++ ensignSign (nonce ++ data)))

def execChallenge (nonce : Bytes) (s : State) : Host.Outcome State Fault Refusal :=
  spdmRun s fun s => s.signed 0x03 nonce (sha3of384 ensignChain ++ sha3of384 s.blocks)

def execGetMeasurements (idx : Nat) (nonce : Bytes) (s : State) : Host.Outcome State Fault Refusal :=
  spdmRun s fun s =>
    if idx = 0 then s.signed 0x60 nonce [7]
    else if idx < 8 then s.signed 0x60 nonce (s.dmtfBlock idx)
    else if idx = 0xFF then s.signed 0x60 nonce s.blocks
    else s.send (.spdmError 1)

/-- R423: at most eight sessions. -/
def execKeyExchange (rootPort : Bool) (req : Bytes) (s : State) : Host.Outcome State Fault Refusal :=
  spdmRun s fun s =>
    match (List.range 8).find? fun i => !(s.sessOf i).active with
    | none => s.send (.spdmError 0x0A)
    | some i =>
      let n := s.fresh
      let s := { s with fresh := n + 1 }
      (s.setSess i { (default : Sess) with active := true, rootPort := rootPort, secret := Config.kemSecret req n }).send
        (.spdm i 0x64 (Config.kemResponse req n))

/-- A message of the session itself. -/
def sessRun (i : Nat) (s : State) (body : State → Sess → State) : Host.Outcome State Fault Refusal :=
  tenantRun i s fun s => body s (s.sessOf i)

def execKeyUpdate (i : Nat) (s : State) : Host.Outcome State Fault Refusal :=
  sessRun i s fun s x => (s.setSess i { x with updates := x.updates + 1, secret := shake256 x.secret }).send (.spdm i 0x69 [])

def execHeartbeat (i : Nat) (s : State) : Host.Outcome State Fault Refusal :=
  sessRun i s fun s x => (s.setSess i { x with beats := x.beats + 1 }).send (.spdm i 0x68 [])

/-- The binding outlives the session (R426). -/
def execEndSession (i : Nat) (s : State) : Host.Outcome State Fault Refusal :=
  sessRun i s fun s _ => (s.setSess i default).send (.spdm i 0x6C [])

/-- R378, R416: a stream's keys are all programmed, and it enters Secure state; or it leaves it and drops them. -/
def State.startStream (s : State) (st : Nat) : State :=
  if (List.range 6).all fun k => tget s.host.ideKeys (st * 8 + k) ≠ [] then
    { s with host := { s.host with secure := s.host.secure.filter (· ≠ st) ++ [st] } }
  else s
def State.stopStream (s : State) (st : Nat) : State :=
  { s with host := { s.host with secure := s.host.secure.filter (· ≠ st), ideKeys := tclear s.host.ideKeys (st * 8) (st * 8 + 8) } }

/-- R378, R430, R444: once DOE is enabled, a key of a stream, or the stream's way into Secure state or out of it. -/
def execIdeKm (i stream : Nat) (op : IdeOp) (s : State) : Host.Outcome State Fault Refusal :=
  sessRun i s fun s x =>
    if !x.rootPort ∨ !s.linkEnabled then s.send (.spdmError 4)
    else if 4 ≤ stream then s.send (.spdmError 1)
    else
      (match op with
        | .prog sub rx key =>
          if 3 ≤ sub ∨ key.length ≠ 32 then s
          else { s with host := { s.host with ideKeys := tput s.host.ideKeys (stream * 8 + 2 * sub + b2n rx) key } }
        | .go => s.startStream stream
        | .stop => s.stopStream stream).send (.spdm i 0x7E [BitVec.ofNat 8 stream])

end Sys2Proof.Machine
end

