-- ==== Sys2Proof/Machine/Trace.lean ====
section
/-! DEFINITION. Counters of time, trace records, sync records and trace lanes (R39, R489 to R492, R510). -/

namespace Sys2Proof.Machine

/-! Time (R39; log entry 11) -/

/-- `n` cycles of the housekeeping clocks, which no loss of lock stops (R37): HUB's counter, and the counter of each die that is
up and not in half-mast (R474). -/
def State.pass (s : State) (n : Nat) : State :=
  if s.struck || !s.perstOut then s
  else { s with hubCount := wrap 64 (s.hubCount + n)
                dies := tmap (fun _ x => if x.up && !s.halfMast then { x with count := wrap 64 (x.count + n) } else x) s.dies }

/-- What the module does when no command waits: one housekeeping cycle. -/
def State.idle (s : State) : State := s.pass 1

/-! Records (R490) -/

/-- The 32 words of a core record; zero for an unbacked core. -/
def State.coreRecord (s : State) (c : Nat) : List Word :=
  match s.phys c with
  | none => []
  | some p =>
    let x := s.core c
    let h := s.hal p
    let d := s.die (c / 256)
    [BitVec.ofNat 64 (tget h.grants 0), BitVec.ofNat 64 (tget h.grants 1), BitVec.ofNat 64 (tget h.grants 2), BitVec.ofNat 64 (tget h.grants 3),
      h.starveReg, h.err.count, h.mergeReg, (s.nbu p).countReg, BitVec.ofNat 64 x.stat.rows, BitVec.ofNat 64 x.stat.prefetches,
      BitVec.ofNat 64 x.stat.discarded, BitVec.ofNat 64 x.stat.failed, BitVec.ofNat 64 x.stat.nanSrc, BitVec.ofNat 64 x.stat.msgUnits,
      BitVec.ofNat 64 x.stat.nackRet, BitVec.ofNat 64 d.count,
      packFields [(48, d.lockSeq), (40, x.ctx), (16, x.epoch), (0, x.run)]] ++ List.replicate 11 0 ++
      (List.range 4).map fun i => BitVec.ofNat 64 (ofLe (s.scratchRead c (0xFFFE0 + 8 * i) 8))

/-- The record of a cluster: CLU_MSG_, CLU_CONTEXT, CLU_CORE_MHZ and CC_ registers in offset order, then the die's count. -/
def State.clusterRecord (s : State) (h : Nat) : List Word :=
  let x := s.clu h
  [x.dropReg, x.dropLast, s.cluContext h, x.mhzReg] ++ ([0x00, 0x08, 0x10, 0x18, 0x20] : List Nat).map (s.cache h).reg ++
    [BitVec.ofNat 64 (s.die (h / 4)).count]

/-- Bytes of a record of `n` words. -/
def wordsBytes (n : Nat) (l : List Word) : Bytes := (List.range n).flatMap fun i => leBytes 8 (l.getD i 0).toNat

/-- A counter record on its lane (R491): one that a lost pair keeps from HUB is not sent within its 1 ms, and counts as skipped. -/
def State.counterFrame (s : State) (typ die index : Nat) (payload : Bytes) : State :=
  if s.bothWays 5 die then s.traceFrame typ die index payload
  else if s.lanesRun then { s with trc := { s.trc with skipped := wrap 32 (s.trc.skipped + 1) } } else s

def execTraceRecordWrite (d : Nat) (s : State) : Host.Outcome State Fault Refusal :=
  unit (decide (d < 5))
    (if !s.dieRuns d then s
     else
      let cs := (List.range 256).map (256 * d + ·)
      let hs := (List.range 4).map (4 * d + ·)
      let s : State := { s with trc := { s.trc with cores := cs.foldl (fun t c => tput t c (s.coreRecord c)) s.trc.cores
                                                    clus := hs.foldl (fun t h => tput t h (s.clusterRecord h)) s.trc.clus } }
      let s := cs.foldl (fun s c => s.counterFrame 3 d c (wordsBytes 32 (tget s.trc.cores c))) s
      hs.foldl (fun s h => s.counterFrame 4 d h (wordsBytes 10 (tget s.trc.clus h))) s)

/-! Sync records (R492) -/

/-- HUB asks a die for its count; `transit` cycles pass until the reply arrives. -/
def execSyncRequest (d transit : Nat) (s : State) : Host.Outcome State Fault Refusal :=
  unit (decide (d < 5))
    (if !s.dieRuns d || !s.bothWays 5 d then s
     else
      let (v, s) := s.free
      let x := s.die d
      let r : Sync := { t1 := s.hubCount, t2 := wrap 64 (s.hubCount + transit), d := wrap 64 (x.count + v % (transit + 1)), lockSeq := x.lockSeq, valid := true }
      let s := s.pass transit
      ({ s with trc := { s.trc with sync := tput s.trc.sync d r } } : State).traceFrame 2 d d (wordsBytes 4 r.words))

/-- R510: a lane with nothing to send; INDEX names the lane here. -/
def execTraceIdle (lane : Nat) (s : State) : Host.Outcome State Fault Refusal :=
  unit (decide (lane < 4)) (s.traceFrame 5 5 lane [])

end Sys2Proof.Machine
end

