-- ==== Sys2Proof/Machine/Dispatch.lean ====
section
/-! DEFINITION. One arm for each command. -/

namespace Sys2Proof.Machine

def exec (i : Instr) (s : State) : Host.Outcome State Fault Refusal :=
  match i with
  | .illegalOpcode c w => Sys2Proof.Machine.execIllegalOpcode c w s
  | .alu c f => Sys2Proof.Machine.execAlu c f s
  | .mul c f => Sys2Proof.Machine.execMul c f s
  | .divide c f => Sys2Proof.Machine.execDivide c f s
  | .addi c f => Sys2Proof.Machine.execAddi c f s
  | .andi c f => Sys2Proof.Machine.execAndi c f s
  | .ori c f => Sys2Proof.Machine.execOri c f s
  | .xori c f => Sys2Proof.Machine.execXori c f s
  | .shi c f => Sys2Proof.Machine.execShi c f s
  | .slti c f => Sys2Proof.Machine.execSlti c f s
  | .sltiu c f => Sys2Proof.Machine.execSltiu c f s
  | .li c f => Sys2Proof.Machine.execLi c f s
  | .liu c f => Sys2Proof.Machine.execLiu c f s
  | .lih c f => Sys2Proof.Machine.execLih c f s
  | .ld c f => Sys2Proof.Machine.execLd c f s
  | .st c f => Sys2Proof.Machine.execSt c f s
  | .amo c f => Sys2Proof.Machine.execAmo c f s
  | .pred c f => Sys2Proof.Machine.execPred c f s
  | .vld c f => Sys2Proof.Machine.execVld c f s
  | .vst c f => Sys2Proof.Machine.execVst c f s
  | .vint c f => Sys2Proof.Machine.execVint c f s
  | .vfp c f => Sys2Proof.Machine.execVfp c f s
  | .vfma c f => Sys2Proof.Machine.execVfma c f s
  | .vfn c f => Sys2Proof.Machine.execVfn c f s
  | .vcmp c f => Sys2Proof.Machine.execVcmp c f s
  | .vred c f => Sys2Proof.Machine.execVred c f s
  | .vperm c f => Sys2Proof.Machine.execVperm c f s
  | .vbcast c f => Sys2Proof.Machine.execVbcast c f s
  | .vmovs c f => Sys2Proof.Machine.execVmovs c f s
  | .vcvt c f => Sys2Proof.Machine.execVcvt c f s
  | .vquant c f => Sys2Proof.Machine.execVquant c f s
  | .vplane c f => Sys2Proof.Machine.execVplane c f s
  | .nop c f => Sys2Proof.Machine.execNop c f s
  | .br c f => Sys2Proof.Machine.execBr c f s
  | .jal c f => Sys2Proof.Machine.execJal c f s
  | .jalr c f => Sys2Proof.Machine.execJalr c f s
  | .fence c f => Sys2Proof.Machine.execFence c f s
  | .rdctr c f => Sys2Proof.Machine.execRdctr c f s
  | .endRole c f => Sys2Proof.Machine.execEndRole c f s
  | .sysr c f => Sys2Proof.Machine.execSysr c f s
  | .sysw c f => Sys2Proof.Machine.execSysw c f s
  | .sclr c f => Sys2Proof.Machine.execSclr c f s
  | .ctxset c f => Sys2Proof.Machine.execCtxset c f s
  | .uenter c f => Sys2Proof.Machine.execUenter c f s
  | .mldw c f => Sys2Proof.Machine.execMldw c f s
  | .blockShiftStart c => Sys2Proof.Machine.execBlockShiftStart c s
  | .mop c f => Sys2Proof.Machine.execMop c f s
  | .arrayRowEnter c arr flt => Sys2Proof.Machine.execArrayRowEnter c arr flt s
  | .mrd c f => Sys2Proof.Machine.execMrd c f s
  | .mclr c f => Sys2Proof.Machine.execMclr c f s
  | .qset c f => Sys2Proof.Machine.execQset c f s
  | .qget c f => Sys2Proof.Machine.execQget c f s
  | .qstart c f => Sys2Proof.Machine.execQstart c f s
  | .qtake c f => Sys2Proof.Machine.execQtake c f s
  | .qput c f => Sys2Proof.Machine.execQput c f s
  | .qcancel c f => Sys2Proof.Machine.execQcancel c f s
  | .streamPrefetch c q => Sys2Proof.Machine.execStreamPrefetch c q s
  | .streamLineArrive c line u => Sys2Proof.Machine.execStreamLineArrive c line u s
  | .streamWrite c q => Sys2Proof.Machine.execStreamWrite c q s
  | .gbind c f => Sys2Proof.Machine.execGbind c f s
  | .gsendv c f => Sys2Proof.Machine.execGsendv c f s
  | .gsends c f => Sys2Proof.Machine.execGsends c f s
  | .grecv c f => Sys2Proof.Machine.execGrecv c f s
  | .grecvv c f => Sys2Proof.Machine.execGrecvv c f s
  | .gfree c f => Sys2Proof.Machine.execGfree c f s
  | .gstat c f => Sys2Proof.Machine.execGstat c f s
  | .msgArrive n => Sys2Proof.Machine.execMsgArrive n s
  | .nackEpoch n => Sys2Proof.Machine.execNackEpoch n s
  | .creditRelease n => Sys2Proof.Machine.execCreditRelease n s
  | .creditArrive n => Sys2Proof.Machine.execCreditArrive n s
  | .nissue c f => Sys2Proof.Machine.execNissue c f s
  | .nwait c f => Sys2Proof.Machine.execNwait c f s
  | .nstat c f => Sys2Proof.Machine.execNstat c f s
  | .impreciseException c => Sys2Proof.Machine.execImpreciseException c s
  | .managementRequest c => Sys2Proof.Machine.execManagementRequest c s
  | .bankProgramAdmit c => Sys2Proof.Machine.execBankProgramAdmit c s
  | .earith c b => Sys2Proof.Machine.execEarith c b s
  | .efma c b => Sys2Proof.Machine.execEfma c b s
  | .efunc c b => Sys2Proof.Machine.execEfunc c b s
  | .erope c b => Sys2Proof.Machine.execErope c b s
  | .ecvt c b => Sys2Proof.Machine.execEcvt c b s
  | .nbRed c b => Sys2Proof.Machine.execNbRed c b s
  | .nbFold c b => Sys2Proof.Machine.execNbFold c b s
  | .fop c b => Sys2Proof.Machine.execFop c b s
  | .xop c b => Sys2Proof.Machine.execXop c b s
  | .nbLoop c b => Sys2Proof.Machine.execNbLoop c b s
  | .rowcpy c b => Sys2Proof.Machine.execRowcpy c b s
  | .skey c b => Sys2Proof.Machine.execSkey c b s
  | .nbEnd c b => Sys2Proof.Machine.execNbEnd c b s
  | .nbBoundaryService c b => Sys2Proof.Machine.execNbBoundaryService c b s
  | .nbPause c b => Sys2Proof.Machine.execNbPause c b s
  | .nbResume c b => Sys2Proof.Machine.execNbResume c b s
  | .halyardGrant c u mismatches => Sys2Proof.Machine.execHalyardGrant c u mismatches s
  | .correctedWriteback c => Sys2Proof.Machine.execCorrectedWriteback c s
  | .mergeAgeFlush c => Sys2Proof.Machine.execMergeAgeFlush c s
  | .sealedWriteConfirm c => Sys2Proof.Machine.execSealedWriteConfirm c s
  | .refreshDue c b => Sys2Proof.Machine.execRefreshDue c b s
  | .refreshOwedIssue c b => Sys2Proof.Machine.execRefreshOwedIssue c b s
  | .recalWindow c => Sys2Proof.Machine.execRecalWindow c s
  | .scrubLine c u => Sys2Proof.Machine.execScrubLine c u s
  | .scrubWriteback c => Sys2Proof.Machine.execScrubWriteback c s
  | .regionMapWrite c lo hi => Sys2Proof.Machine.execRegionMapWrite c lo hi s
  | .testModeEnable c mode b => Sys2Proof.Machine.execTestModeEnable c mode b s
  | .ccAccess h e => Sys2Proof.Machine.execCcAccess h e s
  | .ccFill h u => Sys2Proof.Machine.execCcFill h u s
  | .ccInvalidate n => Sys2Proof.Machine.execCcInvalidate n s
  | .ccContextInvalidate h ctx => Sys2Proof.Machine.execCcContextInvalidate h ctx s
  | .jobPlace r => Sys2Proof.Machine.execJobPlace r s
  | .jobRetire j => Sys2Proof.Machine.execJobRetire j s
  | .faultReport n => Sys2Proof.Machine.execFaultReport n s
  | .jobRestart j => Sys2Proof.Machine.execJobRestart j s
  | .faultRecordFree col n => Sys2Proof.Machine.execFaultRecordFree col n s
  | .segmentFaultNotice inst => Sys2Proof.Machine.execSegmentFaultNotice inst s
  | .windowEpochNotice peer win epoch => Sys2Proof.Machine.execWindowEpochNotice peer win epoch s
  | .ctxCreate w => Sys2Proof.Machine.execCtxCreate w s
  | .ctxDestroy w => Sys2Proof.Machine.execCtxDestroy w s
  | .bankGrant w => Sys2Proof.Machine.execBankGrant w s
  | .bankRevoke w => Sys2Proof.Machine.execBankRevoke w s
  | .lowerHost w => Sys2Proof.Machine.execLowerHost w s
  | .kvRotate w => Sys2Proof.Machine.execKvRotate w s
  | .jobHold w => Sys2Proof.Machine.execJobHold w s
  | .jobRelease w => Sys2Proof.Machine.execJobRelease w s
  | .ctxPage w => Sys2Proof.Machine.execCtxPage w s
  | .counterPageUpdate powers => Sys2Proof.Machine.execCounterPageUpdate powers s
  | .sessionBind sess ctx creation secret => Sys2Proof.Machine.execSessionBind sess ctx creation secret s
  | .sessionReport sess => Sys2Proof.Machine.execSessionReport sess s
  | .payloadSet sess key => Sys2Proof.Machine.execPayloadSet sess key s
  | .payloadRetire sess => Sys2Proof.Machine.execPayloadRetire sess s
  | .sessionKvRotate sess => Sys2Proof.Machine.execSessionKvRotate sess s
  | .measure sess da len => Sys2Proof.Machine.execMeasure sess da len s
  | .payloadRotation ctx => Sys2Proof.Machine.execPayloadRotation ctx s
  | .getCertificate off len => Sys2Proof.Machine.execGetCertificate off len s
  | .challenge nonce => Sys2Proof.Machine.execChallenge nonce s
  | .getMeasurements idx nonce => Sys2Proof.Machine.execGetMeasurements idx nonce s
  | .keyExchange rootPort req => Sys2Proof.Machine.execKeyExchange rootPort req s
  | .keyUpdate sess => Sys2Proof.Machine.execKeyUpdate sess s
  | .heartbeat sess => Sys2Proof.Machine.execHeartbeat sess s
  | .ideKm sess stream op => Sys2Proof.Machine.execIdeKm sess stream op s
  | .configRequest fn wr off v => Sys2Proof.Machine.execConfigRequest fn wr off v s
  | .bar2Read off len secure => Sys2Proof.Machine.execBar2Read off len secure s
  | .bar2Write off d secure => Sys2Proof.Machine.execBar2Write off d secure s
  | .registerWrite off a v => Sys2Proof.Machine.execRegisterWrite off a v s
  | .function1Write off v => Sys2Proof.Machine.execFunction1Write off v s
  | .atomicopRequest bar off => Sys2Proof.Machine.execAtomicopRequest bar off s
  | .doorbell off a v => Sys2Proof.Machine.execDoorbell off a v s
  | .queueEventSend j => Sys2Proof.Machine.execQueueEventSend j s
  | .midxUpdate n => Sys2Proof.Machine.execMidxUpdate n s
  | .intDelayExpire q => Sys2Proof.Machine.execIntDelayExpire q s
  | .queCreate w => Sys2Proof.Machine.execQueCreate w s
  | .queDestroy w => Sys2Proof.Machine.execQueDestroy w s
  | .queRead w => Sys2Proof.Machine.execQueRead w s
  | .flrFunction0 => Sys2Proof.Machine.execFlrFunction0 s
  | .flrFunction1 => Sys2Proof.Machine.execFlrFunction1 s
  | .d3hotEntry => Sys2Proof.Machine.execD3hotEntry s
  | .d0Return => Sys2Proof.Machine.execD0Return s
  | .guestWindowAccess off a wr v resp => Sys2Proof.Machine.execGuestWindowAccess off a wr v resp s
  | .guestTimeout => Sys2Proof.Machine.execGuestTimeout s
  | .guestRequest da len op d => Sys2Proof.Machine.execGuestRequest da len op d s
  | .dmaCopy k d => Sys2Proof.Machine.execDmaCopy k d s
  | .dmaFill k d => Sys2Proof.Machine.execDmaFill k d s
  | .dmaCheck k d => Sys2Proof.Machine.execDmaCheck k d s
  | .bandToPlanar k d => Sys2Proof.Machine.execBandToPlanar k d s
  | .planarToBand k d => Sys2Proof.Machine.execPlanarToBand k d s
  | .planeSplit k d => Sys2Proof.Machine.execPlaneSplit k d s
  | .planeMerge k d => Sys2Proof.Machine.execPlaneMerge k d s
  | .sealPayload k d => Sys2Proof.Machine.execSealPayload k d s
  | .openPayload k d => Sys2Proof.Machine.execOpenPayload k d s
  | .pseal k d => Sys2Proof.Machine.execPseal k d s
  | .popen k d => Sys2Proof.Machine.execPopen k d s
  | .prewrap k d => Sys2Proof.Machine.execPrewrap k d s
  | .pdiscard k d => Sys2Proof.Machine.execPdiscard k d s
  | .descriptorComplete k => Sys2Proof.Machine.execDescriptorComplete k s
  | .dmaProdWrite ch a v => Sys2Proof.Machine.execDmaProdWrite ch a v s
  | .descriptorResume => Sys2Proof.Machine.execDescriptorResume s
  | .channelDisable k => Sys2Proof.Machine.execChannelDisable k s
  | .channelEnable k ctl ring => Sys2Proof.Machine.execChannelEnable k ctl ring s
  | .crcModeSet => Sys2Proof.Machine.execCrcModeSet s
  | .crcModeClear => Sys2Proof.Machine.execCrcModeClear s
  | .crcValueWrite n v => Sys2Proof.Machine.execCrcValueWrite n v s
  | .mboxReadLog w => Sys2Proof.Machine.execMboxReadLog w s
  | .mboxStage w slot => Sys2Proof.Machine.execMboxStage w slot s
  | .mboxCommit x => Sys2Proof.Machine.execMboxCommit x s
  | .mboxAbort x => Sys2Proof.Machine.execMboxAbort x s
  | .windowCreate w => Sys2Proof.Machine.execWindowCreate w s
  | .windowDelete w => Sys2Proof.Machine.execWindowDelete w s
  | .portRetry p r => Sys2Proof.Machine.execPortRetry p r s
  | .frameWrite p fr => Sys2Proof.Machine.execFrameWrite p fr s
  | .frameRead p fr => Sys2Proof.Machine.execFrameRead p fr s
  | .readCompletion p fr => Sys2Proof.Machine.execReadCompletion p fr s
  | .writeAcknowledgement p fr => Sys2Proof.Machine.execWriteAcknowledgement p fr s
  | .frameIdle p fr => Sys2Proof.Machine.execFrameIdle p fr s
  | .frameManagement p fr => Sys2Proof.Machine.execFrameManagement p fr s
  | .frameNak p fr => Sys2Proof.Machine.execFrameNak p fr s
  | .portKeyUpdate p => Sys2Proof.Machine.execPortKeyUpdate p s
  | .remoteTimeout n => Sys2Proof.Machine.execRemoteTimeout n s
  | .d2dCrcFail pair m lane retries => Sys2Proof.Machine.execD2dCrcFail pair m lane retries s
  | .pairLost pair => Sys2Proof.Machine.execPairLost pair s
  | .diePllLoss d => Sys2Proof.Machine.execDiePllLoss d s
  | .hubPllLoss => Sys2Proof.Machine.execHubPllLoss s
  | .dieHousekeepingRound d r => Sys2Proof.Machine.execDieHousekeepingRound d r s
  | .hubRound r => Sys2Proof.Machine.execHubRound r s
  | .clockChange h => Sys2Proof.Machine.execClockChange h s
  | .capUpdate => Sys2Proof.Machine.execCapUpdate s
  | .emergencyEnd => Sys2Proof.Machine.execEmergencyEnd s
  | .overcurrentClamp => Sys2Proof.Machine.execOvercurrentClamp s
  | .thermalTrip site dram temp => Sys2Proof.Machine.execThermalTrip site dram temp s
  | .halfMastEntry pldm => Sys2Proof.Machine.execHalfMastEntry pldm s
  | .halfMastDrained => Sys2Proof.Machine.execHalfMastDrained s
  | .halfMastExit pldm => Sys2Proof.Machine.execHalfMastExit pldm s
  | .inputLoss => Sys2Proof.Machine.execInputLoss s
  | .inputRestore => Sys2Proof.Machine.execInputRestore s
  | .perstNAssert => Sys2Proof.Machine.execPerstNAssert s
  | .perstNDeassert b => Sys2Proof.Machine.execPerstNDeassert b s
  | .buntingRerequest c block good => Sys2Proof.Machine.execBuntingRerequest c block good s
  | .meterReadState m => Sys2Proof.Machine.execMeterReadState m s
  | .meterReadRecord n => Sys2Proof.Machine.execMeterReadRecord n s
  | .meterReadCert => Sys2Proof.Machine.execMeterReadCert s
  | .meterReadLog n => Sys2Proof.Machine.execMeterReadLog n s
  | .meterDemand nonce => Sys2Proof.Machine.execMeterDemand nonce s
  | .intervalRecord => Sys2Proof.Machine.execIntervalRecord s
  | .coverOpening => Sys2Proof.Machine.execCoverOpening s
  | .meterSupplyEvent e => Sys2Proof.Machine.execMeterSupplyEvent e s
  | .energyStore mwh => Sys2Proof.Machine.execEnergyStore mwh s
  | .meterLost => Sys2Proof.Machine.execMeterLost s
  | .traceRecordWrite d => Sys2Proof.Machine.execTraceRecordWrite d s
  | .syncRequest d transit => Sys2Proof.Machine.execSyncRequest d transit s
  | .traceIdle lane => Sys2Proof.Machine.execTraceIdle lane s
  | .doorbellEvent j ciphers entries => Sys2Proof.Machine.execDoorbellEvent j ciphers entries s
  | .restartedEvent j => Sys2Proof.Machine.execRestartedEvent j s
  | .keyRotatedEvent j => Sys2Proof.Machine.execKeyRotatedEvent j s
  | .reqGenerate j n r => Sys2Proof.Machine.execReqGenerate j n r s
  | .reqPrefill j n r => Sys2Proof.Machine.execReqPrefill j n r s
  | .reqEmbed j n r => Sys2Proof.Machine.execReqEmbed j n r s
  | .reqTile j n r => Sys2Proof.Machine.execReqTile j n r s
  | .reqCancel j n => Sys2Proof.Machine.execReqCancel j n s
  | .verificationStep j n d => Sys2Proof.Machine.execVerificationStep j n d s
  | .streamEntryPost j n => Sys2Proof.Machine.execStreamEntryPost j n s
  | .diePllRelock d => Sys2Proof.Machine.execDiePllRelock d s
  | .d2dModuleFail pair m => Sys2Proof.Machine.execD2dModuleFail pair m s
  | .hotReset => Sys2Proof.Machine.execHotReset s
  | .pcieCompletion tag r => Sys2Proof.Machine.execPcieCompletion tag r s
  | .endSession sess => Sys2Proof.Machine.execEndSession sess s
  | .tachFactorSet factor => Sys2Proof.Machine.execTachFactorSet factor s
  | .fabricIdProvision id peers => Sys2Proof.Machine.execFabricIdProvision id peers s
  | .flowTachEdge gap => Sys2Proof.Machine.execFlowTachEdge gap s
  | .scrubLapLate c => Sys2Proof.Machine.execScrubLapLate c s
  | .msixVectorUnmask v => Sys2Proof.Machine.execMsixVectorUnmask v s
  | .portSignalLoss p => Sys2Proof.Machine.execPortSignalLoss p s

end Sys2Proof.Machine
end

