-- ==== Sys2Proof/WellFormed.lean ====
section
/-! DEFINITION. Well-formed commands: every unit that a command names exists (R7, R25, R30, R51, R222, R343, R371, R376, R383, R400). -/

namespace Sys2Proof

/-- The units that a command names exist. -/
def Instr.wellFormed : Instr → Bool
  | .illegalOpcode c _ | .alu c _ | .mul c _ | .divide c _ | .addi c _ | .andi c _ | .ori c _ | .xori c _ | .shi c _ | .slti c _ | .sltiu c _
  | .li c _ | .liu c _ | .lih c _ | .ld c _ | .st c _ | .amo c _ | .pred c _ | .vld c _ | .vst c _ | .vint c _ | .vfp c _ | .vfma c _
  | .vfn c _ | .vcmp c _ | .vred c _ | .vperm c _ | .vbcast c _ | .vmovs c _ | .vcvt c _ | .vquant c _ | .vplane c _ | .nop c _ | .br c _
  | .jal c _ | .jalr c _ | .fence c _ | .rdctr c _ | .endRole c _ | .sysr c _ | .sysw c _ | .sclr c _ | .ctxset c _ | .uenter c _ | .mldw c _
  | .blockShiftStart c | .mop c _ | .mrd c _ | .mclr c _ | .qset c _ | .qget c _ | .qstart c _ | .qtake c _ | .qput c _ | .qcancel c _
  | .streamLineArrive c _ _ | .gbind c _ | .gsendv c _ | .gsends c _ | .grecv c _ | .grecvv c _ | .gfree c _ | .gstat c _ | .nissue c _
  | .nwait c _ | .nstat c _ | .impreciseException c | .managementRequest c | .bankProgramAdmit c | .halyardGrant c _ _ | .correctedWriteback c
  | .mergeAgeFlush c | .sealedWriteConfirm c | .scrubLine c _ | .scrubWriteback c | .regionMapWrite c _ _ | .scrubLapLate c => decide (c < 1280)
  | .arrayRowEnter c arr _ => decide (c < 1280) && decide (arr < 4)
  | .streamPrefetch c q | .streamWrite c q => decide (c < 1280) && decide (q < 16)
  | .msgArrive _ | .nackEpoch _ | .creditRelease _ | .creditArrive _ | .ccInvalidate _ | .jobPlace _ | .faultReport _ | .segmentFaultNotice _
  | .ctxCreate _ | .ctxDestroy _ | .bankGrant _ | .bankRevoke _ | .lowerHost _ | .kvRotate _ | .jobHold _ | .jobRelease _ | .ctxPage _
  | .counterPageUpdate _ | .sessionBind _ _ _ _ | .sessionReport _ | .payloadSet _ _ | .payloadRetire _ | .sessionKvRotate _ | .measure _ _ _
  | .getCertificate _ _ | .challenge _ | .getMeasurements _ _ | .keyExchange _ _ | .keyUpdate _ | .heartbeat _ | .ideKm _ _ _
  | .configRequest _ _ _ _ | .bar2Read _ _ _ | .bar2Write _ _ _ | .registerWrite _ _ _ | .function1Write _ _ | .atomicopRequest _ _
  | .doorbell _ _ _ | .midxUpdate _ | .queCreate _ | .queDestroy _ | .queRead _ | .flrFunction0 | .flrFunction1 | .d3hotEntry | .d0Return
  | .guestWindowAccess _ _ _ _ _ | .guestTimeout | .guestRequest _ _ _ _ | .descriptorResume | .crcModeSet | .crcModeClear | .mboxReadLog _
  | .mboxStage _ _ | .mboxCommit _ | .mboxAbort _ | .windowCreate _ | .windowDelete _ | .remoteTimeout _ | .hubPllLoss | .hubRound _
  | .capUpdate | .emergencyEnd | .overcurrentClamp | .halfMastEntry _ | .halfMastDrained | .halfMastExit _ | .inputLoss | .inputRestore
  | .perstNAssert | .perstNDeassert _ | .meterReadState _ | .meterReadRecord _ | .meterReadCert | .meterReadLog _ | .meterDemand _
  | .intervalRecord | .coverOpening | .meterSupplyEvent _ | .energyStore _ | .meterLost | .hotReset | .pcieCompletion _ _ | .endSession _
  | .tachFactorSet _ | .fabricIdProvision _ _ | .flowTachEdge _ => true
  | .earith c b | .efma c b | .efunc c b | .erope c b | .ecvt c b | .nbRed c b | .nbFold c b | .fop c b | .xop c b | .nbLoop c b | .rowcpy c b
  | .skey c b | .nbEnd c b | .nbBoundaryService c b | .nbPause c b | .nbResume c b | .refreshDue c b | .refreshOwedIssue c b => decide (c < 1280) && decide (b < 128)
  | .recalWindow c | .buntingRerequest c _ _ => decide (c < 1440)
  | .testModeEnable c mode b => decide (c < 1280) && decide (b.bank < 128) && decide (mode < 3)
  | .ccAccess h _ | .ccFill h _ | .clockChange h => decide (h < 20)
  | .ccContextInvalidate h ctx => decide (h < 20) && decide (ctx < 256)
  | .jobRetire j | .jobRestart j | .queueEventSend j | .doorbellEvent j _ _ | .restartedEvent j | .keyRotatedEvent j | .reqGenerate j _ _
  | .reqPrefill j _ _ | .reqEmbed j _ _ | .reqTile j _ _ | .reqCancel j _ | .verificationStep j _ _ | .streamEntryPost j _ => decide (j < 256)
  | .faultRecordFree col n => decide (col < 6) && decide (n < 256)
  | .windowEpochNotice peer win _ => decide (peer < 256) && decide (win < 16)
  | .payloadRotation ctx => decide (ctx < 256)
  | .intDelayExpire q => decide (q < 65536)
  | .dmaCopy k _ | .dmaFill k _ | .dmaCheck k _ | .bandToPlanar k _ | .planarToBand k _ | .planeSplit k _ | .planeMerge k _ | .sealPayload k _
  | .openPayload k _ | .pseal k _ | .popen k _ | .prewrap k _ | .pdiscard k _ | .descriptorComplete k | .channelDisable k
  | .channelEnable k _ _ => decide (k < 576)
  | .dmaProdWrite ch _ _ => decide (ch < 256)
  | .crcValueWrite n _ => decide (n < 16)
  | .portRetry p _ | .frameWrite p _ | .frameRead p _ | .readCompletion p _ | .writeAcknowledgement p _ | .frameIdle p _
  | .frameManagement p _ | .frameNak p _ | .portKeyUpdate p | .portSignalLoss p => decide (p < 8)
  | .d2dCrcFail pair m lane _ => decide (pair < 8) && decide (m < 2) && decide (lane < 64)
  | .pairLost pair => decide (pair < 8)
  | .diePllLoss d | .dieHousekeepingRound d _ | .traceRecordWrite d | .syncRequest d _ | .diePllRelock d => decide (d < 5)
  | .thermalTrip site _ _ => decide (site < 22)
  | .traceIdle lane => decide (lane < 4)
  | .d2dModuleFail pair m => decide (pair < 8) && decide (m < 2)
  | .msixVectorUnmask v => decide (v < 2048)

end Sys2Proof
end

