-- ==== Sys2Proof/Safety.lean ====
section
/-! DEFINITION. What counts as a safe run, and the words in which the statements speak of issue and retirement. -/

namespace Sys2Proof.Machine

/-- The command completes: its answer is a next state. -/
def Runs (o : Host.Outcome State Fault Refusal) : Prop := ∃ t, o = .next t

/-- Every waiting command names units that the module has. -/
def State.queueOk (s : State) : Prop := ∀ i ∈ s.pending, i.wellFormed = true

/-- The byte memories of the module are in canonical form: keys strictly rising, no entry that reads as an unlisted one. -/
def State.memOk (s : State) : Bool := twf s.mem && twf s.flips && twf s.scratch

/-- An instruction of core `c` is presented for issue: the core exists and takes instructions, its fetch is not refused, and its
instruction cache holds the code word (R47, R56, R170). -/
structure Issues (s : State) (c : Nat) : Prop where
  unit : c < 1280
  can : s.canIssue c = true
  fetch : s.fetchFault c = none
  held : s.lineHeld c = true

/-- The instruction of core `c` retires in order with nothing written. -/
def State.retire (s : State) (c : Nat) : State := (s.goOn c).advance c
/-- It retires and writes scalar register `rd`; a write to s0 is discarded (R51). -/
def State.retireS (s : State) (c rd : Nat) (w : Word) : State :=
  ((s.goOn c).setCore c (((s.goOn c).core c).setS rd w)).advance c
/-- It retires and writes vector register `vd`. -/
def State.retireV (s : State) (c vd : Nat) (w : V512) : State :=
  ((s.goOn c).setCore c (((s.goOn c).core c).setV vd w)).advance c
/-- It retires and writes predicate `pd`; a write to p0 is discarded (R51). -/
def State.retireP (s : State) (c pd : Nat) (w : Word) : State :=
  ((s.goOn c).setCore c (((s.goOn c).core c).setP pd w)).advance c
/-- The core as its instruction finds it: RUN reads 3 again if the instruction was held (R170). -/
def State.seen (s : State) (c : Nat) : Core := (s.goOn c).core c

/-- A load whose data is complete writes its register and retires: a vector under its predicate, a scalar extended. -/
def State.loaded (s : State) (c : Nat) (w : LdWait) : State :=
  (if w.vec then s.setCore c ((s.core c).setV w.rd (blend w.ew w.pg ((s.core c).vreg w.rd) (vofBytes w.buf)))
   else s.setCore c ((s.core c).setS w.rd w.scalar)).advance c
/-- A load has issued and waits for its data: nothing is written and pc stays. -/
def State.waits (s : State) (c : Nat) (w : LdWait) : State := s.setCore c { s.core c with wait := some w }

/-! Command registers and frames -/

/-- The queue table's command register once a command has been performed: idle, with a CODE. -/
def State.queDone (s : State) (code : Nat) : State := { s with que := { s.que with cmd := none, code := code } }

/-- The mailbox's command register once a command has been performed. -/
def State.mboxDone (s : State) (code : Nat) : State := { s with mbox := { s.mbox with cmd := none, code := code } }

/-- The window command register once a command has been performed. -/
def State.winDone (s : State) (code : Nat) : State := { s with lnk := { s.lnk with cmd := none, code := code } }

/-- A port that serves a frame's channel (R387, R393). -/
structure Hears (s : State) (p typ : Nat) : Prop where
  port : p < 8
  links : s.linksRun = true
  carries : (s.lport p).carries (vcOf typ) = true

/-- The counter that a frame of this phase must carry (R391, R392): a new phase only after an announcement of it. -/
def LPort.expects (x : LPort) (f : Frame) : Nat := x.want f.phase

/-! The bytes that a store of a core may change -/

/-- Byte `n` of the slices is an enabled byte of the access: `n` is physical core × 2^28 + offset (R121, R123). -/
def State.storesByte (s : State) (c : Nat) (a : MemAcc) (n : Nat) : Prop :=
  ∃ part ∈ a.lines, ∃ k off p, s.partPlace c a part = some (.slice k off) ∧ s.phys k = some p ∧
    ∃ i, i < part.2 ∧ a.enAt part.1 i = true ∧ n = p * 2 ^ 28 + off + i

/-- Byte `n` of the slices lies in a code word that waits in a merge buffer (R211). -/
def State.mergeHolds (s : State) (n : Nat) : Prop :=
  ∃ p, ∃ e ∈ (s.hal p).merge, (p * 2 ^ 23 + e.word) * 32 ≤ n ∧ n < (p * 2 ^ 23 + e.word) * 32 + max 32 e.data.length

/-- Byte `n` of the slices lies in a code word that a write or a flush held at a halyard controller touches. -/
def State.reqHolds (s : State) (n : Nat) : Prop :=
  ∃ p, ∃ r ∈ (s.hal p).reqs, (r.write = true ∨ r.flush = true) ∧
    p * 2 ^ 28 + r.off / 32 * 32 ≤ n ∧ n < p * 2 ^ 28 + (r.off + max 32 (max r.len r.data.length) + 31) / 32 * 32

/-- Byte `n` of the slices lies in a code word with a write that has been accepted and not performed. -/
def State.waitsAt (s : State) (n : Nat) : Prop := s.mergeHolds n ∨ s.reqHolds n

/-- Byte `n` of the scratches is an enabled byte of the access: `n` is logical core × 2^20 + offset (R54). -/
def State.storesScratch (s : State) (c : Nat) (a : MemAcc) (n : Nat) : Prop :=
  ∃ part ∈ a.lines, ∃ k off, s.partPlace c a part = some (.scratch k off) ∧
    ∃ i, i < part.2 ∧ a.enAt part.1 i = true ∧ n = k * 2 ^ 20 + off + i

/-- The registers of a core that software names, and its message ports, streams and tickets, are those of `y`. -/
structure SameRegs (x y : Core) : Prop where
  s : ∀ r, x.sreg r = y.sreg r
  v : ∀ r, x.vreg r = y.vreg r
  p : ∀ r, x.preg r = y.preg r
  a : x.a = y.a
  q : x.q = y.q
  m : x.m = y.m
  tickets : x.tickets = y.tickets
  ctx : x.ctx = y.ctx
  epoch : x.epoch = y.epoch
  job : x.job = y.job

end Sys2Proof.Machine
end

