-- ==== Sys2Proof/Certificates/Slice0/Obligations.lean ====
section
/-! DEFINITION. The statements about the model, one `Obligations.<Name>` each. -/

open Sys2Proof Sys2Proof.Machine

/-- A step takes the command at the front of the queue and runs it on the state with the rest; with no command waiting, one
housekeeping cycle passes (the model's choice, log entry 11). -/
def Obligations.stepRunsFront : Prop :=
  (∀ (i : Instr) (rest : List Instr) (s : State),
    step { s with pending := i :: rest } = exec i { s with pending := rest }) ∧
  (∀ s : State, s.pending = [] → step s = .next s.idle)

/-- The words of a Garno core and its instruction commands correspond one to one: no bit of a word is dropped, and an unassigned
opcode decodes to the illegal-opcode command and to no other (R117, R119). -/
def Obligations.encodeDecode : Prop :=
  (∀ (i : Instr) (c : Nat) (w : Word), encodeGarno i = some (c, w) → decodeGarno c w = i) ∧
  (∀ (c : Nat) (w : Word), encodeGarno (decodeGarno c w) = some (c, w))

/-- R127: division never raises an exception, and its edge cases. -/
def Obligations.divisionEdges : Prop :=
  ∀ (s : State) (c : Nat) (f : BitVec 56), Issues s c → rOk f = true → rFN f < 4 →
    let a := (s.seen c).sreg (fRA f)
    let b := (s.seen c).sreg (fRB f)
    (∃ w, exec (.divide c f) s = .next (s.retireS c (fRD f) w)) ∧
    (b = 0 → rFN f < 2 → exec (.divide c f) s = .next (s.retireS c (fRD f) (-1))) ∧
    (b = 0 → 2 ≤ rFN f → exec (.divide c f) s = .next (s.retireS c (fRD f) a)) ∧
    (a.toInt = -2 ^ 63 → b.toInt = -1 → rFN f = 0 → exec (.divide c f) s = .next (s.retireS c (fRD f) a)) ∧
    (a.toInt = -2 ^ 63 → b.toInt = -1 → rFN f = 2 → exec (.divide c f) s = .next (s.retireS c (fRD f) 0))

/-- ALU, MUL and DIV retire with the values of R126. -/
def Obligations.scalarRegisterResults : Prop :=
  ∀ (s : State) (c : Nat) (f : BitVec 56), Issues s c → rOk f = true →
    let a := (s.seen c).sreg (fRA f)
    let b := (s.seen c).sreg (fRB f)
    let gives := fun (w : Word) => Host.Outcome.next (φ := Fault) (ρ := Refusal) (s.retireS c (fRD f) w)
    (rFN f = 0 → exec (.alu c f) s = gives (a + b)) ∧
    (rFN f = 1 → exec (.alu c f) s = gives (a - b)) ∧
    (rFN f = 2 → exec (.alu c f) s = gives (a &&& b)) ∧
    (rFN f = 3 → exec (.alu c f) s = gives (a ||| b)) ∧
    (rFN f = 4 → exec (.alu c f) s = gives (a ^^^ b)) ∧
    (rFN f = 5 → exec (.alu c f) s = gives (a <<< (b.toNat % 64))) ∧
    (rFN f = 6 → exec (.alu c f) s = gives (a >>> (b.toNat % 64))) ∧
    (rFN f = 7 → exec (.alu c f) s = gives (a.sshiftRight (b.toNat % 64))) ∧
    (rFN f = 8 → exec (.alu c f) s = gives (if a.toInt < b.toInt then 1 else 0)) ∧
    (rFN f = 9 → exec (.alu c f) s = gives (if a.toNat < b.toNat then 1 else 0)) ∧
    (rFN f = 10 → exec (.alu c f) s = gives (if b.toInt < a.toInt then b else a)) ∧
    (rFN f = 11 → exec (.alu c f) s = gives (if a.toInt < b.toInt then b else a)) ∧
    (rFN f = 12 → exec (.alu c f) s = gives (if b.toNat < a.toNat then b else a)) ∧
    (rFN f = 13 → exec (.alu c f) s = gives (if a.toNat < b.toNat then b else a)) ∧
    (rFN f = 0 → exec (.mul c f) s = gives (a * b)) ∧
    (rFN f = 1 → exec (.mul c f) s = gives (BitVec.ofInt 64 (a.toInt * b.toInt / 2 ^ 64))) ∧
    (rFN f = 2 → exec (.mul c f) s = gives (BitVec.ofNat 64 (a.toNat * b.toNat / 2 ^ 64))) ∧
    (rFN f = 3 → exec (.mul c f) s = gives (BitVec.ofInt 64 (a.toInt * (b.toNat : Int) / 2 ^ 64))) ∧
    (b ≠ 0 → rFN f = 0 → exec (.divide c f) s = gives (BitVec.ofInt 64 (a.toInt.tdiv b.toInt))) ∧
    (b ≠ 0 → rFN f = 1 → exec (.divide c f) s = gives (a / b)) ∧
    (b ≠ 0 → rFN f = 2 → exec (.divide c f) s = gives (BitVec.ofInt 64 (a.toInt.tmod b.toInt))) ∧
    (b ≠ 0 → rFN f = 3 → exec (.divide c f) s = gives (a % b))

/-- The immediate instructions retire with the values of R126. -/
def Obligations.scalarImmediateResults : Prop :=
  ∀ (s : State) (c : Nat) (f : BitVec 56), Issues s c →
    let a := (s.seen c).sreg (fRA f)
    let m := (f.extractLsb' 0 43).signExtend 64
    let n := fld f 0 6
    let gives := fun (w : Word) => Host.Outcome.next (φ := Fault) (ρ := Refusal) (s.retireS c (fRD f) w)
    fPG f = 0 →
      exec (.addi c f) s = gives (a + m) ∧
      exec (.andi c f) s = gives (a &&& m) ∧
      exec (.ori c f) s = gives (a ||| m) ∧
      exec (.xori c f) s = gives (a ^^^ m) ∧
      exec (.slti c f) s = gives (if a.toInt < m.toInt then 1 else 0) ∧
      exec (.sltiu c f) s = gives (if a.toNat < m.toNat then 1 else 0) ∧
      (fld f 6 37 = 0 → exec (.shi c f) s = gives (a <<< n)) ∧
      (fld f 6 37 = 1 → exec (.shi c f) s = gives (a >>> n)) ∧
      (fld f 6 37 = 2 → exec (.shi c f) s = gives (a.sshiftRight n)) ∧
      exec (.li c f) s = gives ((f.extractLsb' 0 48).signExtend 64) ∧
      exec (.liu c f) s = gives ((f.extractLsb' 0 48).setWidth 64) ∧
      (fld f 16 32 = 0 →
        exec (.lih c f) s = gives (f.extractLsb' 0 16 ++ ((s.seen c).sreg (fRD f)).extractLsb' 0 48))

/-- R129: the predicate instruction; writes to p0 are discarded, and RB must be zero for PTOS and STOP. -/
def Obligations.predicateResults : Prop :=
  (∀ (s : State) (c : Nat) (f : BitVec 56), Issues s c → rOk f = true →
    let x := s.seen c
    let put := fun (w : Word) => Host.Outcome.next (φ := Fault) (ρ := Refusal) (s.retireP c (fRD f) w)
    (fRD f < 8 → fRA f < 8 → fRB f < 8 →
      (rFN f = 0 → exec (.pred c f) s = put (x.preg (fRA f) &&& x.preg (fRB f))) ∧
      (rFN f = 1 → exec (.pred c f) s = put (x.preg (fRA f) ||| x.preg (fRB f))) ∧
      (rFN f = 2 → exec (.pred c f) s = put (x.preg (fRA f) ^^^ x.preg (fRB f))) ∧
      (rFN f = 3 → exec (.pred c f) s = put (x.preg (fRA f) &&& ~~~(x.preg (fRB f))))) ∧
    (fRA f < 8 → fRB f = 0 → rFN f = 4 → exec (.pred c f) s = .next (s.retireS c (fRD f) (x.preg (fRA f)))) ∧
    (fRD f < 8 → fRB f = 0 → rFN f = 5 → exec (.pred c f) s = put (x.sreg (fRA f))) ∧
    (fRB f ≠ 0 → rFN f = 4 ∨ rFN f = 5 → exec (.pred c f) s = .next ((s.goOn c).precise c causeIllegal 0))) ∧
  (∀ (s : State) (c : Nat) (w : Word), s.retireP c 0 w = (s.goOn c |>.setCore c (s.seen c)).advance c)

/-- R138, R139: NOP, branches and jumps. -/
def Obligations.branchResults : Prop :=
  ∀ (s : State) (c : Nat) (f : BitVec 56), Issues s c →
    let x := s.seen c
    let u := s.goOn c
    let link := u.setCore c (x.setS (fRD f) (BitVec.ofNat 64 (x.pc + 8)))
    let a := x.sreg (fld f 48 5)
    let b := x.sreg (fld f 43 5)
    let cond := match fld f 53 3 with
      | 0 => a = b | 1 => a ≠ b | 2 => a.toInt < b.toInt | 3 => b.toInt ≤ a.toInt
      | 4 => a.toNat < b.toNat | 5 => b.toNat ≤ a.toNat
      | 6 => x.preg (fld f 48 5) ≠ 0 | _ => x.preg (fld f 48 5) = 0
    let tb := (x.pc : Int) + 8 * (f.extractLsb' 0 40).toInt
    let tj := (x.pc : Int) + 8 * (f.extractLsb' 0 48).toInt
    let tr := (x.sreg (fRA f) + (f.extractLsb' 0 43).signExtend 64).toNat
    (f = 0 → exec (.nop c f) s = .next (s.retire c)) ∧
    (fld f 40 3 = 0 → (6 ≤ fld f 53 3 → fld f 43 5 = 0 ∧ fld f 48 5 < 8) →
      (cond → 0 ≤ tb → tb < 2 ^ 48 → exec (.br c f) s = .next (u.setPc c tb.toNat)) ∧
      (cond → tb < 0 ∨ 2 ^ 48 ≤ tb → exec (.br c f) s = .next (u.precise c causeRange 0)) ∧
      (¬cond → exec (.br c f) s = .next (s.retire c))) ∧
    (fPG f = 0 →
      (0 ≤ tj → tj < 2 ^ 48 → exec (.jal c f) s = .next (link.setPc c tj.toNat)) ∧
      (tj < 0 ∨ 2 ^ 48 ≤ tj → exec (.jal c f) s = .next (u.precise c causeRange 0)) ∧
      (tr % 8 = 0 → tr < 2 ^ 48 → exec (.jalr c f) s = .next (link.setPc c tr)) ∧
      (tr % 8 ≠ 0 → exec (.jalr c f) s = .next (u.precise c causeAlign 0)) ∧
      (tr % 8 = 0 → 2 ^ 48 ≤ tr → exec (.jalr c f) s = .next (u.precise c causeRange 0)))

/-- R130, R132: VINT, VFP, VFMA and VFN write every active element and keep every other one. -/
def Obligations.vectorElementwise : Prop :=
  ∀ (s : State) (c : Nat) (f : BitVec 56), Issues s c →
    let x := s.seen c
    let va := x.vreg (fRA f)
    let vb := x.vreg (fRB f)
    let vc := x.vreg (fRC f)
    let writes := fun (i : Instr) (w : Nat) (g : Nat → Nat) => ∃ v : V512,
      exec i s = .next (s.retireV c (fRD f) v) ∧
      ∀ k, k < 512 / w → lane w v k = if laneActive (x.preg (fPG f)) w k then g k % 2 ^ w else lane w (x.vreg (fRD f)) k
    (∀ t : EType, etypeOf (vET f) = some t → t.isVInt = true → zeros f [vfVC, vfET2, vfRND, vfPART, vfIMM, vfZ] = true →
      (vFN f < 2 ∨ (vFN f < 12 ∧ vSAT f = 0)) →
      let w := t.width
      let fit := fun i : Int => toTwos w (if vSAT f = 1 then max t.range.1 (min t.range.2 i) else i)
      let a := fun k => lane w va k
      let b := fun k => lane w vb k
      (vFN f = 0 → writes (.vint c f) w fun k => fit (t.int (a k) + t.int (b k))) ∧
      (vFN f = 1 → writes (.vint c f) w fun k => fit (t.int (a k) - t.int (b k))) ∧
      (vFN f = 2 → writes (.vint c f) w fun k => toTwos w (t.int (a k) * t.int (b k))) ∧
      (vFN f = 3 → writes (.vint c f) w fun k => a k &&& b k) ∧
      (vFN f = 4 → writes (.vint c f) w fun k => a k ||| b k) ∧
      (vFN f = 5 → writes (.vint c f) w fun k => a k ^^^ b k) ∧
      (vFN f = 6 → writes (.vint c f) w fun k => a k &&& (2 ^ w - 1 - b k)) ∧
      (vFN f = 7 → writes (.vint c f) w fun k => a k * 2 ^ (b k % w)) ∧
      (vFN f = 8 → writes (.vint c f) w fun k => a k / 2 ^ (b k % w)) ∧
      (vFN f = 9 → writes (.vint c f) w fun k => toTwos w (t.int (a k) / 2 ^ (b k % w))) ∧
      (vFN f = 10 → writes (.vint c f) w fun k => if t.int (b k) < t.int (a k) then b k else a k) ∧
      (vFN f = 11 → writes (.vint c f) w fun k => if t.int (a k) < t.int (b k) then b k else a k)) ∧
    (vET f = 8 → zeros f [vfVC, vfET2, vfRND, vfPART, vfSAT, vfIMM, vfZ] = true → vFN f < 5 ∨ (vFN f < 7 ∧ fRB f = 0) →
      writes (.vfp c f) 32 fun k => vfpOp (vFN f) (lane 32 va k) (lane 32 vb k)) ∧
    (vET f = 8 → zeros f [vfET2, vfRND, vfPART, vfSAT, vfIMM, vfZ] = true → vFN f < 3 →
      writes (.vfma c f) 32 fun k => vfmaOp (vFN f) (lane 32 va k) (lane 32 vb k) (lane 32 vc k)) ∧
    (vET f = 8 → zeros f [vfVB, vfVC, vfET2, vfRND, vfPART, vfSAT, vfIMM, vfZ] = true → vFN f < 3 →
      writes (.vfn c f) 32 fun k => vfnOp (vFN f) (lane 32 va k))

/-- R130, R132: the predicate that VCMP writes; the bits of elements that are not selected become 0. -/
def Obligations.vectorCompare : Prop :=
  ∀ (s : State) (c : Nat) (f : BitVec 56) (t : EType), Issues s c →
    etypeOf (vET f) = some t → (t.isVInt = true ∨ t = .fp32) →
    zeros f [vfVC, vfET2, vfRND, vfPART, vfSAT, vfIMM, vfZ] = true → vFN f < 6 → fRD f < 8 →
    let x := s.seen c
    ∃ m : Word, exec (.vcmp c f) s = .next (s.retireP c (fRD f) m) ∧
      ∀ k, k < 64 → (bit m k = true ↔
        laneActive (x.preg (fPG f)) t.width (k / (t.width / 8)) = true ∧
        cmpElem t (vFN f) (lane t.width (x.vreg (fRA f)) (k / (t.width / 8))) (lane t.width (x.vreg (fRB f)) (k / (t.width / 8))) = true)

/-- R132, R134, R137: reduction, permutation, broadcast and move. -/
def Obligations.vectorMoves : Prop :=
  ∀ (s : State) (c : Nat) (f : BitVec 56), Issues s c →
    let x := s.seen c
    let va := x.vreg (fRA f)
    let vb := x.vreg (fRB f)
    (∀ t : EType, etypeOf (vET f) = some t → (t.isVInt = true ∨ t = .fp32) → vFN f < 3 →
      zeros f [vfVB, vfVC, vfET2, vfRND, vfPART, vfSAT, vfIMM, vfZ] = true →
      exec (.vred c f) s = .next (s.retireV c (fRD f)
        (BitVec.ofNat 512 (pairTree (vredOp t (vFN f)) (512 / t.width).log2 (vredTerms t (vFN f) (x.preg (fPG f)) va))))) ∧
    (zeros f [vfVC, vfET2, vfRND, vfPART, vfSAT, vfZ] = true →
      (vFN f = 0 → vET f = 0 → vIMM f = 0 → exec (.vperm c f) s = .next (s.retireV c (fRD f)
        (blend 8 (x.preg (fPG f)) (x.vreg (fRD f))
          (packLanes 8 ((lanes 8 vb).map fun k => if 128 ≤ k then 0 else lane 8 va (k % 64)))))) ∧
      (vFN f = 5 → vET f = 0 → fRB f = 0 → exec (.vperm c f) s = .next (s.retireV c (fRD f)
        (blend 8 (x.preg (fPG f)) (x.vreg (fRD f))
          (packLanes 8 ((List.range 64).map fun k => lane 8 va ((k + vIMM f) % 64)))))) ∧
      (∀ t : EType, etypeOf (vET f) = some t → 1 ≤ vFN f → vFN f ≤ 4 → vIMM f = 0 →
        exec (.vperm c f) s = .next (s.retireV c (fRD f)
          (blend t.width (x.preg (fPG f)) (x.vreg (fRD f)) (vpermOp (vFN f) t.width 0 va vb))))) ∧
    (∀ t : EType, etypeOf (vET f) = some t → vIMM f < 512 / t.width →
      (zeros f [vfPG, vfVB, vfVC, vfET2, vfRND, vfPART, vfSAT, vfZ] = true →
        (vFN f = 0 → vIMM f = 0 → exec (.vbcast c f) s = .next (s.retireV c (fRD f)
          (packLanes t.width (List.replicate (512 / t.width) ((x.sreg (fRA f)).toNat % 2 ^ t.width))))) ∧
        (vFN f = 1 → exec (.vbcast c f) s = .next (s.retireV c (fRD f)
          (packLanes t.width (List.replicate (512 / t.width) (lane t.width va (vIMM f))))))) ∧
      (zeros f [vfPG, vfVB, vfVC, vfET2, vfRND, vfPART, vfSAT, vfFN, vfZ] = true →
        exec (.vmovs c f) s = .next (s.retireS c (fRD f)
          (if t.isFloat = true ∨ t = .uint8 then BitVec.ofNat 64 (lane t.width va (vIMM f))
           else BitVec.ofInt 64 (t.int (lane t.width va (vIMM f)))))))

/-- R133, R135, R136: conversion, quantisation and plane split. -/
def Obligations.vectorConversions : Prop :=
  ∀ (s : State) (c : Nat) (f : BitVec 56), Issues s c →
    let u := s.goOn c
    let x := s.seen c
    let va := x.vreg (fRA f)
    let ends := fun (y : Core) (n : Nat) =>
      Host.Outcome.next (φ := Fault) (ρ := Refusal) ((u.setCore c { y with stat := { y.stat with nanSrc := n } }).advance c)
    (∀ t v : EType, etypeOf (vET f) = some t → etypeOf (vET2 f) = some v →
      zeros f [vfVB, vfVC, vfIMM, vfFN, vfZ] = true → vRND f < 2 → (vSAT f = 0 ∨ v = .e5m2) → vPART f < vcvtParts t.width v.width →
      let p := vcvtPlace t.width v.width (vPART f)
      let out := (List.range p.2.1).map fun k => v.conv (vRND f = 1) (vSAT f = 1) (t.val (lane t.width va (p.1 + k)))
      let old := lanes v.width (x.vreg (fRD f))
      ∃ n, exec (.vcvt c f) s = ends (x.setV (fRD f) (blend v.width (x.preg (fPG f)) (x.vreg (fRD f))
        (packLanes v.width (old.take p.2.2 ++ out ++ old.drop (p.2.2 + p.2.1))))) n) ∧
    (∀ t : EType, etypeOf (vET2 f) = some t → (t = .e4m3 ∨ t = .e5m2 ∨ t = .e2m1) → vET f = 8 →
      zeros f [vfRND, vfZ] = true → (t = .e2m1 ∨ fRB f = 0) → (vSAT f = 0 ∨ t = .e5m2) → vPART f < 4 →
      let grp := (lanes 32 va ++ if t = .e2m1 then lanes 32 (x.vreg (fRB f)) else []).map f32
      let q := quantGroup t (vSAT f = 1) grp
      let b := lane 8 (x.vreg (fRC f)) (vIMM f)
      let y := x.setV (fRD f) (putBytes (x.vreg (fRD f)) (16 * vPART f) (elemBytes t.width q.2) (x.preg (fPG f)))
      (vFN f = 0 → ∃ n, exec (.vquant c f) s =
        ends (y.setV (fRC f) (putBytes (y.vreg (fRC f)) (vIMM f) [BitVec.ofNat 8 q.1] (BitVec.allOnes 64))) n) ∧
      (vFN f = 1 → ∃ n, exec (.vquant c f) s =
        ends (x.setV (fRD f) (putBytes (x.vreg (fRD f)) (16 * vPART f) (elemBytes t.width (quantGiven t (vSAT f = 1) b grp)) (x.preg (fPG f)))) n)) ∧
    (zeros f [vfVC, vfET2, vfRND, vfSAT, vfIMM, vfZ] = true →
      (∀ t : EType, etypeOf (vET f) = some t → (t = .bf16 ∨ t = .fp32) → vPART f = 0 → vFN f = 0 →
        let act := (List.range (512 / t.width)).filterMap fun k =>
          if laneActive (x.preg (fPG f)) t.width k then some (t.val (lane t.width va k)) else none
        let e0 := lane 32 (x.vreg (fRB f)) 0
        exec (.vplane c f) s = .next (s.retireV c (fRD f) (BitVec.ofNat 512
          (if act.any (fun v => !v.isFinite) || decide (e0 = 0x7FFFFFFF) then 0x7FFFFFFF
           else match maxExp act with
             | none => e0
             | some e => toTwos 32 (max (sext 32 e0) e))))) ∧
      (vET f = 6 → fPG f = 0 → vPART f < 2 →
        let grp := (List.range 16).map fun k => EType.bf16.val (lane 16 va (16 * vPART f + k))
        let e0 := lane 32 (x.vreg (fRB f)) 0
        let given := if e0 = 0x7FFFFFFF ∨ grp.any (fun v => !v.isFinite) then none else some (sext 32 e0)
        (vFN f = 1 → fRB f = 0 → exec (.vplane c f) s = .next (s.retireV c (fRD f) (vofBytes (splitBytes grp (groupExp grp))))) ∧
        (vFN f = 2 →
          exec (.vplane c f) s = .next ((s.planeBytes grp given).1.retireV c (fRD f) (vofBytes (s.planeBytes grp given).2)) ∧
          ((planeKnown grp given).all id = true →
            exec (.vplane c f) s = .next (s.retireV c (fRD f) (vofBytes (splitBytes grp given)))))))

/-- R73, R75, R143: a precise exception, in user mode and in firmware mode. -/
def Obligations.exceptionEntry : Prop :=
  ∀ (s : State) (c cause addr : Nat),
    let x := s.core c
    let y := (s.precise c cause addr).core c
    (x.fw = false →
      y.fw = true ∧ y.run = 5 ∧ y.pc = x.sys.fwVector.toNat % 2 ^ 48 / 8 * 8 ∧
      y.exc.cause = cause ∧ y.exc.addr = addr ∧ y.exc.pc = x.pc ∧ y.exc.imprecise = false ∧ y.exc.second = 0 ∧
      y.sys.entry = 0 ∧ y.sys.userPc = x.pc ∧ y.sys.clean = false ∧
      y.s = x.s ∧ y.v = x.v ∧ y.p = x.p ∧ y.a = x.a ∧ y.q = x.q ∧ y.m = x.m) ∧
    (x.fw = true → y.fw = true ∧ y.run = 5 ∧ y.pc = x.pc ∧ y.exc.cause = causeDouble ∧ y.s = x.s ∧ y.v = x.v ∧ y.p = x.p ∧ y.a = x.a) ∧
    (∀ k, k ≠ c → (s.precise c cause addr).core k = s.core k) ∧
    (∃ r : Report, (s.precise c cause addr).reports = s.reports ++ [r] ∧ r.job = x.job ∧
      r.cause = if x.fw then causeDouble else cause)

/-- R117, R118: ILLEGAL_OP. R58, R142: the privileged instructions in user mode. -/
def Obligations.illegalAndPrivileged : Prop :=
  (∀ (s : State) (c : Nat), Issues s c →
      (∀ w : Word, exec (.illegalOpcode c w) s = .next ((s.goOn c).precise c causeIllegal 0)) ∧
      (∀ f : BitVec 56, rOk f = false ∨ 14 ≤ rFN f → exec (.alu c f) s = .next ((s.goOn c).precise c causeIllegal 0)) ∧
      (∀ f : BitVec 56, rOk f = false ∨ 4 ≤ rFN f →
        exec (.mul c f) s = .next ((s.goOn c).precise c causeIllegal 0) ∧
        exec (.divide c f) s = .next ((s.goOn c).precise c causeIllegal 0)) ∧
      (∀ f : BitVec 56, rOk f = false ∨ 6 ≤ rFN f → exec (.pred c f) s = .next ((s.goOn c).precise c causeIllegal 0)) ∧
      (∀ f : BitVec 56, f ≠ 0 → exec (.nop c f) s = .next ((s.goOn c).precise c causeIllegal 0))) ∧
  (∀ (s : State) (c : Nat) (f : BitVec 56), Issues s c → (s.seen c).fw = false →
      let t := Host.Outcome.next (φ := Fault) (ρ := Refusal) ((s.goOn c).precise c causePriv 0)
      (cOk f true false = true → ((s.seen c).sysReg (cImm f)).isSome = true → exec (.sysr c f) s = t) ∧
      (cOk f false true = true → cImm f = 8 → exec (.sysw c f) s = t) ∧
      (cOk f false false = true → cImm f < 128 → exec (.sclr c f) s = t) ∧
      (cOk f false true = true → cImm f = 0 → exec (.ctxset c f) s = t ∧ exec (.uenter c f) s = t))

/-- R140: what RDCTR reads. -/
def Obligations.rdctrReads : Prop :=
  ∀ (s : State) (c : Nat) (f : BitVec 56), Issues s c → cOk f true false = true →
    let d := (s.goOn c).die (c / 256)
    let reads := fun (n : Nat) => Host.Outcome.next (φ := Fault) (ρ := Refusal) (s.retireS c (fRD f) (BitVec.ofNat 64 n))
    (cImm f = 0 → (s.seen c).fw = true → exec (.rdctr c f) s = reads d.count) ∧
    (cImm f = 0 → (s.seen c).fw = false → exec (.rdctr c f) s = reads (d.count / 10800 * 10800 / 4096 * 4096)) ∧
    (cImm f = 1 → exec (.rdctr c f) s = reads d.lockSeq) ∧
    (2 ≤ cImm f → exec (.rdctr c f) s = .next ((s.goOn c).precise c causeIllegal 0))

/-- R141, R142, R144, R145: the system instructions. -/
def Obligations.systemInstructionResults : Prop :=
  ∀ (s : State) (c : Nat) (f : BitVec 56), Issues s c →
    let u := s.goOn c
    let x := s.seen c
    (x.fw = true →
      (cOk f true false = true → ∀ w, x.sysReg (cImm f) = some w → exec (.sysr c f) s = .next (s.retireS c (fRD f) w)) ∧
      (cOk f true false = true → x.sysReg (cImm f) = none → exec (.sysr c f) s = .next (u.precise c causeIllegal 0)) ∧
      (cOk f false true = true → cImm f = 8 →
        exec (.sysw c f) s = .next ((u.setCore c { x with sys := { x.sys with fwVector := x.sreg (fRA f) &&& ~~~7 } }).advance c)) ∧
      (cOk f false false = true → cImm f < 128 →
        let v := if (cImm f).testBit 0 then u.abortOps c else u
        ((cImm f).testBit 1 = false → exec (.sclr c f) s = .next ((v.clearActions c (cImm f)).advance c)) ∧
        ((cImm f).testBit 1 = true → (v.drained c).2 = true →
          exec (.sclr c f) s = .next (((v.drained c).1.clearActions c (cImm f)).advance c))) ∧
      (cOk f false true = true → cImm f = 0 →
        ((x.sreg (fRA f)).toNat < 256 → x.quiet = true →
          exec (.ctxset c f) s = .next ((u.setCore c { x with ctx := (x.sreg (fRA f)).toNat }).advance c)) ∧
        (256 ≤ (x.sreg (fRA f)).toNat → exec (.ctxset c f) s = .next (u.precise c causeIllegal 0)) ∧
        (x.sys.clean = true → x.sys.cold = true →
          let v := u.clearRegs c
          let y := v.core c
          let pc := x.sys.uenter.getD ((x.sreg (fRA f)).toNat % 2 ^ 48 / 8 * 8)
          (y.quiet = true → exec (.uenter c f) s = .next ((v.setCore c
            { y with run := 3, fw := false, exc := default, tickets := [], impr := [], issue := 0, sys := { y.sys with uenter := none } }).setPc c pc)) ∧
          (y.quiet = false → exec (.uenter c f) s = .next (v.setCore c { y with sys := { y.sys with uenter := some pc } }))) ∧
        (x.sys.clean = false ∨ x.sys.cold = false → exec (.uenter c f) s = .next (u.precise c causeIllegal 0)))) ∧
    (cOk f false false = true → cImm f = 0 → x.fw = false → (u.fence c 63).2 = true →
      exec (.endRole c f) s = .next ((u.fence c 63).1.endRole c))

/-- R65, R66: fences. -/
def Obligations.fenceCompletes : Prop :=
  ∀ (s : State) (c : Nat) (f : BitVec 56), Issues s c → cOk f false false = true → cImm f < 64 →
    let u := s.goOn c
    let x := s.seen c
    ((u.fence c (cImm f)).2 = true → exec (.fence c f) s = .next ((u.fence c (cImm f)).1.advance c)) ∧
    ((u.fence c (cImm f)).2 = false → exec (.fence c f) s = .next (u.fence c (cImm f)).1) ∧
    ((cImm f).testBit 0 = false →
      ((cImm f).testBit 1 = true → x.arrDone = true) → ((cImm f).testBit 2 = true → x.ticketMask = 0) →
      ((cImm f).testBit 3 = true → x.sActive = 0) → ((cImm f).testBit 4 = true → x.msgDone = true) →
      (cImm f % 16 ≠ 0 → x.impr = []) →
      exec (.fence c f) s = .next ((if (cImm f).testBit 5 then u.setCore c x.dropICache else u).advance c)) ∧
    (cImm f = 0 → exec (.fence c f) s = .next (s.retire c))

/-- R74, R143: the events that reach a core. -/
def Obligations.coreEvents : Prop :=
  ∀ (s : State) (c : Nat), c < 1280 →
    (∀ (f : Impr) (t : List Impr), (s.core c).impr = f :: t → s.backed c = true → s.dieRuns (c / 256) = true →
      (s.core c).wait = none → (s.core c).fw = false →
      exec (.impreciseException c) s = .next ((s.setCore c { s.core c with impr := t }).takeExc c f true)) ∧
    ((s.core c).impr = [] → exec (.impreciseException c) s = .next s) ∧
    (s.canIssue c = true → (s.core c).fw = false →
      exec (.managementRequest c) s = .next (s.setCore c ((s.core c).enterFw 2 6 (s.core c).pc))) ∧
    (s.canIssue c = false ∨ (s.core c).fw = true → exec (.managementRequest c) s = .next s)

/-- R121, R123, R130: the data paths of a load; the register takes the little-endian bytes, extended as SX says, or the 64 bytes
under the governing predicate. -/
def Obligations.loadsComplete : Prop :=
  ∀ (s : State) (c : Nat) (f : BitVec 56), Issues s c →
    let u := s.goOn c
    let x := s.seen c
    let path := fun (i : Instr) (a : MemAcc) (w : LdWait) =>
      u.accCause x a = none →
        (a.lines = [] → exec i s = .next (s.retire c)) ∧
        (a.lines ≠ [] →
          (∀ ev, u.accHeld c x a = some ev → exec i s = .next (s.noteRun c (if ev then 4 else 3))) ∧
          (u.accHeld c x a = none → u.hostFull a = true → exec i s = .next (s.noteRun c 3)) ∧
          (u.accHeld c x a = none → u.hostFull a = false →
            (∀ o, u.toControl c a = some o →
              ((a.len = 4 ∨ a.len = 8) →
                exec i s = .next ((u.loadReg o a.len true).1.loaded c { w with buf := leBytes a.len (u.loadReg o a.len true).2.toNat })) ∧
              (¬ (a.len = 4 ∨ a.len = 8) →
                exec i s = .next (((u.accessFault 0 0 o).freeBytes a.len).2.loaded c
                  { w with buf := ((u.accessFault 0 0 o).freeBytes a.len).1 }))) ∧
            (u.toControl c a = none →
              let refusal := firstCause (a.lines.filterMap (u.loadCause c x a))
              let r := a.lines.foldl (State.loadPart c x a) (u, w, none)
              (∀ cause, refusal = some cause → exec i s = .next (u.precise c cause (a.da c))) ∧
              (refusal = none →
                (r.2.2 = none → r.2.1.left = 0 → exec i s = .next (r.1.loaded c r.2.1)) ∧
                (r.2.2 = none → r.2.1.left ≠ 0 → exec i s = .next (r.1.waits c r.2.1)) ∧
                (∀ cause, r.2.2 = some cause → exec i s = .next ((r.1.dropReads c).precise c cause (a.da c))) ∧
                (∀ p, a.lines = [p] →
                  (∀ k off, u.partPlace c a p = some (.scratch k off) →
                    let t := (activeParts off p.2 (a.enAt p.1) 8).foldl (fun s e => s.scratchFix k e.1 e.2) u
                    let bad := (activeParts off p.2 (a.enAt p.1) 8).any fun e => u.scratchUe k e.1 e.2
                    (bad = false → exec i s = .next (t.loaded c { w with buf := patch w.buf (p.1 - a.ea) (u.scratchRead k off p.2) })) ∧
                    (bad = true → exec i s = .next ((t.dropReads c).precise c causeScratch (a.da c)))) ∧
                  (∀ k off q, u.partPlace c a p = some (.slice k off) → a.path = 0 → u.phys k = some q → u.bankFree q (bankOf off) = true →
                    let b := byCore x c k 0
                    (∀ t d, (u.turn q b off p.2 true).readLine q off p.2 (a.enAt p.1) b = (t, .ok d) →
                      exec i s = .next (t.loaded c { w with buf := patch w.buf (p.1 - a.ea) d })) ∧
                    (∀ t cause k, (u.turn q b off p.2 true).readLine q off p.2 (a.enAt p.1) b = (t, .error (cause, k)) →
                      exec i s = .next ((t.dropReads c).precise c cause (a.da c)))) ∧
                  (∀ k off, u.partPlace c a p = some (.slice k off) → a.path = 1 →
                    exec i s = .next ((u.queueCached c (a.creq c x .load [] p)).waits c { w with left := 1 })) ∧
                  (∀ m o, u.partPlace c a p = some (.remote m o) →
                    exec i s = .next (((a.runsOf p).foldl (fun s r => (s.remoteReq (.core c) false r.1 r.2 []).1) u).waits c
                      { w with left := (a.runsOf p).length })) ∧
                  (∀ h, u.partPlace c a p = some (.host h) →
                    exec i s = .next (((a.runsOf p).foldl (State.hostPart a) (u, w)).1.waits c
                      ((a.runsOf p).foldl (State.hostPart a) (u, w)).2)))))))
    (zeros f [(53, 3), (32, 6)] = true →
      path (.ld c f) (accS f x) ⟨[], fRD f, false, 2 ^ mSIZE f, mSX f, 0, 64, mEA f x, none, List.replicate (2 ^ mSIZE f) 0, 0⟩) ∧
    (zeros f [(32, 7)] = true →
      path (.vld c f) (accV f x) ⟨[], fRD f, true, 64, false, x.preg (fPG f), 8 * 2 ^ mSIZE f, mEA f x, none, List.replicate 64 0, 0⟩)

/-- R121, R125: the data paths of a store. -/
def Obligations.storesComplete : Prop :=
  ∀ (s : State) (c : Nat) (f : BitVec 56), Issues s c →
    let u := s.goOn c
    let x := s.seen c
    let path := fun (i : Instr) (a : MemAcc) (data : Bytes) =>
      u.accCause x a = none →
        (a.lines = [] → exec i s = .next (s.retire c)) ∧
        (a.lines ≠ [] →
          (∀ ev, u.accHeld c x a = some ev → exec i s = .next (s.noteRun c (if ev then 4 else 3))) ∧
          (u.accHeld c x a = none →
            (∀ o, u.toControl c a = some o →
              ((a.len = 4 ∨ a.len = 8) → exec i s = .next ((u.storeReg o a.len (ofLe data) true).advance c)) ∧
              (¬ (a.len = 4 ∨ a.len = 8) → exec i s = .next ((u.accessFault 0 0 o).advance c))) ∧
            (u.toControl c a = none →
              let own := firstCause (a.lines.filterMap (u.ownCause c x a data))
              let home := firstCause (a.lines.filterMap (u.homeCause c x a))
              (∀ cause, own = some cause → exec i s = .next (u.precise c cause (a.da c))) ∧
              (∀ cause, own = none → home = some cause → exec i s = .next ((u.imprecise c ⟨cause, a.ea, 0, 0⟩).advance c)) ∧
              (own = none → home = none →
                exec i s = .next ((a.lines.foldl (State.storePart c x a data) u).advance c) ∧
                (∀ p, a.lines = [p] →
                  (∀ k off, u.partPlace c a p = some (.scratch k off) →
                    exec i s = .next ((u.scratchWrite k off (a.bytesAt data p) (a.enAt p.1)).advance c)) ∧
                  (∀ k off, u.partPlace c a p = some (.slice k off) → a.path = 1 →
                    exec i s = .next (((u.queueCached c (a.creq c x .store data p)).addOutst c 1).advance c)) ∧
                  (∀ k off q, u.partPlace c a p = some (.slice k off) → a.path ≠ 1 → u.phys k = some q →
                    let r := u.writeStore q off (a.bytesAt data p) (a.enAt p.1) (decide (k = c)) c (byCore x c k 2)
                    exec i s = .next ((if r.2 then r.1.addOutst c 1 else r.1).advance c)) ∧
                  (∀ m o, u.partPlace c a p = some (.remote m o) →
                    exec i s = .next ((((a.runsOf p).foldl (fun s r => (s.remoteReq (.core c) true r.1 r.2 (a.bytesAt data r)).1) u).addOutst c
                      (a.runsOf p).length).advance c)) ∧
                  (∀ h, u.partPlace c a p = some (.host h) →
                    let t := (a.runsOf p).foldl (fun s r => s.hostWrite (r.1 % 2 ^ 40) (a.bytesAt data r)) u
                    exec i s = .next ((t.setCore c { t.core c with
                      hostDirty := (a.runsOf p).getLast?.map fun r => (r.1 + r.2 - 1) % 2 ^ 40 }).advance c)))))))
    (zeros f [(53, 3), (32, 7)] = true → path (.st c f) (accS f x) (leBytes (2 ^ mSIZE f) (x.sreg (fRD f)).toNat)) ∧
    (zeros f [(32, 7)] = true → path (.vst c f) (accV f x) (vbytes (x.vreg (fRD f))))

/-- R128, R257: the issue of an atomic operation. That the own slice refuses a reduction at once is the model's reading (log entry 81). -/
def Obligations.atomicsIssue : Prop :=
  ∀ (s : State) (c : Nat) (f : BitVec 56), Issues s c →
    let u := s.goOn c
    let x := s.seen c
    let a := accAmo f x
    let r : CReq := ⟨c, .amo, a.ea, a.len, 2 ^ a.len - 1, leBytes 8 (x.sreg (fRB f)).toNat ++ leBytes 8 (x.sreg (fRC f)).toNat,
      fld f 29 4, x.ctx, a.ea, none, none, decide (fRD f = 0)⟩
    zeros f [(53, 3), (0, 29)] = true → fld f 29 4 < 7 → (fld f 29 4 = 4 ∨ fRC f = 0) → u.accCause x a = none →
      (a.space ≠ 0 → exec (.amo c f) s = .next (u.precise c causeAtomic a.ea)) ∧
      (∀ ev, a.space = 0 → u.accHeld c x a = some ev → exec (.amo c f) s = .next (s.noteRun c (if ev then 4 else 3))) ∧
      (a.space = 0 → u.accHeld c x a = none →
        (fRD f ≠ 0 → exec (.amo c f) s = .next ((u.queueCached c r).waits c
          ⟨[], fRD f, false, a.len, false, 0, 64, a.ea, some (fld f 29 4), List.replicate a.len 0, 1⟩)) ∧
        (fRD f = 0 → (a.ea / 2 ^ 28 = c → u.partRefusal r a.ea a.len = none) →
          exec (.amo c f) s = .next (((u.queueCached c r).addOutst c 1).advance c)) ∧
        (∀ cause, fRD f = 0 → a.ea / 2 ^ 28 = c → u.partRefusal r a.ea a.len = some cause →
          exec (.amo c f) s = .next (u.precise c cause a.ea)))

/-- R154: QSTART. A byte of run `r` is outside where the run starts below slice offset 0 or ends above 2^28, in 16-byte units. -/
def Obligations.streamStartChecks : Prop :=
  ∀ (s : State) (c : Nat) (f : BitVec 56), Issues s c → qOk f = true → qR1 f = 0 → qW f = 0 →
    let u := s.goOn c
    let x := s.seen c
    let d := x.desc (qN f)
    let starts := fun (st : Nat) => Host.Outcome.next (φ := Fault) (ρ := Refusal)
      ((u.setCore c ((x.dropQ (qN f)).setDesc (qN f) { d with state := st, pos := 0, got := 0, low := 0, more := [], puts := [], stalled := false })).advance c)
    let bad := 2 ≤ d.dir ∨ d.cls = 3 ∨ (d.dir = 1 ∧ d.cls ≠ 2)
    let outside := ∃ r : Nat, r < d.count ∧
      ((d.base : Int) + r * d.stride < 0 ∨ (2 : Int) ^ 24 < (d.base : Int) + r * d.stride + d.runLen)
    d.state ≠ 1 →
      (bad → exec (.qstart c f) s = .next (u.precise c causeIllegal 0)) ∧
      (¬bad → d.runLen = 0 ∨ d.count = 0 → exec (.qstart c f) s = starts 2) ∧
      (¬bad → d.runLen ≠ 0 → outside → exec (.qstart c f) s = .next (u.precise c causeLen 0)) ∧
      (¬bad → d.runLen ≠ 0 → d.count ≠ 0 → ¬outside → exec (.qstart c f) s = starts 1)

/-- R153 to R159: the stream instructions. -/
def Obligations.streamInstructionResults : Prop :=
  ∀ (s : State) (c : Nat) (f : BitVec 56), Issues s c → qOk f = true →
    let u := s.goOn c
    let x := s.seen c
    let q := qN f
    let d := x.desc q
    (d.state ≠ 1 →
      (qW f = 0 → exec (.qset c f) s = .next ((u.setCore c ((x.dropQ q).setDesc q
        { d with w0 := x.sreg (qR1 f) &&& 0xFFF000000FFFFFF0 })).advance c)) ∧
      (qW f = 1 → exec (.qset c f) s = .next ((u.setCore c ((x.dropQ q).setDesc q { d with w1 := x.sreg (qR1 f) })).advance c))) ∧
    (2 ≤ qW f → exec (.qset c f) s = .next (u.precise c causeIllegal 0)) ∧
    (qW f = 0 → exec (.qget c f) s = .next (s.retireS c (qR1 f) d.w0)) ∧
    (qW f = 1 → exec (.qget c f) s = .next (s.retireS c (qR1 f) d.w1)) ∧
    (qW f = 2 → exec (.qget c f) s = .next (s.retireS c (qR1 f) (x.qw2 q))) ∧
    (qW f = 0 →
      (∀ p t data, d.state = 1 → d.dir = 0 → d.pos + 4 ≤ d.bound → u.phys c = some p → x.ticketUnits d d.pos 4 = false →
        x.badStreams.contains q = false → u.unitsWait c p q d.pos 4 = false → u.readUnits c p q d.pos 4 = (t, .ok data) →
        exec (.qtake c f) s = .next ((t.setCore c
          ((((t.core c).setDesc q { d with pos := d.pos + 4 }).delivered q d.pos 4).setV (qR1 f) (vofBytes data))).advance c)) ∧
      ((d.state = 1 ∧ d.dir = 0 ∧ d.bound < d.pos + 4) ∨ (d.state = 2 ∧ d.dir = 0) →
        exec (.qtake c f) s = .next (u.precise c causeLen 0)) ∧
      (d.state ≠ 1 → d.state ≠ 2 → exec (.qtake c f) s = .next (u.precise c causeIllegal 0)) ∧
      (d.state = 1 → d.dir = 1 → d.pos + 4 ≤ d.bound → x.ticketUnits d d.pos 4 = false →
        exec (.qput c f) s = .next ((u.setCore c (x.setDesc q
          { d with pos := d.pos + 4, puts := d.puts ++ [vbytes (x.vreg (qR1 f))] })).advance c)) ∧
      ((d.state = 1 ∧ d.dir = 1 ∧ d.bound < d.pos + 4) ∨ (d.state = 2 ∧ d.dir = 1) →
        exec (.qput c f) s = .next (u.precise c causeLen 0)) ∧
      (qR1 f = 0 → x.reserved q = false →
        exec (.qcancel c f) s = .next ((u.setCore c ((x.dropQ q).setDesc q { x.desc q with state := 3, puts := [] })).advance c)))

/-- R67 to R72, R157: what the stream engine does on its own. One exception for each refused piece of a put is the choice of log entry 76. -/
def Obligations.streamEvents : Prop :=
  ∀ (s : State) (c p : Nat), c < 1280 → s.phys c = some p → s.dieRuns (c / 256) = true →
    let x := s.core c
    (∀ q v, q < 16 → (x.desc q).state = 1 → (x.desc q).dir = 0 → x.sbuf.length < 512 →
      nextPrefetch x q (x.desc q) (x.desc q).depth (x.desc q).low = some v →
      x.ticketHolds ((x.desc q).unitOff v) (16 * (x.desc q).inLine v) = false →
      s.refused (.ctx x.ctx) c p ((x.desc q).unitOff v) false = false →
      let off := (x.desc q).unitOff v
      let n := (x.desc q).inLine v
      let cls := if x.consumerWaits q v n then 0 else (x.desc q).cls
      exec (.streamPrefetch c q) s = .next ((s.setHal p { s.hal p with reqs := (s.hal p).reqs ++
          [⟨.ownCore, c, false, cls, off, false, [], 2 ^ (16 * n) - 1, 16 * n, false, false, true⟩] }).setCore c
        { x with
          sbuf := x.sbuf ++ [⟨q, v, off, 16 * n, cls, [], false, false, false⟩]
          stat := { x.stat with prefetches := x.stat.prefetches + 1 } })) ∧
    (∀ off n cls ups, cls < 3 → (s.hal p).reqs = [⟨.ownCore, c, false, cls, off, false, [], 2 ^ (16 * n) - 1, 16 * n, false, false, true⟩] →
      s.bankFree p (bankOf off) = true →
      s.lateRefusal p ⟨.ownCore, c, false, cls, off, false, [], 2 ^ (16 * n) - 1, 16 * n, false, false, true⟩ = false →
      let u := s.upsets p (off / 128) ups
      let b : By := ⟨.ownCore, cls, x.job, some x.ctx, c / 64, true⟩
      let r := (u.setHal p { u.hal p with reqs := [] }).readLine p off (16 * n) (2 ^ (16 * n) - 1).testBit b
      (∀ d, r.2 = .ok d → exec (.streamLineArrive c (off / 128) ups) s = .next (r.1.lineArrives c off (16 * n) (some d))) ∧
      (∀ e, r.2 = .error e → exec (.streamLineArrive c (off / 128) ups) s = .next (r.1.lineArrives c off (16 * n) none))) ∧
    (∀ q data rest, q < 16 → (x.desc q).puts = data :: rest → x.ticketUnits (x.desc q) (x.desc q).got 4 = false →
      let write := fun (a : State × Bytes) (e : Nat × Nat × Option Bytes) =>
        (if a.1.refused (.ctx x.ctx) c p e.1 true then a.1.imprecise c ⟨causeRegion, c * 2 ^ 28 + e.1, 0, 0⟩
          else a.1.writeNow p e.1 (a.2.take e.2.1) (fun _ => true) true ⟨.ownCore, (x.desc q).cls, x.job, some x.ctx, c / 64, false⟩,
         a.2.drop e.2.1)
      let t := ((joinUnits ((List.range 4).map fun i => ((x.desc q).unitOff ((x.desc q).got + i), none))).foldl write (s, data)).1
      exec (.streamWrite c q) s = .next (t.setCore c ((t.core c).setDesc q
        { (t.core c).desc q with
          puts := rest, got := ((t.core c).desc q).got + 4, low := ((t.core c).desc q).low + 4,
          state := if ((t.core c).desc q).state = 1 ∧ ((t.core c).desc q).bound ≤ ((t.core c).desc q).got + 4 then 2
            else ((t.core c).desc q).state })))

/-- R84, R90, R149, R150: the matrix instructions at issue. -/
def Obligations.matrixIssue : Prop :=
  ∀ (s : State) (c : Nat) (f : BitVec 56), Issues s c →
    let u := s.goOn c
    let x := s.seen c
    let ends := fun (y : Core) => Host.Outcome.next (φ := Fault) (ρ := Refusal) ((u.setCore c y).advance c)
    let n := (x.issue + 1) % 2 ^ 16
    (zeros f [(53, 3), (0, 37)] = true → fld f 38 4 < 6 → x.blockBusy = false →
      let y := x.keepLoad
      let b : Blk := ⟨true, none, false, false, fld f 38 4, decide (fld f 37 1 = 1), (y.sreg (fld f 42 5)).toNat % 256, [], y.issue⟩
      let src := fld f 47 5
      (fld f 52 1 = 1 → src % 4 = 0 →
        exec (.mldw c f) s = ends { y with
          issue := (y.issue + 1) % 2 ^ 16, blk := { b with data := ((y.group src).map vbytes).flatten } }) ∧
      (fld f 52 1 = 0 → src < 16 → (y.desc src).state = 1 → (y.desc src).dir = 0 →
        (y.desc src).pos + 16 ≤ (y.desc src).bound → x.takeHeld src 16 = none →
        exec (.mldw c f) s = ends (({ y with
          issue := (y.issue + 1) % 2 ^ 16, blk := { b with src := some (src, (y.desc src).pos) } } : Core).setDesc src
          { y.desc src with pos := (y.desc src).pos + 16 }))) ∧
    (zeros f [(0, 18)] = true → fld f 51 3 / 2 = fld f 54 2 → fld f 36 9 ≤ 256 → fld f 25 2 < 3 → (fld f 23 1 = 1 ∨ fld f 18 5 = 0) →
      srcOk (fld f 50 1) (fld f 45 5) = true →
      (∀ a b, arrayType (fld f 27 4) = some a → arrayType x.blk.typ = some b → typesMatch a b = true → x.blk.held = true →
        let arr := fld f 54 2
        let src := fld f 45 5
        let d := x.desc src
        let op : ArrOp := ⟨false, fld f 51 3, if fld f 50 1 = 0 then some (src, d.pos) else none,
          if fld f 50 1 = 0 then [] else x.group src, fld f 36 9, fld f 32 4, decide (fld f 31 1 = 1), fld f 27 4, 8 * fld f 25 2,
          decide (fld f 24 1 = 1), if fld f 23 1 = 1 then some (x.vreg (fld f 18 5)) else none, x.issue, 0⟩
        (fld f 36 9 = 0 → exec (.mop c f) s = ends { x with issue := n }) ∧
        (fld f 36 9 ≠ 0 → (x.queue arr).length < 8 → (fld f 23 1 = 1 → fld f 36 9 ≤ 64) →
          (fld f 31 1 = 1 → x.badTiles.contains (fld f 51 3) = false) →
          (fld f 50 1 = 1 → fld f 36 9 ≤ 16 →
            exec (.mop c f) s = ends (({ x with issue := n } : Core).setQueue arr (x.queue arr ++ [op]))) ∧
          (fld f 50 1 = 0 → d.state = 1 → d.dir = 0 → d.pos + fld f 36 9 ≤ d.bound → x.takeHeld src (fld f 36 9) = none →
            exec (.mop c f) s = ends ((({ x with issue := n } : Core).setQueue arr (x.queue arr ++ [op])).setDesc src
              { d with pos := d.pos + fld f 36 9 })))) ∧
      (x.blk.held = false → exec (.mop c f) s = .next (u.precise c causeIllegal 0))) ∧
    (zeros f [(53, 3), (0, 41)] = true → x.tileHeld (fld f 45 3) = false →
      exec (.mrd c f) s = .next (s.retireV c (fRD f) (x.tile (fld f 45 3) (fld f 41 4)))) ∧
    (zeros f [(53, 3), (48, 5), (41, 4), (0, 41)] = true → (x.queue (fld f 45 3 / 2)).length < 8 →
      exec (.mclr c f) s = ends (({ x with issue := n } : Core).setQueue (fld f 45 3 / 2)
        (x.queue (fld f 45 3 / 2) ++ [⟨true, fld f 45 3, none, [], 1, 0, false, 0, 0, false, none, x.issue, 0⟩])))

/-- R85, R88, R91, R93: what the arrays do on their own. -/
def Obligations.arrayEvents : Prop :=
  ∀ (s : State) (c p : Nat), c < 1280 → s.phys c = some p → s.dieRuns (c / 256) = true →
    let x := s.core c
    (x.blk.held = true → x.blk.shifted = false → x.blkOld = [] →
      (x.blk.src = none → exec (.blockShiftStart c) s = .next (s.setCore c { x with blk := { x.blk with shifted := true } })) ∧
      (∀ q v t data, x.blk.src = some (q, v) → s.unitsWait c p q v 16 = false →
        s.readUnits c p q v 16 = (t, .ok data) →
        let y := (t.core c).delivered q v 16
        exec (.blockShiftStart c) s = .next (t.setCore c { y with blk := { y.blk with src := none, shifted := true, data := data } }))) ∧
    (∀ q v n old t data, x.blk.held = true → x.blkOld = (q, v, n) :: old → s.unitsWait c p q v 16 = false →
      s.readUnits c p q v 16 = (t, .ok data) →
      exec (.blockShiftStart c) s =
        .next (let w := t.setCore c ((t.core c).delivered q v 16); w.setCore c { w.core c with blkOld := old })) ∧
    (∀ k op rest flt, k < 4 → x.queue k = op :: rest →
      (op.clear = true → exec (.arrayRowEnter c k flt) s =
        .next (s.setCore c (((List.range 16).foldl (fun x r => x.setTile op.tile r 0) x).popOp k))) ∧
      (∀ xt wt, op.clear = false → op.src = none → x.blk.shifted = true → x.blk.invalid = false →
        arrayType op.xtype = some xt → arrayType x.blk.typ = some wt → flt = .none →
        let img := ((vbytes (op.regs.getD (op.next / 4) 0)).drop (16 * (op.next % 4))).take 16
        let xs := (List.range (arrayK xt)).map fun j => xt.val (rowElem xt img j)
        let w := fun a n => wt.val (blockElem wt x.blk.tr x.blk.data a n)
        let r := (op.r0 + op.next) % 16
        let base := fun n => if op.acc = false ∧ op.next < 16 then 0 else lane 32 (x.tile op.tile r) n
        let scale := match op.xs with | none => 127 | some v => lane 8 v op.next
        let row := packLanes 32 ((List.range 16).map fun n => tileElem (base n) (colSum xs w n) op.neg op.psh scale x.blk.ws)
        let y := ({ x with stat := { x.stat with rows := x.stat.rows + 1 } } : Core).setTile op.tile r row
        let t := s.setCtx x.ctx { s.ctx x.ctx with rows := (s.ctx x.ctx).rows + 1 }
        checkRow xs w ((List.range 16).map (colSum xs w)) = none →
          (op.next + 1 < op.rows → exec (.arrayRowEnter c k flt) s = .next (t.setCore c (y.setQueue k ({ op with next := op.next + 1 } :: rest)))) ∧
          (op.rows ≤ op.next + 1 → exec (.arrayRowEnter c k flt) s = .next (t.setCore c (y.setQueue k rest)))))

/-- R160 to R164: the message instructions. -/
def Obligations.messageInstructionResults : Prop :=
  ∀ (s : State) (c : Nat) (f : BitVec 56), Issues s c → gOk f = true →
    let u := s.goOn c
    let x := s.seen c
    let m := gPort f
    let p := x.port m
    let w := x.sreg (gR2 f)
    let ends := fun (t : State) => Host.Outcome.next (φ := Fault) (ρ := Refusal) (t.advance c)
    (gR1 f = 0 → p.pending = 0 →
      (w = 0 → exec (.gbind c f) s = ends (u.unbindPort c m)) ∧
      (bits w 62 2 = 1 → bits w 0 32 = 0 → exec (.gbind c f) s = ends (u.bindSend c m (bits w 51 11) (bits w 48 3) (bits w 32 16))) ∧
      (bits w 62 2 = 2 → bits w 52 10 = 0 → bits w 20 12 = 0 → bits w 32 20 % 64 = 0 → bits w 0 20 % 64 = 0 → bits w 0 20 ≠ 0 →
        (u.ringOf c m = none ∨ u.ringOf c m = some (bits w 32 20, bits w 0 20)) →
        (bits w 0 20 ≤ 524288 → bits w 32 20 + bits w 0 20 ≤ 2 ^ 20 →
          exec (.gbind c f) s = ends (u.bindRecv c m (bits w 32 20) (bits w 0 20))) ∧
        (524288 < bits w 0 20 ∨ 2 ^ 20 < bits w 32 20 + bits w 0 20 →
          exec (.gbind c f) s = .next (u.precise c causeLen 0)))) ∧
    (p.kind = 1 →
      let sends := fun (v : State) (n : Nat) (data : Bytes) =>
        let x := v.core c
        let t := v.setCore c { x.setPort m { p with credits := p.credits - n, pending := p.pending + 1 } with
          stat := { x.stat with msgUnits := x.stat.msgUnits + n } }
        let t := t.setCtx x.ctx { t.ctx x.ctx with units := (t.ctx x.ctx).units + n }
        ends { t with net := { t.net with msgs := t.net.msgs ++ [⟨c, x.epoch, m, p.dst, p.dport, p.epoch, x.ctx, data⟩] } }
      let refused := fun (v : State) =>
        let x := v.core c
        ends (v.setCore c { x.setPort m { p with nacked := true } with stat := { x.stat with nackRet := x.stat.nackRet + 1 } })
      let len := (x.sreg (gR1 f)).toNat
      let off := (x.sreg (gR2 f)).toNat
      (gR1 f = 0 →
        (p.nacked = true ∨ p.epoch = 0 → exec (.gsendv c f) s = refused u) ∧
        (p.nacked = false → p.epoch ≠ 0 → 1 ≤ p.credits → exec (.gsendv c f) s = sends u 1 (vbytes (x.vreg (gR2 f))))) ∧
      (len = 0 → exec (.gsends c f) s = .next (s.retire c)) ∧
      (len ≠ 0 → len % 64 = 0 → off % 64 = 0 → len ≤ 2048 → len ≤ p.maxlen * 64 → off + len ≤ 2 ^ 20 → u.scratchUe c off len = false →
        (p.nacked = true ∨ p.epoch = 0 → exec (.gsends c f) s = refused (u.scratchFix c off len)) ∧
        (p.nacked = false → p.epoch ≠ 0 → len / 64 ≤ p.credits →
          exec (.gsends c f) s = sends (u.scratchFix c off len) (len / 64) (u.scratchRead c off len)))) ∧
    (p.kind = 2 →
      (∀ r, gR2 f = 0 → p.head = some r →
        exec (.grecv c f) s = ends (u.setCore c ((x.setPort m { p with ring := takeHead p.ring }).setS (gR1 f) (r.header p.base))) ∧
        (r.units = 1 → u.scratchUe c (p.base + r.off) 64 = false →
          let v := u.scratchFix c (p.base + r.off) 64
          exec (.grecvv c f) s = ends ((v.setCore c (((v.core c).setPort m { p with ring := dropHead p.ring }).setV (gR1 f)
            (vofBytes (u.scratchRead c (p.base + r.off) 64)))).returnCredits c m [(r, 1)])) ∧
        (r.units ≠ 1 → exec (.grecvv c f) s = .next (u.precise c causeLen 0))) ∧
      (gR1 f = 0 → w.toNat % 64 = 0 → w.toNat ≤ ((p.ring.filter (·.taken)).map fun r => r.units - r.freed).sum * 64 →
        let r := freeUnits (w.toNat / 64) p.ring
        exec (.gfree c f) s = ends ((u.setCore c (x.setPort m { p with ring := r.1 })).returnCredits c m r.2))) ∧
    (gR2 f = 0 → exec (.gstat c f) s = .next (s.retireS c (gR1 f) p.status))

/-- R161, R162, R274, R276: what the network does with a message, a return and credits. -/
def Obligations.messageEvents : Prop :=
  ∀ (s : State) (i : Nat),
    (∀ m : Msg, s.net.msgs[i]? = some m → oldestOfChannel s.net.msgs i m = true →
      (s.backed m.dst = true → s.dieRuns (m.dst / 256) = true) →
      s.routeUp m.site (m.dst / 256) = true →
      let t : State := { s with net := { s.net with msgs := s.net.msgs.eraseIdx i } }
      let x := s.core m.dst
      (s.backed m.dst = true → m.epoch = x.epoch → m.ctx = x.ctx → (x.port m.dport).kind = 2 →
        exec (.msgArrive i) s = .next (t.deliverMsg m)) ∧
      (m.dst < 1280 → (s.backed m.dst = false ∧ m.epoch ≠ 0) ∨ (s.backed m.dst = true ∧ (m.epoch ≠ x.epoch ∨ m.ctx ≠ x.ctx ∨ (x.port m.dport).kind ≠ 2)) →
        let e := if s.backed m.dst then x.epoch else 0
        let d := t.countDrop m e
        exec (.msgArrive i) s = .next { d with net := { d.net with
          nacks := d.net.nacks ++ [⟨m.src, m.role, m.sport, m.dst, m.dport, m.epoch, e, m.data.length / 64,
            if m.src = hubCore then m.data else []⟩] } })) ∧
    (∀ n : Nack, s.net.nacks[i]? = some n → s.mayReturn Nack.ends s.net.nacks i n = true →
      let t : State := { s with net := { s.net with nacks := s.net.nacks.eraseIdx i } }
      let x := s.core n.core
      let p := x.port n.port
      let y := { x with stat := { x.stat with nackRet := x.stat.nackRet + 1 } }
      (n.core = hubCore → exec (.nackEpoch i) s = .next (t.eventReturned n)) ∧
      (n.core ≠ hubCore → x.epoch = n.role → p.kind = 1 → p.dst = n.dst → p.dport = n.dport → p.epoch = n.tag →
        exec (.nackEpoch i) s = .next (t.setCore n.core (y.setPort n.port
          { p with nacked := true, nackEpoch := n.epoch, credits := p.credits + n.units, pending := p.pending - 1 })))) ∧
    (∀ g : Grant, s.net.grants[i]? = some g →
      let x := s.core g.dst
      let p := x.port g.dport
      (g.released = false → x.epoch = g.epoch → p.kind = 2 → p.base = g.base → p.size = g.units * 64 →
        exec (.creditRelease i) s = .next { s with net := { s.net with
          grants := s.net.grants.set i { g with released := true }
          creds := s.net.creds ++ [⟨g.src, g.sport, g.dst, g.dport, g.epoch, g.credits - p.heldBy g.src g.sport⟩] } }) ∧
      (g.released = true → exec (.creditRelease i) s = .next s)) ∧
    (∀ e : Cred, s.net.creds[i]? = some e → s.mayReturn Cred.ends s.net.creds i e = true → e.core ≠ hubCore →
      let t : State := { s with net := { s.net with creds := s.net.creds.eraseIdx i } }
      let x := s.core e.core
      let p := x.port e.port
      (p.kind = 1 → p.dst = e.dst → p.dport = e.dport → p.epoch = e.epoch →
        exec (.creditArrive i) s = .next (t.setCore e.core (x.setPort e.port { p with credits := p.credits + e.units }))) ∧
      (¬(p.kind = 1 ∧ p.dst = e.dst ∧ p.dport = e.dport ∧ p.epoch = e.epoch) →
        exec (.creditArrive i) s = .next { t with net := { t.net with held := t.net.held ++ [e] } })) ∧
    (∀ n : Nack, s.net.nacks[i]? = some n → s.mayReturn Nack.ends s.net.nacks i n = false → exec (.nackEpoch i) s = .next s) ∧
    (∀ e : Cred, s.net.creds[i]? = some e → s.mayReturn Cred.ends s.net.creds i e = false → exec (.creditArrive i) s = .next s)

/-- R166 to R168: near-bank issue. -/
def Obligations.nearBankIssue : Prop :=
  ∀ (s : State) (c : Nat) (f : BitVec 56), Issues s c →
    let u := s.goOn c
    let x := s.seen c
    let ra := (x.sreg (fRA f)).toNat
    let rb := x.sreg (fRB f)
    let len := 8 * (fld f 27 6 + 1)
    (∀ p t, zeros f [(53, 3), (0, 27)] = true → bits rb 24 40 = 0 → fRC f % 2 = 0 →
      ra % 8 = 0 → ra + len ≤ 2 ^ 20 → u.phys c = some p →
      (∀ b ∈ bankSet rb, (u.hal p).isOpen b = true ∧ u.refused (.ctx (u.core c).ctx) c p (b * 2 ^ 21) true = false) →
      u.scratchUe c ra len = false →
      (List.range 16).find? (fun t => !x.ticketOpen t) = some t →
      let v := ((u.scratchFix c ra len).flushWhere p (fun e => (bankSet rb).contains (bankOf (e.word * 32))) 2).dropLines p
        fun l => (bankSet rb).contains (bankOf l.off)
      let v := v.setNbu p { v.nbu p with queue := (v.nbu p).queue ++ (bankSet rb).map fun b =>
        ⟨t, c, b, (v.core c).ctx, wordsLe (u.scratchRead c ra len), x.sreg (fRC f), if fRC f = 0 then 0 else x.sreg (fRC f + 1)⟩ }
      let tk : Ticket := ⟨if bankSet rb = [] then 2 else 1, 0, 0, 0, 0, 0, (bankSet rb).length, ((bankSet rb).map (2 ^ ·)).sum⟩
      let v := v.setCore c { v.core c with tickets := tput (v.core c).tickets t tk }
      exec (.nissue c f) s = .next ((v.setCore c ((v.core c).setS (fRD f) (BitVec.ofNat 64 t))).advance c)) ∧
    (zeros f [(53, 3), (48, 5), (38, 5), (33, 5), (27, 6), (0, 27)] = true → bits (x.sreg (fRA f)) 16 48 = 0 →
      ((∀ t, t < 16 → ra.testBit t = true → x.ticketOpen t = false) → exec (.nwait c f) s = .next (s.retire c)) ∧
      ((∃ t, t < 16 ∧ ra.testBit t = true ∧ x.ticketOpen t = true) → (s.core c).fw = false →
        exec (.nwait c f) s = .next (s.setCore c { s.core c with run := 4 }))) ∧
    (zeros f [(53, 3), (43, 5), (38, 5), (33, 5), (27, 6), (0, 27)] = true →
      exec (.nstat c f) s = .next (s.retireS c (fRD f) (BitVec.ofNat 64 x.ticketMask)))

/-- R237, R246: a step of a unit, for every opcode. `stepWord` is the step's arithmetic on the unit and the words of its bank. R228, R232, R233: the instructions on unit registers. -/
def Obligations.nearBankSteps : Prop :=
  (∀ (s : State) (c b p : Nat) (k : Nat → Nat → Instr) (op : Nat),
      (k, op) ∈ [(Instr.earith, 0x01), (Instr.efma, 0x02), (Instr.efunc, 0x03), (Instr.erope, 0x04), (Instr.ecvt, 0x05),
        (Instr.nbRed, 0x08), (Instr.nbFold, 0x09), (Instr.fop, 0x0A), (Instr.xop, 0x0B), (Instr.nbLoop, 0x0C),
        (Instr.rowcpy, 0x0D), (Instr.skey, 0x0E), (Instr.nbEnd, 0x3F)] →
      c < 1280 → b < 128 → s.phys c = some p → s.dieRuns (c / 256) = true →
      let u0 := tget (s.nbu p).units b
      u0.active = true → u0.paused = false → u0.pauseReq = false → u0.ip < u0.image.length → nbOp (u0.image.getD u0.ip 0) = op →
        let r := s.serveBoundary p b
        let u := { tget (r.nbu p).units b with served := 0 }
        let w := u.image.getD u.ip 0
        let t := r.setNbu p { r.nbu p with steps := wrap 32 ((r.nbu p).steps + 1), units := tput (r.nbu p).units b u }
        let t := t.setCtx u.ctx { t.ctx u.ctx with steps := (t.ctx u.ctx).steps + 1 }
        let put := fun (wr : List (Nat × List Bytes)) => wr.foldl (fun s e => s.nbWrite p b e.1 e.2) t
        let keep := fun (v : State) (u : NbUnit) => v.setNbu p { v.nbu p with units := tput (v.nbu p).units b u }
        (∀ u' wr nans, stepWord t p b u w = .more u' wr nans →
          exec (k c b) s = .next { keep ((put wr).countNans u.core nans) u' with fresh := t.fresh + 64 }) ∧
        (∀ u' wr last nans, stepWord t p b u w = .done u' wr last nans →
          let v : State := { (put wr).countNans u.core nans with fresh := t.fresh + 64 }
          let n := loopNext 3 u'.loops last
          (nbOp w ≠ 0x3F → n.1 < u.image.length → exec (k c b) s = .next (keep v { u' with ip := n.1, loops := n.2 })) ∧
          (nbOp w = 0x3F ∨ u.image.length ≤ n.1 → exec (k c b) s = .next (v.endProgram u.core p b u.ticket 0 0 0))) ∧
        (∀ err word, err ≠ 4 → stepWord t p b u w = .fail err word →
          exec (k c b) s = .next (t.endProgram u.core p b u.ticket err u.ip 0)) ∧
        (∀ word, stepWord t p b u w = .fail 4 word →
          let v := t.setHal p ((t.hal p).logBad (b * 2 ^ 16 + word) causeResidue .nearBank
            (t.wordFlips (p * 2 ^ 23 + b * 2 ^ 16 + word)))
          exec (k c b) s = .next ((v.reportBad p (b * 2 ^ 16 + word) causeResidue (v.core u.core).job ((v.lcoreOf p).getD 0 / 64)).endProgram
            u.core p b u.ticket 4 u.ip word))) ∧
  (∀ (s : State) (p b : Nat) (u : NbUnit) (w : Word),
      let a := u.fr (nf w 46 4)
      let d := u.fr (nf w 42 4)
      let setF := fun v => StepOut.done { u with f := tput u.f (nf w 50 4) v } [] u.ip
      let setX := fun v => StepOut.done { u with x := tput u.x (nf w 53 3) v } [] u.ip
      (nbOp w = 0x0A →
        (nf w 54 4 = 0 → stepWord s p b u w = setF (fadd32 a d)) ∧ (nf w 54 4 = 1 → stepWord s p b u w = setF (fsub32 a d)) ∧
        (nf w 54 4 = 2 → stepWord s p b u w = setF (fmul32 a d)) ∧ (nf w 54 4 = 3 → stepWord s p b u w = setF (fmax32 a d)) ∧
        (nf w 54 4 = 6 → stepWord s p b u w = setF (nf w 0 32)) ∧
        (nf w 54 4 = 7 → stepWord s p b u w = setF (rnd32 (fvOfInt (sext 32 a))))) ∧
      (nbOp w = 0x0B →
        (nf w 56 2 = 0 → stepWord s p b u w = setX (nf w 0 16)) ∧
        (nf w 56 2 = 1 → stepWord s p b u w = setX ((u.xr (nf w 53 3) + nf w 0 16) % 2 ^ 16)) ∧
        (nf w 56 2 = 2 → stepWord s p b u w = setX (u.fr (nf w 49 4) % 2 ^ 16))) ∧
      (nbOp w = 0x09 →
        let v := fun (op : Nat → Nat → Nat) (i : Nat) => StepOut.done
          { u with f := tput u.f (nf w 45 4) (pairTree op 4 u.acc), acc := List.replicate 16 i } [] u.ip
        let i := if nf w 40 1 = 0 then f32NegZero else f32NegInf
        (eFN w = 0 → stepWord s p b u w = v fadd32 i) ∧ (eFN w = 1 → stepWord s p b u w = v fmax32 i)) ∧
      (nbOp w = 0x0C →
        (nf w 0 11 = 0 → stepWord s p b u w = .done u [] (u.ip + nf w 11 6)) ∧
        (nf w 0 11 ≠ 0 → stepWord s p b u w =
          .done { u with loops := (u.ip + 1, u.ip + nf w 11 6, nf w 0 11) :: u.loops } [] u.ip)) ∧
      (nbOp w = 0x3F → stepWord s p b u w = .done u [] u.ip))

/-- R239, R241, R243: what the near-bank units of a slice do on their own. -/
def Obligations.nearBankEvents : Prop :=
  ∀ (s : State) (c p : Nat), c < 1280 → s.phys c = some p → s.dieRuns (c / 256) = true →
    let n := s.nbu p
    (∀ e, n.admitted < n.limitNow → n.queue.find? (fun e => !(tget n.units e.bank).active) = some e →
      let r := s.flushBank p e.bank
      let t := r.setNbu p { r.nbu p with
        queue := (r.nbu p).queue.erase e, admits := (r.nbu p).admits + 1
        units := tput (r.nbu p).units e.bank { e.start with seq := (r.nbu p).admits } }
      (imageLegal e.image = true → exec (.bankProgramAdmit c) s = .next t) ∧
      (imageLegal e.image = false → exec (.bankProgramAdmit c) s = .next (t.endProgram e.core p e.bank e.ticket 1 (imageBad e.image) 0))) ∧
    (n.limitNow ≤ n.admitted → exec (.bankProgramAdmit c) s = .next s) ∧
    (∀ b, b < 128 →
      let u := tget n.units b
      (u.active = true → exec (.nbBoundaryService c b) s = .next (s.serveBank p b (if u.paused then (s.hal p).reqs.length else 16 - u.served))) ∧
      (u.active = true → u.pauseReq = true → u.paused = false → exec (.nbPause c b) s =
        .next ((s.setNbu p { n with units := tput n.units b { u with paused := true } }).setHal p
          { s.hal p with owed := tput (s.hal p).owed b 0 })) ∧
      (u.paused = true → (s.pwr.emergency = false ∨ n.mayResume b = true) →
        let t := s.serveBoundary p b
        exec (.nbResume c b) s = .next (t.setNbu p { t.nbu p with
          units := tput (t.nbu p).units b { tget (t.nbu p).units b with paused := false, pauseReq := false } })))

/-- R189, R205, R212, R217, R254: what a halyard controller does with the requests it holds. -/
def Obligations.halyardRequests : Prop :=
  ∀ (s : State) (c p : Nat), c < 1280 → s.phys c = some p → s.dieRuns (c / 256) = true →
    let x := s.hal p
    (∀ (ups : List Upset) (k : Nat), k < 4 →
      let t := s.setHal p { x with via := { x.via with capRetry := min 0xFF (x.via.capRetry + k) } }
      let l := eligible (t.bankFree p) (t.hal p).reqs []
      (∀ cls r, grantClass (t.hal p) l = some cls → l.find? (fun r : HReq => r.cls = cls) = some r →
        let v := t.upsets p (r.off / 128) ups
        exec (.halyardGrant c ups k) s = .next (((v.setHal p { v.hal p with reqs := (v.hal p).reqs.erase r }).countServed p
          (bankOf r.off)).perform p r)) ∧
      (grantClass (t.hal p) l = none → exec (.halyardGrant c ups k) s = .next t)) ∧
    (∀ (ups : List Upset) (k : Nat), 4 ≤ k →
      let t := s.setHal p { x with via := { x.via with capRetry := min 0xFF (x.via.capRetry + 3) } }
      exec (.halyardGrant c ups k) s = .next (t.free.2.setHal p
        { t.free.2.hal p with via := (t.free.2.hal p).via.dueVia (576 + t.free.1 % 44) })) ∧
    (∀ w rest, x.fix = w :: rest →
      exec (.correctedWriteback c) s = .next ((s.setHal p { x with fix := rest }).writeBack p w 2)) ∧
    (∀ w rest, x.scrubFix = w :: rest → eligible (s.bankFree p) x.reqs [] = [] →
      exec (.scrubWriteback c) s = .next ((s.setHal p { x with scrubFix := rest }).writeBack p w 3)) ∧
    (∀ e rest, x.merge = e :: rest → exec (.mergeAgeFlush c) s = .next (s.flushWhere p (fun f => decide (f.word = e.word)) 2)) ∧
    (∀ r, confirmable (fun r => s.invals.any fun e => decide (e.2.1 = lineOf c r.off)) x.reqs [] = some r →
      let t := s.dropHome (lineOf c r.off) true
      let go : HReq := { r with waits := false }
      exec (.sealedWriteConfirm c) s = .next ((t.setHal p { t.hal p with reqs := (t.hal p).reqs.map fun q => if q = r then go else q }).serveWhile
        p (t.bankFree p) (fun _ => true) (fun x _ => x.reqs.contains go) (t.hal p).reqs.length))

/-- R194, R196, R244: refresh and windows. R200, R215, R216, R218: scrubber, region map, test mode. -/
def Obligations.refreshAndScrubbing : Prop :=
  (∀ (s : State) (c p : Nat), c < 1280 → s.phys c = some p → s.dieRuns (c / 256) = true →
      let x := s.hal p
      (∀ b, b < 128 →
        let k := tget x.owed b
        (s.bankFree p b = true → exec (.refreshDue c b) s = .next s) ∧
        (s.bankFree p b = false → k < 4 → exec (.refreshDue c b) s = .next (s.setHal p { x with
          owed := tput x.owed b (k + 1)
          owedMax := tput x.owedMax (b / 16) (max (tget x.owedMax (b / 16)) (k + 1)) })) ∧
        (s.bankFree p b = false → 4 ≤ k → (tget (s.nbu p).units b).paused = true →
          exec (.refreshDue c b) s = .next (s.setHal p { x with owed := tput x.owed b 0 })) ∧
        (s.bankFree p b = false → 4 ≤ k → (tget (s.nbu p).units b).paused = false → exec (.refreshDue c b) s =
          .next ((s.setNbu p { s.nbu p with units := tput (s.nbu p).units b { tget (s.nbu p).units b with pauseReq := true } }).setHal p
            { x with pauses := wrap 32 (x.pauses + 1) })) ∧
        (s.bankFree p b = true → exec (.refreshOwedIssue c b) s = .next (s.setHal p { x with owed := tput x.owed b (k - 1) })))) ∧
  (∀ (s : State) (p : Nat), p < 1440 → s.dieRuns (p / 288) = true →
      let x := s.hal p
      let band := fun (x : Hal) => x.bands.foldl (fun m e => max m e.2) 0
      (band x ≠ x.bandSet ∨ x.via.due ≠ [] →
        let t := (x.owed.filter fun e => decide (e.2 ≠ 0) && !s.bankFree p e.1).foldl (fun s e => s.pauseFor p e.1) s
        let y := t.hal p
        exec (.recalWindow p) s = .next ((t.setHal p { y with
          owed := [], bandSet := band y, recalCount := wrap 8 (y.recalCount + 1) }).retireVias p ((List.range 620).filter y.via.due.contains))) ∧
      (band x = x.bandSet → x.via.due = [] → exec (.recalWindow p) s = .next s)) ∧
  (∀ (s : State) (c p : Nat), c < 1280 → s.phys c = some p → s.dieRuns (c / 256) = true →
      let x := s.hal p
      (∀ ups, x.scrub.enabled = true → x.test.mode = 0 → s.bankFree p (bankOf (x.scrub.line * 128)) = true →
        eligible (s.bankFree p) x.reqs [] = [] →
        let t := (List.range 4).foldl (fun s i => s.scrubWord c p (x.scrub.line * 4 + i)) (s.upsets p x.scrub.line ups)
        exec (.scrubLine c ups) s = .next (t.setHal p { t.hal p with
          scrub := (t.hal p).scrub.next (t.die (c / 256))
          grants := tput (t.hal p).grants 3 (wrap 64 (tget (t.hal p).grants 3 + 1)) })) ∧
      (x.scrub.enabled = true → x.scrub.limitNow < (s.die (c / 256)).count - x.scrub.lapStart →
        exec (.scrubLapLate c) s = .next (s.setHal p { x with scrub := { x.scrub with late := true } })) ∧
      (x.scrub.enabled = false ∨ (s.die (c / 256)).count - x.scrub.lapStart ≤ x.scrub.limitNow →
        exec (.scrubLapLate c) s = .next s) ∧
      (∀ lo hi : Word,
        ((s.core c).run = 0 ∨ (s.core c).run = 2 → exec (.regionMapWrite c lo hi) s = .next (s.setRegions p (hi ++ lo))) ∧
        ((s.core c).run ≠ 0 → (s.core c).run ≠ 2 → exec (.regionMapWrite c lo hi) s = .next s)) ∧
      (∀ mode b, mode < 3 → b.bank < 128 →
        (mode = 0 → exec (.testModeEnable c mode b) s =
          .next (s.setHal p { x with test := { x.test with mode := 0, refused := false, bank := b.bank } })) ∧
        (mode ≠ 0 → ((s.core c).run = 0 ∨ (s.core c).run = 2) →
          let t := s.flushNow p fun _ => true
          let v := t.setHal p { t.hal p with test := ⟨mode, false, b.bank, (t.hal p).test.check⟩ }
          exec (.testModeEnable c mode b) s = .next (b.acc.foldl (fun s a => s.testAccess p b.bank a) v)) ∧
        (mode ≠ 0 → (s.core c).run ≠ 0 → (s.core c).run ≠ 2 →
          exec (.testModeEnable c mode b) s = .next (s.setHal p { x with test := { x.test with mode := 0, refused := true } }))))

/-- R249 to R257: the cluster caches. -/
def Obligations.cacheCommands : Prop :=
  ∀ (s : State) (h : Nat), h < 20 → s.dieRuns (h / 4) = true →
    (∀ r, s.nextAccess h = some r →
      let line := r.da / 128
      let read := r.kind = .load ∨ r.kind = .fetch
      let t := s.setCache h { s.cache h with q := (s.cache h).q.erase r }
      let t := if homeOf line = h then t.settleLine line else t
      let x := t.cache h
      let l := x.line line
      let hit := l.valid = true ∧ l.ctx = r.ctx
      let v := t.setCache h (if hit then (if homeOf line = h ∨ read then { x with hits := wrap 32 (x.hits + 1) } else x)
        else { x with misses := wrap 32 (x.misses + 1), ctxMiss := if l.valid then wrap 32 (x.ctxMiss + 1) else x.ctxMiss })
      (homeOf line = h →
        let v := if l.valid = true ∧ l.ctx ≠ r.ctx then v.dropHome line false else v
        (v.cachedRefusal r = none →
          (r.kind = .store →
            exec (.ccAccess h .none) s = .next (((v.dropSharers h line).writeThrough r r.data r.mask.testBit).acked r.core)) ∧
          (hit → read → exec (.ccAccess h .none) s = .next (v.answerLoad h r l.data)) ∧
          (hit → r.kind = .amo → exec (.ccAccess h .none) s = .next (v.performAmo h r l.data)) ∧
          (¬hit → r.kind ≠ .store →
            exec (.ccAccess h .none) s = .next (v.setCache h { v.cache h with fills := (v.cache h).fills ++ [r] }))) ∧
        (∀ cause, v.cachedRefusal r = some cause → exec (.ccAccess h .none) s = .next (v.refuseCached r cause))) ∧
      (homeOf line ≠ h →
        (hit → read → exec (.ccAccess h .none) s = .next (v.answerLoad h { r with via := none } l.data)) ∧
        (¬hit → read → exec (.ccAccess h .none) s = .next ((v.dropAt h line).forward { r with via := some (h / 4) })) ∧
        (¬read → exec (.ccAccess h .none) s = .next ((v.dropAt h line).forward { r with via := none })))) ∧
    (∀ r ups p, (s.cache h).fills.find? (s.cacheReached h) = some r →
      let t := s.setCache h { s.cache h with fills := (s.cache h).fills.erase r }
      t.phys (r.da / 2 ^ 28) = some p →
      let off := r.da % 2 ^ 28 / 128 * 128
      let v := t.upsets p (off / 128) ups
      let d := v.readSlice p off 128 (v.cacheBy r (if r.kind = .amo then 2 else 0))
      (v.cachedRefusal r = none →
        (∀ data, d.2 = .ok data →
          let a := d.1.allocLine h (r.da / 128) ⟨true, data, r.ctx, 0⟩
          exec (.ccFill h ups) s = .next (if r.kind = .amo then a.performAmo h r data else a.answerLoad h r data)) ∧
        (∀ cause w, d.2 = .error (cause, w) → exec (.ccFill h ups) s = .next (d.1.refuseCached r cause))) ∧
      (∀ cause, v.cachedRefusal r = some cause → exec (.ccFill h ups) s = .next (v.refuseCached r cause))) ∧
    (∀ i line g, s.invals[i]? = some (h, line, g) → s.bothWays (homeOf line / 4) (h / 4) = true →
      exec (.ccInvalidate i) s = .next (({ s.dropAt h line with invals := s.invals.eraseIdx i } : State).ackInval h line)) ∧
    (∀ ctx, ctx < 256 → exec (.ccContextInvalidate h ctx) s = .next (s.walkContext h ctx))

/-- R269, R270, R482, R485, R531: the life of a job. -/
def Obligations.jobCommands : Prop :=
  ∀ s : State,
    (s.manages = true →
      (∀ ext, s.sleeping = false → s.placeBusy 1 0 = false →
        exec (.jobPlace ext) s = .next ((s.place1 ext).1.placeResult (s.place1 ext).2.1 (s.place1 ext).2.2)) ∧
      (∀ ext, s.sleeping = false → s.placeBusy 1 0 = true →
        exec (.jobPlace ext) s = .next { s with place := { s.place with overrun := true } }) ∧
      (∀ j, j < 256 → s.placeBusy 2 j = false →
        ((s.job j).state ≠ 0 → exec (.jobRetire j) s = .next ((s.retireJob j).placeResult j (0, 0, 0))) ∧
        ((s.job j).state = 0 → exec (.jobRetire j) s = .next (s.placeResult j (0xA, 0, 0))))) ∧
    (∀ j, j < 256 → s.hubRuns = true → s.sleeping = false →
      ((s.job j).state = 1 → (s.job j).faults ≠ [] → s.recentRestarts j < 16 →
        ((s.beginRestart j).jobRunsOn j = false → (s.beginRestart j).jobDiesRun j = true →
          exec (.jobRestart j) s = .next ((s.beginRestart j).finishRestart j)) ∧
        ((s.beginRestart j).jobRunsOn j = true → exec (.jobRestart j) s = .next (s.beginRestart j))) ∧
      (∀ f rest, (s.job j).state = 1 → (s.job j).faults = f :: rest → 16 ≤ s.recentRestarts j →
        exec (.jobRestart j) s = .next ((s.report ⟨0, 0x0E, srcOf 8 4, j, 20, 0, 0, f.1 + f.2 * 2 ^ 16⟩).retireJob j)) ∧
      ((s.job j).state = 3 → s.jobRunsOn j = false → s.jobDiesRun j = true →
        exec (.jobRestart j) s = .next (s.finishRestart j)))

/-- R269, R531: a refused PLACE changes nothing of jobs, owners, the network, queues, the map and the clusters. -/
def Obligations.placeChecksInOrder : Prop :=
  ∀ (s : State) (ext : HostReply), (s.place1 ext).2.2.1 ≠ 0 →
    let t := (s.place1 ext).1
    (s.place1 ext).2.1 = 0 ∧ t.jobs = s.jobs ∧ t.own = s.own ∧ t.net = s.net ∧ t.que = s.que ∧ t.map = s.map ∧ t.clus = s.clus

/-- R283, R397, R480, R481: fault reports and notices. -/
def Obligations.faultCollection : Prop :=
  ∀ s : State,
    (∀ i r, s.reports[i]? = some r → (jobFaultClass r.cls = true → (s.job r.job).state ≠ 2) →
      let t : State := { s with reports := s.reports.eraseIdx i }
      let t := if t.makesAlert r then t.raiseAlert 9 else t
      let v := t.collect r
      let note := match v.2 with
        | some n => v.1.traceFrame 1 ((r.col + 5) % 6) n (tget (tget v.1.flt r.col).recs n).bytes
        | none => v.1
      ((jobFaultClass r.cls = true ∧ r.job ≠ 0 ∧ ((note.job r.job).state = 1 ∨ ((note.job r.job).state = 3 ∧ noticeFault (r.source, r.cls) = false))) →
        exec (.faultReport i) s = .next (note.setJob r.job { note.job r.job with faults := (note.job r.job).faults ++ [(r.source, r.cls)] })) ∧
      (jobFaultClass r.cls = false ∨ r.job = 0 ∨ ((note.job r.job).state = 3 ∧ noticeFault (r.source, r.cls) = true) → exec (.faultReport i) s = .next note)) ∧
    (∀ col n, col < 6 → n < 256 → s.hubRuns = true →
      let k := tget s.flt col
      let x := tget k.recs n
      x.valid = true →
        (x.job = 0 → x.updated + 10800000 ≤ s.hubCount → exec (.faultRecordFree col n) s = .next { s with
          flt := tput s.flt col { k with recs := tput k.recs n default }
          flash := { s.flash with log := s.flash.log ++ [x.bytes ++ List.replicate 32 0] } }) ∧
        (x.job = 0 → s.hubCount < x.updated + 10800000 → exec (.faultRecordFree col n) s = .next s) ∧
        (x.job ≠ 0 → x.updated + 1080000 ≤ s.hubCount → ((s.job x.job).state = 0 ∨ ((s.job x.job).state = 2 ∧ (s.job x.job).mappedOut = []) ∨
            ((s.job x.job).state = 1 ∧ (s.job x.job).faults = [])) →
          exec (.faultRecordFree col n) s = .next { s with
            flt := tput s.flt col { k with recs := tput k.recs n default }
            flash := { s.flash with log := s.flash.log ++ [x.bytes ++ List.replicate 32 0] } })) ∧
    (s.hubRuns = true →
      (∀ inst, exec (.segmentFaultNotice inst) s = .next
        ((s.jobs.filter fun e => decide (e.2.state ≠ 0)).filter (fun e => e.2.rc.segmented && decide (e.2.rc.tag = inst)) |>.foldl
          (fun s e => (if e.2.state = 1 ∧ e.2.faults = [] then s.setJob e.1 { s.job e.1 with heard := [] } else s).report
            ⟨0, 0x0B, srcOf 8 4, e.1, 20, 0, 0, 0⟩) s)) ∧
      (∀ peer win epoch, peer < 256 → win < 16 → exec (.windowEpochNotice peer win epoch) s =
        .next { s with
          lnk := { s.lnk with mirror := tput s.lnk.mirror (peer * 16 + win) (epoch % 2 ^ 16) }
          jobs := tmap (fun _ x => if x.rc.segmented then
            { x with heard := (peer * 16 + win) :: x.heard.filter (· ≠ peer * 16 + win) } else x) s.jobs }))

/-- R406 to R419, R433, R532: the SEC commands. `accepted` is what every command needs before its own conditions. -/
def Obligations.securityCommands : Prop :=
  ∀ (s : State) (w : Word),
    let n := bits w 0 8
    let a := s.sec.arg
    let j := bits w 8 8
    let accepted := fun (op : Nat) => s.manages = true ∧ bits w 59 5 = op ∧ (s.sec.cmd = none ∨ s.sec.cmd = some w) ∧ s.serves = true ∧
      argOk op w a = true ∧ (op ≠ 1 → (s.ctx n).defined = true)
    let ends := fun (t : State) (code : Nat) =>
      Host.Outcome.next (φ := Fault) (ρ := Refusal) { t with sec := { t.sec with cmd := none, code := code } }
    (accepted 1 → (s.ctx n).defined = false →
      let t : State := { s with fresh := s.fresh + 1, sec := { s.sec with creations := nextEpoch s.sec.creations } }
      exec (.ctxCreate w) s = ends (t.setCtx n { (default : Ctx) with
        defined := true, creation := nextEpoch s.sec.creations, kvKey := fitBytes 32 (Config.randomKey s.fresh), created := s.hubCount }) 0) ∧
    (accepted 1 → (s.ctx n).defined = true → exec (.ctxCreate w) s = ends s 2) ∧
    (accepted 3 → s.backed (bits a 32 11) = true →
      (∀ h, (bits a 62 2 < 3 ∧ h = bits a 62 2) ∨ (bits a 62 2 = 3 ∧ grantAttr 3 = some h) →
        ((∀ k ∈ argBanks a, (s.ownAt k).owned = false ∧ (s.ownAt k).hub = false) → exec (.bankGrant w) s =
          ends { s with own := (argBanks a).foldl (fun t k => tput t k ⟨true, false, h, n⟩) s.own } 0) ∧
        ((∃ k ∈ argBanks a, (s.ownAt k).owned = true ∨ (s.ownAt k).hub = true) → exec (.bankGrant w) s = ends s 3)) ∧
      (bits a 62 2 = 3 → grantAttr 3 = none → exec (.bankGrant w) s = ends s 1)) ∧
    (accepted 5 → s.backed (bits a 32 11) = true → bits a 62 2 ≠ 3 →
      (∀ k ∈ argBanks a, s.ownedBy n k = true ∧ bits a 62 2 ≤ (s.ownAt k).host) → exec (.lowerHost w) s =
        ends { s with own := (argBanks a).foldl (fun t k => tput t k { tget t k with host := bits a 62 2 }) s.own } 0) ∧
    (accepted 4 → s.backed (bits a 32 11) = true → s.dieRuns (bits a 32 11 / 256) = true →
      (∀ k ∈ argBanks a, s.ownedBy n k = true) →
      ((s.live.any fun e => decide (e.2.rc.ctx = n) && e.2.cores.contains (bits a 32 11)) = false →
        let t := (argBanks a).foldl State.revokeBank s
        exec (.bankRevoke w) s = ends (if (t.ctx n).pageIn (argBanks a) then t.setCtx n { t.ctx n with page := none } else t) 0) ∧
      ((s.live.any fun e => decide (e.2.rc.ctx = n) && e.2.cores.contains (bits a 32 11)) = true → exec (.bankRevoke w) s = ends s 4)) ∧
    (accepted 2 → (s.live.any fun e => decide (e.2.rc.ctx = n)) = false →
      (s.own.any fun e => e.2.owned && decide (e.2.ctx = n) && s.backed (e.1 / 128) && !s.dieRuns (e.1 / 128 / 256)) = false →
      let t := ((s.own.filter fun e => e.2.owned && decide (e.2.ctx = n)).map (·.1)).foldl State.revokeBank s
      let t := ((t.dma.ch.filter fun e => decide (8 ≤ e.1) && !e.2.host && decide (e.2.ctx = n) && e.2.enable).map (·.1)).foldl
        State.disableChannel t
      let t : State := { t with dma := { t.dma with crc := tmap (fun _ x => if !x.host ∧ x.ctx = n then { x with off := true } else x) t.dma.crc } }
      let t : State := { t with sess := tmap (fun _ x => if x.ctx = some n then { x with ctx := none } else x) t.sess }
      exec (.ctxDestroy w) s = ends (t.setCtx n default) 0) ∧
    (accepted 6 →
      ((s.ctx n).kvPrev = none → exec (.kvRotate w) s = ends (s.rotateKv n).1 0) ∧
      ((s.ctx n).kvPrev ≠ none → exec (.kvRotate w) s = ends { s with sec := { s.sec with genBusy := true } } 5)) ∧
    (accepted 7 → j ≠ 0 → (s.job j).state = 1 → (s.job j).faults = [] → (s.job j).rc.ctx = n →
      exec (.jobHold w) s = ends (((s.jobChans j).foldl State.disableChannel s).holdJob j) 0) ∧
    (accepted 8 → j ≠ 0 → (s.job j).state = 2 → (s.job j).rc.ctx = n →
      ((clustersOf (s.job j).cores).any fun h => (s.claims h).any fun k => decide (k ≠ n)) = false →
      let t := s.setJob j { s.job j with state := 3, mappedOut := [], awaits := true }
      exec (.jobRelease w) s = ends (if t.jobRunsOn j = true ∨ t.jobDiesRun j = false then t else t.finishRestart j) 0) ∧
    (accepted 9 → a.toNat / 2 ^ 40 = 0 → a.toNat % 64 = 0 → s.bankSealed a.toNat = true →
      s.ownedBy n (a.toNat / 2 ^ 28 * 128 + bankOf (a.toNat % 2 ^ 28)) = true →
      exec (.ctxPage w) s = ends (s.setCtx n { s.ctx n with page := some a.toNat }) 0)

/-- R420, R431: the events of a context. -/
def Obligations.contextEvents : Prop :=
  ∀ s : State, s.hubRuns = true →
    (∀ n k, n < 256 → (s.ctx n).payPend = some k →
      (s.live.any fun e => decide (e.2.rc.ctx = n) && decide (e.2.openSerials ≠ 0)) = false →
      let x := s.ctx n
      exec (.payloadRotation n) s = .next ((s.setCtx n { x with
        payPrev := x.payCur, payCur := some k, payPend := none, payGen := (x.payGen + 1) % 4, serial := 0 }).announceKey n 0 ((x.payGen + 1) % 4))) ∧
    (∀ n, n < 256 → (s.ctx n).payPend = none → exec (.payloadRotation n) s = .next s) ∧
    (∀ powers n da, s.ctxs.filter (fun e => e.2.defined) = [(n, s.ctx n)] → (s.ctx n).page = some da → s.dieRuns (da / 2 ^ 28 / 256) = true →
      let x := s.ctx n
      let c := da / 2 ^ 28
      let off := da % 2 ^ 28
      let power := (((List.range 20).filter fun h => s.claimed h && decide ((s.clu h).ctx = n)).map fun h => powers.getD h 0).sum
      let t := s.setCtx n { x with pageSeq := (x.pageSeq + 2) % 2 ^ 64 }
      exec (.counterPageUpdate powers) s = .next (((t.hubWrite c off (leBytes 8 ((x.pageSeq + 1) % 2 ^ 64))).hubWrite c (off + 8)
        ((x.pageBytes ((x.pageSeq + 1) % 2 ^ 64) power ((s.hubCount - x.created) / 10800)).drop 8)).hubWrite c off
          (leBytes 8 ((x.pageSeq + 2) % 2 ^ 64)))) ∧
    (∀ powers, (∀ e ∈ s.ctxs, e.2.defined = false) → exec (.counterPageUpdate powers) s = .next s)

/-- R378, R423 to R428: the requests of a session. -/
def Obligations.sessionCommands : Prop :=
  ∀ (s : State) (i : Nat), s.manages = true → i < 8 →
    let x := s.sessOf i
    (x.active = true →
      (∀ n creation secret, x.rootPort = false → (x.ctx = none ∨ x.ctx = some n) → n < 256 → (s.ctx n).defined = true →
        (s.ctx n).creation = creation →
        ((s.ctx n).bound = false ∨ (s.ctx n).secret = shake256 secret → exec (.sessionBind i n creation secret) s =
          .next (((s.setCtx n { s.ctx n with bound := true, secret := shake256 secret }).setSess i { x with ctx := some n }).result i 0 [])) ∧
        ((s.ctx n).bound = true → (s.ctx n).secret ≠ shake256 secret →
          exec (.sessionBind i n creation secret) s = .next (s.result i 2 []))) ∧
      (∀ n, x.ctx = some n →
        let c := s.ctx n
        exec (.sessionReport i) s = .next (s.result i 0 (s.reportOf n)) ∧
        (∀ key : Bytes, key.length = 32 →
          (c.payCur = none → c.payPrev = none → c.payPend = none → exec (.payloadSet i key) s =
            .next ((s.setCtx n { c with payCur := some key, payGen := 0, serial := 0 }).result i 0 [])) ∧
          (c.payCur ≠ none → c.payPrev = none → c.payPend = none → exec (.payloadSet i key) s =
            .next ((s.setCtx n { c with payPend := some key }).result i 0 [])) ∧
          (c.payPrev ≠ none ∨ c.payPend ≠ none → exec (.payloadSet i key) s = .next (s.result i 4 []))) ∧
        exec (.payloadRetire i) s = .next ((s.setCtx n { c with payPrev := none }).result i 0 []) ∧
        (c.kvPrev = none → exec (.sessionKvRotate i) s = .next ((s.rotateKv n).1.result i 0 [])) ∧
        (∀ da len p d t, s.phys (da / 2 ^ 28) = some p → da / 2 ^ 39 = 0 → da % 4096 = 0 → len % 4096 = 0 → 4096 ≤ len → len ≤ 268435456 →
          da % 2 ^ 28 + len ≤ 2 ^ 28 →
          ((List.range ((da % 2 ^ 28 + len + 2 ^ 21 - 1) / 2 ^ 21 - da % 2 ^ 28 / 2 ^ 21)).any fun k =>
            !s.ownedBy n (da / 2 ^ 28 * 128 + da % 2 ^ 28 / 2 ^ 21 + k)) = false →
          s.dieRuns (da / 2 ^ 28 / 256) = true → s.bothWays 5 (da / 2 ^ 28 / 256) = true →
          s.readSlice p (da % 2 ^ 28) len byHub = (t, .ok d) →
          exec (.measure i da len) s = .next (t.result i 0 (shake256 d)))) ∧
      exec (.keyUpdate i) s = .next ((s.setSess i { x with updates := x.updates + 1, secret := shake256 x.secret }).send (.spdm i 0x69 [])) ∧
      exec (.heartbeat i) s = .next ((s.setSess i { x with beats := x.beats + 1 }).send (.spdm i 0x68 [])) ∧
      exec (.endSession i) s = .next ((s.setSess i default).send (.spdm i 0x6C [])) ∧
      (∀ stream, x.rootPort = true → s.linkEnabled = true → stream < 4 →
        let ends := fun (h : HostPort) => Host.Outcome.next (φ := Fault) (ρ := Refusal)
          (({ s with host := h } : State).send (.spdm i 0x7E [BitVec.ofNat 8 stream]))
        let rest := s.host.secure.filter (· ≠ stream)
        (∀ sub rx (key : Bytes), sub < 3 → key.length = 32 →
          exec (.ideKm i stream (.prog sub rx key)) s = ends { s.host with ideKeys := tput s.host.ideKeys (stream * 8 + 2 * sub + b2n rx) key }) ∧
        ((∀ k, k < 6 → tget s.host.ideKeys (stream * 8 + k) ≠ []) →
          exec (.ideKm i stream .go) s = ends { s.host with secure := rest ++ [stream] }) ∧
        ((∃ k, k < 6 ∧ tget s.host.ideKeys (stream * 8 + k) = []) → exec (.ideKm i stream .go) s = ends s.host) ∧
        exec (.ideKm i stream .stop) s =
          ends { s.host with secure := rest, ideKeys := tclear s.host.ideKeys (stream * 8) (stream * 8 + 8) })) ∧
    (x.active = false →
      exec (.sessionReport i) s = .next (s.send (.spdmError 4)) ∧ exec (.payloadRetire i) s = .next (s.send (.spdmError 4)) ∧
      exec (.keyUpdate i) s = .next (s.send (.spdmError 4)) ∧ exec (.heartbeat i) s = .next (s.send (.spdmError 4)) ∧
      exec (.endSession i) s = .next (s.send (.spdmError 4)))

/-- R422 to R424: the responder. -/
def Obligations.responderCommands : Prop :=
  (∀ s : State, s.manages = true →
    let signs := fun (code : Nat) (nonce data : Bytes) => Host.Outcome.next (φ := Fault) (ρ := Refusal)
      (s.send (.spdm 0 code (data ++ ensignSign (nonce ++ data))))
    (∀ off len, off < ensignChain.length →
      exec (.getCertificate off len) s = .next (s.send (.spdm 0 0x02 ((ensignChain.drop off).take len)))) ∧
    (∀ off len, ensignChain.length ≤ off → exec (.getCertificate off len) s = .next (s.send (.spdmError 1))) ∧
    (∀ nonce, exec (.challenge nonce) s = signs 0x03 nonce (sha3of384 ensignChain ++ sha3of384 s.blocks) ∧
      exec (.getMeasurements 0 nonce) s = signs 0x60 nonce [7] ∧
      exec (.getMeasurements 0xFF nonce) s = signs 0x60 nonce s.blocks ∧
      (∀ k, 1 ≤ k → k ≤ 7 → exec (.getMeasurements k nonce) s = signs 0x60 nonce (s.dmtfBlock k)) ∧
      (∀ k, 8 ≤ k → k ≠ 0xFF → exec (.getMeasurements k nonce) s = .next (s.send (.spdmError 1)))) ∧
    (∀ rp req,
      (∀ i, (List.range 8).find? (fun i => !(s.sessOf i).active) = some i → exec (.keyExchange rp req) s =
        .next ((({ s with fresh := s.fresh + 1 } : State).setSess i { (default : Sess) with
          active := true, rootPort := rp, secret := Config.kemSecret req s.fresh }).send (.spdm i 0x64 (Config.kemResponse req s.fresh)))) ∧
      ((List.range 8).find? (fun i => !(s.sessOf i).active) = none → exec (.keyExchange rp req) s = .next (s.send (.spdmError 0x0A))))) ∧
  (∀ s : State, s.boot.state = 4 →
    (∀ off len, exec (.getCertificate off len) s = .next s) ∧ (∀ nonce, exec (.challenge nonce) s = .next s) ∧
    (∀ k nonce, exec (.getMeasurements k nonce) s = .next s) ∧ (∀ rp req, exec (.keyExchange rp req) s = .next s) ∧
    (∀ i, exec (.keyUpdate i) s = .next s ∧ exec (.heartbeat i) s = .next s ∧ exec (.endSession i) s = .next s ∧
      exec (.sessionReport i) s = .next s ∧ exec (.payloadRetire i) s = .next s ∧ exec (.sessionKvRotate i) s = .next s ∧
      (∀ n creation secret, exec (.sessionBind i n creation secret) s = .next s) ∧ (∀ key, exec (.payloadSet i key) s = .next s) ∧
      (∀ da len, exec (.measure i da len) s = .next s) ∧ (∀ stream op, exec (.ideKm i stream op) s = .next s)))

/-- R18, R26, R259, R366, R368: the requests of the host other than doorbells. Offsets of the words of the configuration space
outside R367 are the model's choice (log entry 7), as is the turn of a BAR2 access
at an active bank (log entry 19). -/
def Obligations.hostRequests : Prop :=
  ∀ s : State, s.hubRuns = true →
    (∀ fn off v, s.cfgFn fn = true → off < 4096 →
      exec (.configRequest fn false off v) s = .next (s.send (.cfgCpl (s.cfgWord fn (off / 4 * 4)))) ∧
      exec (.configRequest fn true off v) s = .next ((s.cfgWrite fn (off / 4 * 4) v).send (.cfgCpl 0))) ∧
    (∀ fn wr off v, s.cfgFn fn = false ∨ 4096 ≤ off → exec (.configRequest fn wr off v) s = .next (s.send .hostUr)) ∧
    (∀ fn, s.cfgFn fn = true ↔ fn = 0 ∨ (s.linkEnabled = true ∧ (fn = 1 ∨ (fn = 2 ∧ s.host.bifur = true)))) ∧
    (s.cfgWord 0 0 = 0x0520 * 2 ^ 16 + Config.vendorId.toNat ∧ s.cfgWord 1 0 = 0x0521 * 2 ^ 16 + Config.vendorId.toNat ∧
      s.cfgWord 2 0 = 0x0521 * 2 ^ 16 + Config.vendorId.toNat) ∧
    (∀ off len secure c p o, s.takes secure = true → 0 < len → len ≤ 4096 → s.bar2At off len = some (c, p, o) →
      (s.hostRefused c p o len false = true → exec (.bar2Read off len secure) s = .next ((s.denyHost c o len false).send .hostUr)) ∧
      (s.hostRefused c p o len false = false →
        (∀ t d, s.readSlice p o len byHub = (t, .ok d) → exec (.bar2Read off len secure) s = .next (t.send (.hostCpl d))) ∧
        (∀ t e, s.readSlice p o len byHub = (t, .error e) → exec (.bar2Read off len secure) s = .next (t.send (.hostPoison len))))) ∧
    (∀ off len secure, s.takes secure = false ∨ len = 0 ∨ 4096 < len ∨ s.bar2At off len = none → exec (.bar2Read off len secure) s = .next (s.send .hostUr)) ∧
    (∀ off (d : Bytes) secure c p o, s.takes secure = true → d ≠ [] → d.length ≤ 512 → s.bar2At off d.length = some (c, p, o) →
      (s.hostRefused c p o d.length true = true → exec (.bar2Write off d secure) s = .next ((s.denyHost c o d.length true).send .hostUrPosted)) ∧
      (s.hostRefused c p o d.length true = false →
        exec (.bar2Write off d secure) s = .next (s.writeNow p o d (fun _ => true) false byHub))) ∧
    (∀ off (d : Bytes) secure, d ≠ [] → s.takes secure = false ∨ 512 < d.length ∨ s.bar2At off d.length = none →
      exec (.bar2Write off d secure) s = .next (s.send .hostUrPosted)) ∧
    (∀ off (a : HostAcc), (a.width = 4 ∨ a.width = 8) → off % a.width = 0 → s.takes a.secure = true →
      s.bar4Read off a = some (List.replicate a.width 0) ∧
      (s.blockAnswers off = true → s.bar0Read off a = ((s.loadReg off a.width false).1, some (leBytes a.width (s.loadReg off a.width false).2.toNat))) ∧
      (s.blockAnswers off = false → s.bar0Read off a = (s, some (List.replicate a.width 0)))) ∧
    (∀ off (a : HostAcc) v, off < 0x3800000 →
      let after := fun (t : State) => if 0xF0000 ≤ off ∧ off < 0xF8000 then t.sendPending ((off - 0xF0000) / 16) else t
      (s.takes a.secure = false → exec (.registerWrite off a v) s = .next (after (s.send .hostUrPosted))) ∧
      (s.takes a.secure = true → (a.width = 4 ∨ a.width = 8) → off % a.width = 0 →
        exec (.registerWrite off a v) s = .next (after (if s.blockAnswers off then s.storeReg off a.width v false else s))) ∧
      (s.takes a.secure = true → (a.width ≠ 4 ∧ a.width ≠ 8) ∨ off % a.width ≠ 0 →
        exec (.registerWrite off a v) s = .next (after ((s.accessFault 0 0 off).send .hostUrPosted)))) ∧
    (∀ a b, exec (.function1Write a b) s = .next (s.send .hostUrPosted) ∧ exec (.atomicopRequest a b) s = .next (s.send .hostUr))

/-- R371 to R377: the queue table. -/
def Obligations.doorbellsAndQueues : Prop :=
  ∀ s : State, s.hubRuns = true →
    (∀ off (a : HostAcc) v, off < 2 ^ 19 → s.takes a.secure = false → exec (.doorbell off a v) s = .next (s.send .hostUrPosted)) ∧
    (∀ off (a : HostAcc) v, off < 2 ^ 19 → s.takes a.secure = true → (a.width ≠ 4 ∧ a.width ≠ 8) ∨ off % a.width ≠ 0 →
      exec (.doorbell off a v) s = .next ((s.accessFault 0 1 off).send .hostUrPosted)) ∧
    (∀ off (a : HostAcc) v, off < 2 ^ 19 → (a.width = 4 ∨ a.width = 8) → off % a.width = 0 → s.takes a.secure = true → s.serves = true →
      let q := off / 8
      let h := v % 2 ^ 32
      let e := s.qe q
      let t := s.setQe q { e with hidx := h }
      (off % 8 = 4 → exec (.doorbell off a v) s = .next s) ∧
      (off % 8 = 0 →
        (e.kind = 0 → exec (.doorbell off a v) s = .next (s.rejectQueue q 1)) ∧
        (e.kind ≠ 0 → h = e.hidx → exec (.doorbell off a v) s = .next s) ∧
        (e.kind ≠ 0 → h ≠ e.hidx → e.doorbellOk h = false → exec (.doorbell off a v) s = .next (s.rejectQueue q 2)) ∧
        (e.kind = 1 → h ≠ e.hidx → e.doorbellOk h = true → exec (.doorbell off a v) s = .next (t.raiseDoorbell q e.job)) ∧
        (2 ≤ e.kind → h ≠ e.hidx → e.doorbellOk h = true → exec (.doorbell off a v) s = .next (t.postLates q)))) ∧
    (∀ i q m, s.que.midx[i]? = some (q, m) → (∀ e ∈ s.que.midx.take i, e.1 ≠ q) →
      let t := { s with que := { s.que with midx := s.que.midx.eraseIdx i } }
      let e := s.qe q
      (e.kind ≠ 0 → e.midxOk m = true → exec (.midxUpdate i) s = .next ((({ t with
        que := { t.que with q := tput t.que.q q { e with midx := m } } } : State).writeMidx (s.que.copies.drop 1) q).shadowQueue q)) ∧
      (e.kind ≠ 0 → e.midxOk m = false → exec (.midxUpdate i) s = .next ((t.rejectQueue q 3).writeMidx (s.que.copies.take 1) q)) ∧
      (e.kind = 0 → exec (.midxUpdate i) s = .next ((t.rejectQueue q 1).writeMidx (s.que.copies.take 1) q))) ∧
    (∀ j, j < 256 → exec (.queueEventSend j) s = .next (s.sendEvent j)) ∧
    (∀ v, v < 2048 → s.takes true = false → exec (.msixVectorUnmask v) s = .next (s.send .hostUrPosted)) ∧
    (∀ v, v < 2048 → s.takes true = true → exec (.msixVectorUnmask v) s =
      .next (({ s with host := { s.host with msix := tput s.host.msix (v * 4 + 3) 1 } } : State).sendPending v)) ∧
    (∀ q, q < 65536 → (s.qe q).interval = true →
      let t := if (s.qe q).owed then s.sendMsix (s.qe q).vector else s
      exec (.intDelayExpire q) s = .next { t with
        que := { t.que with q := tput t.que.q q { s.qe q with interval := (s.qe q).owed, owed := false } } }) ∧
    (∀ w : Word, s.manages = true → (s.que.cmd = none ∨ s.que.cmd = some w) →
      let q := bits w 0 16
      let e := s.que.newEntry
      let each := fun (i : Instr) (op : Nat) => bits w 62 2 = op →
        (s.serves = false → exec i s = .next (s.queDone 4)) ∧ (s.serves = true → bits w 16 46 ≠ 0 → exec i s = .next (s.queDone 1))
      each (.queCreate w) 1 ∧ each (.queDestroy w) 2 ∧ each (.queRead w) 3 ∧
      (s.serves = true → bits w 16 46 = 0 →
        (bits w 62 2 = 1 →
          (e.paramOk = false → exec (.queCreate w) s = .next (s.queDone 1)) ∧
          (e.paramOk = true → (s.qe q).kind ≠ 0 → exec (.queCreate w) s = .next (s.queDone 2)) ∧
          (e.paramOk = true → (s.qe q).kind = 0 → s.queInJob q = true → exec (.queCreate w) s = .next (s.queDone 3)) ∧
          (e.paramOk = true → (s.qe q).kind = 0 → s.queInJob q = false → exec (.queCreate w) s = .next ((s.setQe q e).queDone 0))) ∧
        (bits w 62 2 = 2 →
          (s.queInJob q = true → exec (.queDestroy w) s = .next (s.queDone 3)) ∧
          (s.queInJob q = false → (s.qe q).kind = 0 → exec (.queDestroy w) s = .next (s.queDone 0)) ∧
          (s.queInJob q = false → (s.qe q).kind ≠ 0 → exec (.queDestroy w) s = .next ((s.destroyQueue q).queDone 0))) ∧
        (bits w 62 2 = 3 →
          let x := s.qe q
          let que := { s.que with
            cfg0 := packFields [(32, x.delay), (27, x.log2), (16, x.vector), (8, b2n x.ien), (0, x.kind)]
            cfg1 := BitVec.ofNat 64 x.ring, cfg2 := BitVec.ofNat 64 x.shadow, job := x.job, readH := x.hidx, readM := x.midx }
          exec (.queRead w) s = .next (({ s with que := que } : State).queDone 0)))) ∧
    (∀ w c : Word, s.manages = true → s.que.cmd = some c → c ≠ w → bits w 62 2 = 1 →
      exec (.queCreate w) s = .next { s with que := { s.que with overrun := true } })

/-- R380, R381, R404, R405, R352: the host port's events and the guest die. -/
def Obligations.hostStates : Prop :=
  ∀ s : State, s.hubRuns = true →
    exec .d3hotEntry s = .next ({ s with host := { s.host with d3hot := true } } : State).startHalfMast ∧
    (s.host.d3hot = true → (s.heatRuns && s.inHalfMast) = true → exec .d0Return s = .next s.toD0.leaveHalfMast) ∧
    (s.host.d3hot = true → (s.heatRuns && s.inHalfMast) = false → exec .d0Return s = .next s.toD0) ∧
    exec .flrFunction1 s = .next (s.clearConfig 1) ∧
    (let a := ((s.jobs.filter fun e => decide (e.2.state ≠ 0)).map (·.1)).foldl State.retireJob s
     let b := (a.que.q.map (·.1)).foldl State.destroyQueue a
     let d := ((b.dma.ch.filter fun e => e.2.host).map (·.1)).foldl State.disableChannel b
     let t : State := d.clearConfig 0
     ((t.heatRuns && t.inHalfMast && t.host.d3hot) = false → exec .flrFunction0 s = .next t.toD0) ∧
     ((t.heatRuns && t.inHalfMast && t.host.d3hot) = true → exec .flrFunction0 s = .next t.toD0.leaveHalfMast)) ∧
    (∃ t, exec .hotReset s = .next t ∧ t.perstOut = false ∧ t.boot.state = 0 ∧ t.jobs = [] ∧ t.cores = [] ∧ t.map = []) ∧
    (∀ off (a : HostAcc) v, off < 0x800000 → (a.width = 4 ∨ a.width = 8) → off % a.width = 0 → s.takes a.secure = true →
      (s.guestUp = true → off < s.guest.csr * 2 ^ 20 →
        (∀ d, exec (.guestWindowAccess off a false v (some d)) s =
          .next ((s.send (.guestAccess off false [])).send (.hostCpl (leBytes a.width d)))) ∧
        (∀ d, exec (.guestWindowAccess off a true v (some d)) s = .next (s.send (.guestAccess off true (leBytes a.width v)))) ∧
        (exec (.guestWindowAccess off a false v none) s = .next { s.send (.guestAccess off false []) with
          guest := { s.guest with waiting := s.guest.waiting ++ [(a.width, false)] } })) ∧
      (s.guestUp = false ∨ s.guest.csr * 2 ^ 20 ≤ off →
        exec (.guestWindowAccess off a false v none) s = .next (s.send (.hostCpl (leBytes a.width 0))) ∧
        exec (.guestWindowAccess off a true v none) s = .next (s.accessFault 1 0 (guestBase + off)))) ∧
    (∀ width wr rest, s.guest.waiting = (width, wr) :: rest → exec .guestTimeout s = .next (({ s with
      guest := { s.guest with waiting := rest, timeouts := wrap 32 (s.guest.timeouts + 1) } } : State).guestDone width wr 0)) ∧
    (∀ da len d op, s.guestUp = true → 0 < len →
      (∀ cause, s.guestRefusal da len op = some cause → exec (.guestRequest da len op d) s = .next (s.send (.guestCpl cause []))) ∧
      (op = .atomic → s.guestRefusal da len op = some causeRegion) ∧
      (s.guestRefusal da len op = none → da / 2 ^ 40 = 2 → s.hostOk (da % 2 ^ 40) len = true →
        (op = .write → exec (.guestRequest da len op d) s = .next ((s.hostWrite (da % 2 ^ 40) (d.take len)).send (.guestCpl 0 []))) ∧
        (op = .read → s.readsFull (cuts s.maxRead (da % 2 ^ 40) len).length = true → exec (.guestRequest da len op d) s = .next s) ∧
        (op = .read → s.readsFull (cuts s.maxRead (da % 2 ^ 40) len).length = false → exec (.guestRequest da len op d) s =
          .next ((cuts s.maxRead (da % 2 ^ 40) len).foldl (fun t e => { t.send (.hostRead t.host.tag e.1 e.2) with
            host := { t.host with tag := t.host.tag + 1 }, guest := { t.guest with rds := t.guest.rds ++ [t.host.tag] } }) s))) ∧
      (s.guestRefusal da len op = none → da / 2 ^ 40 = 2 → s.hostOk (da % 2 ^ 40) len = false →
        exec (.guestRequest da len op d) s = .next (s.send (.guestCpl causePoison []))) ∧
      (s.guestRefusal da len op = none → da / 2 ^ 40 ≠ 2 → s.targetRuns da = true →
        let b : By := ⟨.dma, 2, 0, s.guest.owner, 20, false⟩
        (∀ t x, op = .read → s.dmaRead b da len = (t, .ok x) → exec (.guestRequest da len op d) s = .next (t.send (.guestCpl 0 x))) ∧
        (∀ t, op = .write → s.dmaWrite 0 b da (d.take len) (fun _ => true) = (t, none) →
          exec (.guestRequest da len op d) s = .next (t.send (.guestCpl 0 []))))) ∧
    (∀ tag r,
      (∀ c, s.loadWaiter tag = some c → exec (.pcieCompletion tag r) s = .next (s.coreHostData c tag r)) ∧
      (s.loadWaiter tag = none →
        (∀ c, s.backWaiter tag = some c → exec (.pcieCompletion tag r) s = .next (s.coreReadBack c r)) ∧
        (s.backWaiter tag = none → ∀ k d, s.runWaiter tag = some (k, d) →
          exec (.pcieCompletion tag r) s = .next (s.setRun k (some (d.backIn tag r))))))

/-- R345, R349, R350, R353: descriptors start, one command for each operation. -/
def Obligations.dmaStarts : Prop :=
  (∀ (s t : State) (k op : Nat) (h : HostReply), k < 576 → s.engineRuns k = true → (s.chan k).run = none → s.chanReady k = true →
    s.sleeping = false → s.readsFull 1 = false → s.takeSlot k = some t → s.peekOp k h = some op →
      let u := t.startDesc k h
      (op = 2 → exec (.dmaFill k h) s = .next u) ∧
      (op = 3 → exec (.dmaCheck k h) s = .next u) ∧
      (op = 4 → exec (.bandToPlanar k h) s = .next u) ∧
      (op = 5 → exec (.planarToBand k h) s = .next u) ∧
      (op = 6 → exec (.planeSplit k h) s = .next u) ∧
      (op = 7 → exec (.planeMerge k h) s = .next u) ∧
      (op = 16 → exec (.sealPayload k h) s = .next u) ∧
      (op = 17 → exec (.openPayload k h) s = .next u) ∧
      (op = 24 → exec (.pseal k h) s = .next u) ∧
      (op = 25 → exec (.popen k h) s = .next u) ∧
      (op = 26 → exec (.prewrap k h) s = .next u) ∧
      (op = 27 → exec (.pdiscard k h) s = .next u) ∧
      (op ∉ [2, 3, 4, 5, 6, 7, 0x10, 0x11, 0x18, 0x19, 0x1A, 0x1B] → exec (.dmaCopy k h) s = .next u)) ∧
  (∀ (s : State) (k : Nat) (h : HostReply) (r : DRun), k < 576 → s.engineRuns k = true → (s.chan k).run = some r →
    r.parkedNow = true → r.stop = false → s.mustPark (descOf r.desc) = false → s.readsFull 1 = false →
      let d := descOf r.desc
      let u := if d.pennant then s.startPennant k (s.chan k) r d h
        else s.startReads k { r with crc := if d.feed then some d.crc else none } d.reads h
      (d.op = 1 → exec (.dmaCopy k h) s = .next u) ∧
      (d.op = 2 → exec (.dmaFill k h) s = .next u) ∧
      (d.op = 3 → exec (.dmaCheck k h) s = .next u) ∧
      (d.op = 4 → exec (.bandToPlanar k h) s = .next u) ∧
      (d.op = 5 → exec (.planarToBand k h) s = .next u) ∧
      (d.op = 6 → exec (.planeSplit k h) s = .next u) ∧
      (d.op = 7 → exec (.planeMerge k h) s = .next u) ∧
      (d.op = 16 → exec (.sealPayload k h) s = .next u) ∧
      (d.op = 17 → exec (.openPayload k h) s = .next u) ∧
      (d.op = 24 → exec (.pseal k h) s = .next u) ∧
      (d.op = 25 → exec (.popen k h) s = .next u) ∧
      (d.op = 26 → exec (.prewrap k h) s = .next u) ∧
      (d.op = 27 → exec (.pdiscard k h) s = .next u))

/-- R350: the first failing check ends the descriptor with its code. -/
def Obligations.plainChecksInOrder : Prop :=
  ∀ (s : State) (k : Nat) (x : Chan) (d : Desc),
    let pay := decide (k ≠ 0) && s.jobs.any fun e => decide (e.2.state ≠ 0) && decide (e.2.payCh = k)
    let pre1 := d.opOk (chanHub k) x = true
    let pre2 := pre1 ∧ d.paramOk (chanPriv k) pay (!s.dma.mode0) = true
    let pre3 := pre2 ∧ d.len ≠ 0
    let pre4 := pre3 ∧ d.boundOk = true
    let pre5 := pre4 ∧ s.reachAll (x.who k) d.reads d.dests = none
    (¬pre1 → s.checkPlain k x d = .error (1, 0)) ∧
    (pre1 → ¬pre2 → s.checkPlain k x d = .error (2, 0)) ∧
    (pre2 → ¬pre3 → s.checkPlain k x d = .error (0, 0)) ∧
    (pre3 → ¬pre4 → s.checkPlain k x d = .error (3, 0)) ∧
    (pre4 → ∀ e, s.reachAll (x.who k) d.reads d.dests = some e → s.checkPlain k x d = .error e ∧ (e.1 = 4 ∨ e.1 = 5)) ∧
    (pre5 → d.reshuffle = true → d.feed = false → s.dma.mode0 = false → s.checkPlain k x d = .error (9, 0)) ∧
    (pre5 → d.reshuffle = true → d.feed = false → s.dma.mode0 = true → s.checkPlain k x d = .ok []) ∧
    (pre5 → d.op = 0x10 → d.feed = false → d.keysel ≠ (s.ctx x.ctx).payGen → s.checkPlain k x d = .error (0xA, 0))

/-- R307 to R309, R349, R355, R357: the transforms of the DMA operations, by AES-256-GCM. -/
def Obligations.dmaTransforms : Prop :=
  (∀ key iv aad pt : Bytes, gcmOpen key iv aad (gcmSeal key iv aad pt) = some pt) ∧
  (∀ (key pd pd' body : Bytes) (ctx gen sq da : Nat), ctx < 256 → gen < 4 → sq < 2 ^ 32 → da < 2 ^ 64 → body.length = pdSize pd * 4096 →
    pdGen pd' = gen → pdSeal pd' = sq → pdSize pd' = pdSize pd → pdFill pd' = pdFill pd → pdPos pd' = pdPos pd →
      openImage key ctx da pd' (sealImage key ctx gen sq da pd body) = some body ∧
      (∀ n, n < 256 → n ≠ ctx → openImage key n da pd' (sealImage key ctx gen sq da pd body) = none)) ∧
  (∀ (x : Bytes) (px bands sz : Nat), 0 < bands → 0 < sz → x.length = px * bands * sz →
    planarToBand (bandToPlanar x bands sz) bands sz = x) ∧
  (∀ pat n i, i < n → (fillBytes pat n)[i]? = some (BitVec.ofNat 8 (pat / 256 ^ (i % 8))))

/-- R345, R352 to R354, R359, R362, R363: what goes on with descriptors and channels. -/
def Obligations.dmaControl : Prop :=
  (∀ (s : State) (k : Nat) (r : DRun), k < 576 → (s.chan k).run = some r → s.engineRuns k = true → r.preempted = false →
    r.parked = false → r.stop = false → s.writeCut k r = false → s.readsFull 2 = false →
      let x := s.chan k
      let t := s.dmaMove k x r
      (r.reads ≠ 0 ∨ r.tags ≠ [] → exec (.descriptorComplete k) s = .next s) ∧
      (r.reads = 0 → r.tags = [] →
        (r.moved = false → ∀ v, (t.chan k).run = some v →
          exec (.descriptorComplete k) s = .next (if v.tags.isEmpty then t.endDesc k x v else t)) ∧
        (r.moved = true → r.stated = false → exec (.descriptorComplete k) s = .next (s.endDesc k x r)) ∧
        (r.moved = true → r.stated = true → exec (.descriptorComplete k) s = .next (s.setRun k none)))) ∧
  (∀ (s : State) (k : Nat) (r : DRun), k < 576 → (s.chan k).run = some r → s.engineRuns k = true → r.preempted = false →
    r.stop = true → r.moved = false → (r.unread = true ∨ (descOf r.desc).abortable = true) →
      exec (.descriptorComplete k) s = .next ((s.abortRun k 0x0E).abortEnd k (s.chan k))) ∧
  (∀ (s : State) (k o : Nat) (r : DRun), s.firstPreempted = some (k, o) → (s.chan k).run = some r → s.hubRuns = true →
    s.slotsUsed k < engineSlots k → exec .descriptorResume s =
      .next (({ s with dma := { s.dma with started := s.dma.started + 1 } } : State).setRun k
        (some { r with preempted := false, order := s.dma.started }))) ∧
  (∀ (s : State) (k v : Nat) (a : HostAcc), k < 256 → s.hubRuns = true → (a.width = 4 ∨ a.width = 8) →
    (s.takes a.secure = false → exec (.dmaProdWrite k a v) s = .next (s.send .hostUrPosted)) ∧
    (s.takes a.secure = true → s.blockAnswers (0x200000 + 0x40 * k + 0x10) = true →
      exec (.dmaProdWrite k a v) s = .next (s.storeReg (0x200000 + 0x40 * k + 0x10) a.width v false))) ∧
  (∀ (s : State) (n : Nat) (v : Word), n < 16 → s.hubRuns = true → s.takes true = true → s.blockAnswers (0x280100 + 0x20 * n + 8) = true →
    exec (.crcValueWrite n v) s = .next (s.storeReg (0x280100 + 0x20 * n + 8) 8 v.toNat false)) ∧
  (∀ (s : State) (k : Nat), k < 576 → s.engineRuns k = true →
    let x := s.chan k
    let off := s.setChan k { x with enable := false }
    ((x.run = none ∨ ∃ r, x.run = some r ∧ r.unread = false ∧ (descOf r.desc).abortable = false) →
      exec (.channelDisable k) s = .next off) ∧
    (∀ r, x.run = some r → (r.unread = true ∨ (descOf r.desc).abortable = true) → exec (.channelDisable k) s = .next (off.abortRun k 0x0E)) ∧
    (∀ ctl ring : Word, x.run = none →
      let y := { x with
        host := bit ctl 62, ctx := if bit ctl 62 then 0 else bits ctl 48 8, bell := if bit ctl 62 then 0 else bits ctl 0 48
        log2 := min 12 (bits ring 60 4), base := bits ring 6 42 * 64, enable := true, cons := x.prod, stopped := false, ringErr := false }
      exec (.channelEnable k ctl ring) s = .next ((s.setChan k { y with
        enable := x.enable, cons := x.cons, stopped := x.stopped, ringErr := x.ringErr }).setChan k y))) ∧
  (∀ s : State, s.hubRuns = true →
    exec .crcModeClear s = .next s.crcMode0 ∧
    (s.dma.mode0 = false → exec .crcModeSet s = .next s) ∧
    (s.dma.mode0 = true →
      let t := s.reshuffling.foldl (fun u k => u.abortRun k 9) s
      exec .crcModeSet s = .next { t with dma := { t.dma with mode0 := false } }))

/-- R395, R399, R439: the mailbox and the window table. What STAGE finds in the slot comes with the command. -/
def Obligations.mailboxAndWindows : Prop :=
  (∀ (s : State) (w : Word), s.hubRuns = true → (s.mbox.cmd = none ∨ s.mbox.cmd = some w) →
    let a := bits w 0 13
    let n := s.inactiveSlot
    let x := s.slot n
    (bits w 60 4 = 1 →
      (511 < a → exec (.mboxReadLog w) s = .next (s.mboxDone 1)) ∧
      (a ≤ 511 → exec (.mboxReadLog w) s = .next (({ s with mbox := { s.mbox with
        window := windowCells ((List.range 64).flatMap fun i => logRecord s.flash.log (64 * a + i)) } } : State).mboxDone 0))) ∧
    (bits w 60 4 = 2 → ∀ m : SlotInfo,
      let t : State := { s with flash := { s.flash with
        chunks := tput s.flash.chunks ((0x0100000 + n * 0x1800000) / 4096 + a) (fitBytes 4096 (tgets s.mbox.window 0 4096)) } }
      (6143 < a → exec (.mboxStage w m) s = .next (s.mboxDone 1)) ∧
      (0 < a → a < 6143 → m.present = true → exec (.mboxStage w m) s = .next ((t.setSlot n { m with
        markerSeq := x.markerSeq, markerValid := x.markerValid, markerDigest := x.markerDigest }).mboxDone 0)) ∧
      (a = 0 → m.present = true → exec (.mboxStage w m) s =
        .next ((t.setSlot n { m with markerSeq := 0, markerValid := false, markerDigest := [] }).mboxDone 0)) ∧
      (a = 6143 → m.present = true → exec (.mboxStage w m) s = .next ((t.setSlot n m).mboxDone 0)) ∧
      (0 < a → a < 6143 → m.present = false → exec (.mboxStage w m) s = .next ((s.setSlot n { m with
        markerSeq := x.markerSeq, markerValid := x.markerValid, markerDigest := x.markerDigest }).mboxDone 2))) ∧
    (bits w 60 4 = 3 → ∀ fails,
      (x.signature = false → exec (.mboxCommit ⟨w, fails⟩) s = .next (s.mboxDone 3)) ∧
      (x.signature = true → x.svn < s.svnFloor → exec (.mboxCommit ⟨w, fails⟩) s = .next (s.mboxDone 4)) ∧
      (x.signature = true → s.svnFloor ≤ x.svn → x.image = false → exec (.mboxCommit ⟨w, fails⟩) s = .next (s.mboxDone 5)) ∧
      (x.signature = true → s.svnFloor ≤ x.svn → x.image = true →
        exec (.mboxCommit ⟨w, true⟩) s = .next ((s.eraseMarker n).mboxDone 2) ∧
        exec (.mboxCommit ⟨w, false⟩) s = .next ((s.setSlot n { x with
          markerSeq := s.nextSeq % 2 ^ 32, markerValid := true, markerDigest := x.manifestDigest }).mboxDone 0))) ∧
    (bits w 60 4 = 4 →
      exec (.mboxAbort ⟨w, false⟩) s = .next ((s.eraseMarker n).mboxDone 0) ∧ exec (.mboxAbort ⟨w, true⟩) s = .next (s.mboxDone 2))) ∧
  (∀ (s : State) (w c : Word), s.hubRuns = true → s.mbox.cmd = some c → c ≠ w → bits w 60 4 = 4 →
    exec (.mboxAbort ⟨w, false⟩) s = .next { s with mbox := { s.mbox with overrun := true } }) ∧
  (∀ (s : State) (w : Word), s.linksRun = true → (s.lnk.cmd = none ∨ s.lnk.cmd = some w) →
    let m := bits w 8 8
    let i := bits w 0 4
    let a := s.lnk.stage0
    let used := (s.portsTo m).any fun p => (tget s.lnk.wins (p * 16 + i)).valid
    (bits w 62 2 = 1 → (bits w 24 37 ≠ 0 ∨ bits w 4 4 ≠ 0) → exec (.windowCreate w) s = .next (s.winDone 1)) ∧
    (bits w 24 37 = 0 → bits w 4 4 = 0 →
      (bits w 62 2 = 1 →
        (∀ e, s.windowErr a s.lnk.stage1 = some e → exec (.windowCreate w) s = .next (s.winDone e)) ∧
        (s.windowErr a s.lnk.stage1 = none →
          (used = true → exec (.windowCreate w) s = .next (s.winDone 3)) ∧
          (s.portsTo m = [] → exec (.windowCreate w) s = .next (s.winDone 4)) ∧
          (used = false → s.portsTo m ≠ [] →
            let e := Win.setEpoch ⟨a ||| (1 : Word) <<< (63 : Nat), s.lnk.stage1⟩ (if bits a 40 8 = 0 then 1 else s.winEpoch (bits a 40 8))
            let t := s.putWindow m i e
            exec (.windowCreate w) s =
              .next (((t.portsTo m).foldl (fun u p => u.noticeEpoch p i e.epoch) t).winDone 0)))) ∧
      (bits w 62 2 = 2 →
        (s.portsTo m = [] → exec (.windowDelete w) s = .next (s.winDone 4)) ∧
        (s.portsTo m ≠ [] → exec (.windowDelete w) s = .next ((s.putWindow m i default).winDone 0)))))

/-- R389 to R391: what a port does with a frame before its own effect. -/
def Obligations.framesInOrder : Prop :=
  ∀ (s : State) (p : Nat) (fr : Frame),
    let x := s.lport p
    let bad := fun (i : Instr) (typ : Nat) =>
      (fr.ctr < x.expects fr → exec i s = .next (s.setLport p { x with replay := sat 16 (x.replay + 1) })) ∧
      (x.expects fr < fr.ctr → exec i s = .next (s.sendNak p)) ∧
      (fr.ctr = x.expects fr → x.tagOk typ fr = false →
        let t := (s.setLport p { x with tagFail := sat 16 (x.tagFail + 1), fails := x.fails + 1 }).sendNak p
        exec i s = .next (if 3 ≤ x.fails then t.portDown p else t))
    (Hears s p 1 → bad (.frameWrite p fr) 1) ∧
    (Hears s p 2 → bad (.frameRead p fr) 2) ∧
    (Hears s p 3 → bad (.readCompletion p fr) 3) ∧
    (Hears s p 4 → bad (.writeAcknowledgement p fr) 4) ∧
    (Hears s p 5 → bad (.frameIdle p fr) 5) ∧
    (Hears s p 6 → bad (.frameManagement p fr) 6) ∧
    (Hears s p 7 → bad (.frameNak p fr) 7) ∧
    (∀ typ, let y := x.accept typ fr
     y.rx = fr.ctr ∧ y.rxPhase = fr.phase ∧ y.rxKey = x.keyOf fr.phase ∧ y.fails = 0 ∧ y.tx = x.tx ∧
       tget y.credits fr.creditVc = tget x.credits fr.creditVc + fr.creditUnits ∧
       tget y.owe fr.vc = tget x.owe fr.vc + ((fr.data.length + 63) / 64 + 1) ∧
       (∀ e ∈ y.retry, e ∈ x.retry ∧ (fr.ack ≠ 0 → fr.ack ≤ x.tx → fr.ack < e.2.ctr)))

/-- R281, R282, R386, R390 to R398: frames and ports. -/
def Obligations.frameEffects : Prop :=
  (∀ (s : State) (p : Nat) (fr : Frame), fr.ctr = (s.lport p).expects fr → s.forMe fr = true →
    let got := fun (typ : Nat) => s.setLport p ((s.lport p).accept typ { fr with vc := vcOf typ })
    let comes := fun (typ : Nat) => Hears s p typ ∧ (s.lport p).tagOk typ fr = true
    (comes 5 → exec (.frameIdle p fr) s = .next ((got 5).drainPort p)) ∧
    (comes 6 → exec (.frameManagement p fr) s = .next ((got 6).drainPort p)) ∧
    (comes 7 → exec (.frameNak p fr) s = .next (((got 7).retransmit p).drainPort p)) ∧
    (comes 3 → exec (.readCompletion p fr) s = .next (((got 3).answered p fr false).drainPort p)) ∧
    (comes 4 → exec (.writeAcknowledgement p fr) s = .next (((got 4).answered p fr true).drainPort p)) ∧
    (comes 1 → ∀ e, (got 1).windowTarget p fr true = .error e →
      exec (.frameWrite p fr) s = .next (((got 1).sendFrame p 4 (answerFrame fr e [])).drainPort p)) ∧
    (comes 1 → ∀ da ctx, (got 1).windowTarget p fr true = .ok (da, ctx) → (got 1).targetRuns da = true →
      let r := (got 1).remoteWrite ctx da (fr.data.take fr.len)
      exec (.frameWrite p fr) s = .next ((r.1.sendFrame p 4 (answerFrame fr r.2 [])).drainPort p)) ∧
    (comes 2 → ∀ e, (got 2).windowTarget p fr false = .error e →
      exec (.frameRead p fr) s = .next (((got 2).sendFrame p 3 (answerFrame fr e [])).drainPort p)) ∧
    (comes 2 → ∀ da ctx, (got 2).windowTarget p fr false = .ok (da, ctx) → (got 2).targetRuns da = true →
      let r := (got 2).remoteRead ctx da fr.len
      exec (.frameRead p fr) s = .next ((r.1.sendFrame p 3 (answerFrame fr r.2.2 r.2.1)).drainPort p))) ∧
  (∀ (s : State) (i : Nat) (q : RemReq), s.lnk.rem[i]? = some q → s.hubRuns = true →
    exec (.remoteTimeout i) s = .next ((s.dropHeld q).answerRemote q causeRange [])) ∧
  (∀ (s : State) (p : Nat), p < 8 → s.linksRun = true →
    let x := s.lport p
    ((x.state = 1 ∨ x.state = 2 ∨ x.state = 4) → exec (.portSignalLoss p) s = .next (s.portDown p)) ∧
    ((x.state = 0 ∨ x.state = 3) → exec (.portSignalLoss p) s = .next s) ∧
    (∀ r, s.sleeping = false → s.boot.bring = none → (x.state = 0 ∨ x.state = 1 ∨ x.state = 3) → exec (.portRetry p r) s = .next (s.trainPort p r true)) ∧
    (∀ r, 0 < linkWidth (goodLanes r) r.peerLanes → x.state = 1 →
      let w := linkWidth (goodLanes r) r.peerLanes
      s.trainPort p r true = (s.setLport p { x with retrain := wrap 16 (x.retrain + 1), state := 2, width := w, narrow := decide (w < 8) }).drainPort p) ∧
    ((x.state = 2 ∨ x.state = 4) →
      (x.tx < 2 ^ 47 → exec (.portKeyUpdate p) s = .next s) ∧
      (2 ^ 47 ≤ x.tx → x.tx < 2 ^ 48 - 1 → x.held = [] → x.canSend 6 keyFrame = true →
        ∃ y, (exec (.portKeyUpdate p) s = .next y ∧ (y.lport p).phase = !x.phase ∧ (y.lport p).tx = 0 ∧
          (y.lport p).txKey = Config.nextKey x.txKey)) ∧
      (2 ^ 47 ≤ x.tx → x.tx < 2 ^ 48 - 1 → (x.held.any fun e => startsUpdate e.1 e.2) = false →
        exec (.portKeyUpdate p) s = .next (s.sendFrame p 6 keyFrame)) ∧
      (2 ^ 48 - 1 ≤ x.tx → exec (.portKeyUpdate p) s = .next (s.portDown p))))

/-- R37, R39, R401: dies, pairs and their faults. -/
def Obligations.diesAndPairs : Prop :=
  (∀ (s : State) (k : Nat), k < 8 → s.pairUp k = true →
    let x := s.pairOf k
    exec (.pairLost k) s = .next (s.losePair k) ∧
    (∀ m, m < 2 → x.modules.testBit m = true →
      (x.modules = 2 ^ m → exec (.d2dModuleFail k m) s = .next (s.losePair k)) ∧
      (x.modules ≠ 2 ^ m →
        let y : Pair := { x with modules := x.modules - 2 ^ m, degraded := true }
        exec (.d2dModuleFail k m) s = .next (s.setPair k y) ∧ (x.modules < 4 → y.lanes = x.lanesOf (1 - m)))) ∧
    (∀ m lane n, m < 2 → lane < 64 → x.modules.testBit m = true →
      let key := m * 64 + lane
      let total := tget x.round key + n
      let y := { x with retries := wrap 32 (x.retries + n), degraded := true, round := tput x.round key total }
      (total ≤ 64 → exec (.d2dCrcFail k m lane n) s = .next (s.setPair k y)) ∧
      (64 < total → tget x.repaired m < Config.repairLanes → exec (.d2dCrcFail k m lane n) s = .next (s.setPair k { y with
        round := tput y.round key 0, repaired := tput x.repaired m (tget x.repaired m + 1), repairs := wrap 16 (x.repairs + 1) })) ∧
      (64 < total → Config.repairLanes ≤ tget x.repaired m → exec (.d2dCrcFail k m lane n) s = .next (s.setPair k { y with
        round := tput y.round key 0, narrow := if x.narrow.testBit m then x.narrow else x.narrow + 2 ^ m })))) ∧
  (∀ (s : State) (k : Nat), (s.losePair k).pairOf k = { s.pairOf k with state := 2, degraded := true, modules := 0, rate := 0 }) ∧
  (∀ (s : State) (d : Nat), d < 5 → s.heatRuns = true → s.halfMast = false → s.boot.bring = none →
    ((s.die d).locked = true →
      let js := s.jobsOn d
      exec (.diePllLoss d) s = .next ((if js = [] then [0] else js).foldl
        (fun t j => t.report ⟨d + 1, 0x08, srcOf 4 d, j, 20, 0, 0, 0⟩) (s.stopDie d))) ∧
    ((s.die d).locked = false → (s.die d).up = true → exec (.diePllRelock d) s = .next (s.lockDie d) ∧
      ((s.lockDie d).die d) = { s.die d with locked := true, count := 0, lockSeq := wrap 16 ((s.die d).lockSeq + 1) })) ∧
  (∀ s : State, s.hubRuns = true → exec .hubPllLoss s =
    .next ((({ s with hubPllLost := true } : State).raiseAlert 8).report ⟨0, 0x0D, srcOf 8 2, 0, 20, 0, 0, 0⟩))

/-- R455 to R471, R520: heat. Estimates and forecasts of the model come with the command; that of R460 bounds them. -/
def Obligations.thermalRounds : Prop :=
  (∀ s : State, s.heatRuns = true →
    (∀ d r, d < 5 → s.halfMast = false → (s.die d).up = true →
      let t := (s.endViaRound d).upsetScratch d r.scratch
      (t.routeUp d 5 = true → exec (.dieHousekeepingRound d r) s =
        .next (({ t with thm := { t.thm with seen := tput t.thm.seen d true } } : State).readAll (roundKeys d r))) ∧
      (t.routeUp d 5 = false → exec (.dieHousekeepingRound d r) s = .next (t.tripAny (roundKeys d r)))) ∧
    (∀ r : HubRound,
      let a := ((s.readWater r).readInput r).readAll ((List.range 4).map fun i => (3000 + i, r.hub.getD i none))
      a.halfMast = false →
        (a.pwr.shutdown = true → exec (.hubRound r) s = .next a) ∧
        (a.pwr.shutdown = false →
          let b := a.noteMissing r
          let keys := b.spotKeys
          let e := keys.foldl (fun u k => u.stepSpot r (u.deadHoist (spotHoist k)) k) b
          let g := (e.liveClusters.foldl State.setBands e).formFlow.formFlowLow
          exec (.hubRound r) s =
            .next (({ g with pairs := tmap (fun _ x => { x with round := [] }) g.pairs } : State).actOnHeat r keys))) ∧
    (∀ h, h < 20 →
      let x := s.clu h
      ((s.die (h / 4)).locked = true → s.halfMast = false → x.mhz ≠ x.target → exec (.clockChange h) s =
        .next ((s.setClu h { x with mhz := x.target, changes := wrap 16 (x.changes + 1) }).setLimits h (limitAt x.dip))) ∧
      (x.mhz = x.target → exec (.clockChange h) s = .next s)) ∧
    (50 ≤ s.pwr.rounds → exec .capUpdate s = .next s.updateCap) ∧ (s.pwr.rounds < 50 → exec .capUpdate s = .next s) ∧
    (s.pwr.emergency = true → 50 ≤ s.pwr.cool → exec .emergencyEnd s =
      .next ({ s with pwr := { s.pwr with emergency := false } } : State).coolantAlert) ∧
    (s.pwr.emergency = false ∨ s.pwr.cool < 50 → exec .emergencyEnd s = .next s) ∧
    (s.halfMast = false → s.pwr.clamp = false →
      let t := s.liveClusters.foldl (fun u h => (u.setDip h 15).takeClock h) s
      exec .overcurrentClamp s = .next ({ t with
        pwr := { t.pwr with clamp := true, clamps := sat 16 (t.pwr.clamps + 1) } } : State).formPwrState) ∧
    (∀ site dram temp, site < 22 → s.boot.state ≠ 4 →
      ((if dram then 440 else 460) ≤ temp → exec (.thermalTrip site dram temp) s = .next (s.thermalShutdown dram site temp)) ∧
      (temp < (if dram then 440 else 460) → exec (.thermalTrip site dram temp) s = .next s)) ∧
    (∀ gap, 108 ≤ gap → exec (.flowTachEdge gap) s =
      .next ({ s with thm := { s.thm with edges := s.thm.edges ++ [s.hubCount] } } : State).formFlow) ∧
    (∀ f, 100 ≤ f → f ≤ 10000 → exec (.tachFactorSet f) s = .next { s with thm := { s.thm with tach := some f } })) ∧
  (clockAt 0 = maxMhz ∧ clockAt 15 = 500 ∧ (∀ d, d < 15 → clockAt (d + 1) ≤ clockAt d) ∧ limitAt 0 = 32 ∧ limitAt 15 = 8)

/-- R434 to R451, R474 to R476: resets and half-mast. -/
def Obligations.powerStates : Prop :=
  (∀ s : State, s.struck = false →
    exec .perstNAssert s = .next (s.cutMailbox.resetModule true) ∧
    exec .inputLoss s = .next { s.cutMailbox.resetModule false with struck := true } ∧ exec .inputRestore s = .next s) ∧
  (∀ s : State, s.struck = true → exec .perstNAssert s = .next s ∧ exec .inputLoss s = .next s ∧
    (s.mtrPres = true → exec .inputRestore s = .next { s with struck := false }) ∧
    (s.mtrPres = false → exec .inputRestore s = .next s)) ∧
  (∀ (s : State) (latch : Bool), (s.resetModule latch).flash = s.flash ∧ (s.resetModule latch).meter = s.meter ∧ (s.resetModule latch).mtrPres = s.mtrPres ∧
    (s.resetModule latch).pwr.shutdown = (latch && s.pwr.shutdown) ∧ (s.resetModule latch).perstOut = false ∧
    (s.resetModule latch).jobs = [] ∧ (s.resetModule latch).ctxs = [] ∧ (s.resetModule latch).mem = []) ∧
  (∀ (s : State) (b : BootIn), s.struck = false → s.perstOut = false →
    let r := s.resetModule true
    let t : State := { r with perstOut := true, host := { r.host with bifur := b.strapBifur, addr := 0x60 + b.strapAddr % 4 } }
    (b.refclk = false → exec (.perstNDeassert b) s = .next (({ t with hubPllLost := true } : State).alertOn 8)) ∧
    (b.refclk = true → t.pwr.shutdown = true → exec (.perstNDeassert b) s = .next ((t.outcome b 3 1 0x15).alertOn 7)) ∧
    (b.refclk = true → t.pwr.shutdown = false →
      (∀ n, t.chooseSlot = some n → exec (.perstNDeassert b) s = .next (t.bringUp b n)) ∧
      (t.chooseSlot = none → exec (.perstNDeassert b) s = .next (t.recovery b)))) ∧
  (∀ (s : State) (c block : Nat) (good : Bool) (b : BootIn) (m : SlotInfo), c < 1440 → s.boot.bring = some (b, m) → s.hubRuns = true →
    let t := (s.rerequest c block good).reportRun c
    exec (.buntingRerequest c block good) s = .next (if t.boot.lacks.isEmpty then t.finishBoot b m else t)) ∧
  (∀ s : State, s.heatRuns = true →
    (s.jobActive = false → exec (.halfMastEntry true) s = .next s.startHalfMast) ∧
    (s.jobActive = true → exec (.halfMastEntry true) s = .next s) ∧
    (s.host.d3hot = true → exec (.halfMastEntry false) s = .next s.startHalfMast) ∧
    (s.pwr.state = 3 → s.restful = true → ∃ t, exec .halfMastDrained s = .next t ∧ t.halfMast = true ∧ t.pwr.state = 2) ∧
    (s.pwr.state ≠ 3 ∨ s.restful = false → exec .halfMastDrained s = .next s) ∧
    (s.inHalfMast = true → exec (.halfMastExit true) s = .next s.leaveHalfMast) ∧
    (s.inHalfMast = true → s.host.d3hot = false → exec (.halfMastExit false) s = .next s.leaveHalfMast) ∧
    (s.inHalfMast = false → ∀ b, exec (.halfMastExit b) s = .next s)) ∧
  (∀ (s : State) (id : Nat) (peers : List Nat), s.manages = true → exec (.fabricIdProvision id peers) s =
    .next { s with flash := { s.flash with fabricId := some (id % 256), fabricPeers := (peers.take 8).map (· % 256) } })

/-- R489 to R502, R510: meter board and trace. -/
def Obligations.meterAndTrace : Prop :=
  (∀ s : State, s.meter.off = false →
    exec .intervalRecord s = .next ((s.setMeter { s.meter with seconds := (s.meter.seconds / 900 + 1) * 900 }).issueRecord 1 []) ∧
    (∀ e, exec (.energyStore e) s = .next (s.setMeter { s.meter with energy := wrap 64 (s.meter.energy + e) })) ∧
    (∃ t, exec .coverOpening s = .next t ∧ t.meter.tamper = true ∧ t.meter.tampers = wrap 32 (s.meter.tampers + 1)) ∧
    (∃ t, exec (.meterSupplyEvent .lost) s = .next t ∧ t.meter.off = true ∧ t.meter.powerFails = wrap 32 (s.meter.powerFails + 1) ∧
      t.meter.seq = s.meter.seq + 1) ∧
    exec (.meterSupplyEvent .returned) s = .next s) ∧
  (∀ s : State, s.meter.off = true →
    exec .intervalRecord s = .next s ∧ (∀ e, exec (.energyStore e) s = .next s) ∧
    (s.mtrPres = true → ∃ t, exec (.meterSupplyEvent .returned) s = .next t ∧ t.meter.off = false ∧ t.meter.owed = 0) ∧
    exec (.meterSupplyEvent .lost) s = .next s ∧
    (∃ t, exec .coverOpening s = .next t ∧ t.meter.tamper = true ∧ t.meter.owed = s.meter.owed + 1 ∧ t.meter.seq = s.meter.seq)) ∧
  (∀ s : State,
    (s.struck = true → ∃ t, exec (.meterSupplyEvent .removed) s = .next t ∧ t.mtrPres = false ∧ t.meter.off = true) ∧
    (s.struck = false → exec (.meterSupplyEvent .removed) s = .next s) ∧
    (∀ b, s.struck = true → s.mtrPres = false →
      (b.id = s.meter.id → exec (.meterSupplyEvent (.fitted b)) s = .next { s with mtrPres := true }) ∧
      (b.id ≠ s.meter.id → ∃ t, exec (.meterSupplyEvent (.fitted b)) s = .next t ∧ t.mtrPres = true ∧ t.meter.id = b.id ∧
        t.meter.energy = b.energy ∧ t.meter.tamper = b.tamper ∧ t.meter.off = true)) ∧
    (∀ b, (s.struck = false ∨ s.mtrPres = true) → exec (.meterSupplyEvent (.fitted b)) s = .next s)) ∧
  (∀ (s : State) (k n : Nat), (s.mtrPres = true → s.askMeter k n = s.send (.meterRequest k n)) ∧ (s.mtrPres = false → s.askMeter k n = s)) ∧
  (∀ s : State, s.manages = true →
    (∀ m : MeterState, m.answers = true → s.meterMute = false →
      ∃ t, exec (.meterReadState m) s = .next t ∧ t.mtr.lost = false ∧ t.mtr.present = true ∧ t.mtr.energy = s.meter.energy ∧
        t.mtr.tamper = s.meter.tamper ∧ t.mtr.updates = wrap 16 (s.mtr.updates + 1) ∧ t.mtr.volt = m.volt % 2 ^ 16 ∧
        t.mtr.power = m.power % 2 ^ 16) ∧
    (∀ m : MeterState, (m.answers = false ∨ s.meterMute = true) → exec (.meterReadState m) s = .next (s.askMeter 0 0)) ∧
    (∀ n b, s.meterMute = false → s.meter.record n = some b →
      (s.mtr.answers b = false → exec (.meterReadRecord n) s = .next { s.askMeter 1 n with mtr := s.mtr.keep b }) ∧
      (s.mtr.answers b = true → exec (.meterReadRecord n) s =
        .next (({ s.askMeter 1 n with mtr := { s.mtr.keep b with demand := none } } : State).send (.meterAnswer b)))) ∧
    (∀ n, s.meterMute = true ∨ s.meter.record n = none → exec (.meterReadRecord n) s = .next (s.askMeter 1 n)) ∧
    (s.meterMute = true → exec .meterReadCert s = .next (s.askMeter 2 0)) ∧
    (s.meterMute = false → exec .meterReadCert s = .next { s.askMeter 2 0 with mtr := { s.mtr with cert := Config.meterChain s.meter.id } }) ∧
    (∀ n e, s.meterMute = false → s.meter.log[n]? = some e →
      exec (.meterReadLog n) s = .next ((s.askMeter 4 n).send (.meterAnswer e))) ∧
    (∀ nonce d, s.mtr.demand = some d → exec (.meterDemand nonce) s = .next (s.send .meterBusy)) ∧
    (∀ nonce, s.mtr.demand = none →
      (s.meterMute = true → s.mtr.lost = true → exec (.meterDemand nonce) s = .next (s.askMeter 3 0)) ∧
      (s.meterMute = true → s.mtr.lost = false → exec (.meterDemand nonce) s =
        .next { s.askMeter 3 0 with mtr := { s.mtr with demand := some (fitBytes 32 nonce) } }) ∧
      (s.meterMute = false → exec (.meterDemand nonce) s =
        .next (({ s.askMeter 3 0 with mtr := { s.mtr with demand := some (fitBytes 32 nonce) } } : State).meterTime.issueRecord 2 nonce))) ∧
    (s.mtr.lost = false → exec .meterLost s = .next (({ s with
      mtr := { s.mtr with lost := true, updates := wrap 16 (s.mtr.updates + 1), demand := none } } : State).meterAlerts))) ∧
  (∀ (s : State) (d : Nat), d < 5 → s.dieRuns d = true →
    (∃ t, exec (.traceRecordWrite d) s = .next t ∧
      (∀ c, c < 256 → tget t.trc.cores (256 * d + c) = s.coreRecord (256 * d + c)) ∧
      (∀ h, h < 4 → tget t.trc.clus (4 * d + h) = s.clusterRecord (4 * d + h)) ∧ t.mem = s.mem ∧ t.cores = s.cores) ∧
    (s.bothWays 5 d = true → ∀ n, ∃ t r, exec (.syncRequest d n) s = .next t ∧ tget t.trc.sync d = r ∧ r.valid = true ∧
      r.t1 = s.hubCount ∧ r.t2 = wrap 64 (s.hubCount + n) ∧ r.lockSeq = (s.die d).lockSeq)) ∧
  (∀ (s : State) (lane : Nat), lane < 4 → exec (.traceIdle lane) s = .next (s.traceFrame 5 5 lane []))

/-- R324 to R338, R419: the serving runtime. What the model computes comes with the commands; what of the pennant runtime the spec
leaves open is in log entry 84. -/
def Obligations.servingCommands : Prop :=
  ∀ (s : State) (j : Nat), j < 256 →
    (∀ ds es, (s.guidonRuns j).isSome = true →
      let seen := fun (t : State) (b : Bytes) => t.setServing j { t.serving j with known := tput (t.serving j).known (leAt b 4 4) (leAt b 8 4) }
      let goes := fun (t : State) => (t.serving j).stale = false ∧ (t.serving j).copies ≠ []
      (∀ t b, s.takeEvent j 1 = some (t, b) →
        (goes (seen t b) → exec (.doorbellEvent j ds es) s = .next ((((seen t b).rebuildCopies j).tidyPennants j).visit j es ds [])) ∧
        (¬goes (seen t b) → exec (.doorbellEvent j ds es) s = .next (seen t b))) ∧
      (s.takeEvent j 1 = none →
        (goes s → exec (.doorbellEvent j ds es) s = .next (((s.rebuildCopies j).tidyPennants j).visit j es ds [])) ∧
        (¬goes s → exec (.doorbellEvent j ds es) s = .next s))) ∧
    (∀ t b, s.takeEvent j 2 = some (t, b) →
      let u := t.forgetPennants j
      exec (.restartedEvent j) s = .next (u.setServing j { u.serving j with restarts := leAt b 0x10 4, stale := false })) ∧
    (∀ t b, s.takeEvent j 3 = some (t, b) →
      let v := t.serving j
      (leAt b 0xD 1 = 0 → exec (.keyRotatedEvent j) s = .next (t.setServing j { v with payGen := leAt b 0xC 1 })) ∧
      (leAt b 0xD 1 ≠ 0 → exec (.keyRotatedEvent j) s = .next (t.setServing j { v with kvGen := leAt b 0xC 1 }))) ∧
    (∀ i r x, s.openOf j i 1 = some x → x.cancel = false → x.ready = false →
      let u := s.tidyPennants j
      (2 ^ 20 ≤ x.hist → exec (.reqGenerate j i r) s = .next (s.endReq j i ({ x with ready := true }.finish j 2))) ∧
      (x.hist < 2 ^ 20 →
        (s.stagesRun j = false → exec (.reqGenerate j i r) s = .next s) ∧
        (∀ t, s.stagesRun j = true → u.prefillChunk j i x r = some t → exec (.reqGenerate j i r) s = .next t) ∧
        (s.stagesRun j = true → u.prefillChunk j i x r = none → (u.serving j).evictable = none →
          exec (.reqGenerate j i r) s = .next u))) ∧
    (∀ i r x, s.openOf j i 2 = some x → x.cancel = false →
      let u := s.tidyPennants j
      (s.stagesRun j = false → exec (.reqPrefill j i r) s = .next s) ∧
      (∀ t, s.stagesRun j = true → u.prefillChunk j i x r = some t → exec (.reqPrefill j i r) s = .next t) ∧
      (s.stagesRun j = true → u.prefillChunk j i x r = none → (u.serving j).evictable = none →
        exec (.reqPrefill j i r) s = .next u)) ∧
    (∀ i r x, s.openOf j i 3 = some x → x.cancel = false → exec (.reqEmbed j i r) s =
      .next (s.writeOutput j i x (outBytes (4 * Config.embedWidth (s.job j).rc.bytes) r))) ∧
    (∀ i r x, s.openOf j i 4 = some x → x.cancel = false → exec (.reqTile j i r) s =
      .next (s.writeOutput j i x (outBytes (2 * leAt x.input 0 2 * leAt x.input 2 2 * Config.outChannels (s.job j).rc.bytes) r))) ∧
    (∀ i x, s.openOf j i 0 = some x →
      (x.cancel = true → exec (.reqCancel j i) s = .next (s.endReq j i (x.finish j 0x10))) ∧
      (x.cancel = false → exec (.reqCancel j i) s = .next s)) ∧
    (∀ i d x, s.openOf j i 1 = some x → s.stepReady x d = true → s.stagesRun j = true →
      let u := s.tidyPennants j
      let n := x.draftsOf d
      let old := x.hist - x.done
      let waits := u.awaited j x.lists x.done (old + n)
      (waits ≠ [] → exec (.verificationStep j i d) s = .next (u.claimAll j waits)) ∧
      (waits = [] → ∀ e, u.tentSeq j (x.area.getD 0) x.lists x.done (old + n) d.kv d.queries = some e →
        (e.1.unitsStopped j = true → exec (.verificationStep j i d) s = .next e.1) ∧
        (e.1.unitsStopped j = false →
          let r := decideStep (samplingOf x.input) x.toks.length (d.drafts.take n) d.draftLogits (d.logits.take (n + 1)) (inTokens x.input ++ x.toks) ([], 0, 0, false)
          let y := x.commit j (stopTokens x.input (u.job j).rc.bytes) r
          let c := if r.2.2.2 then 0 else old + min r.2.1 (y.toks.length - x.toks.length)
          let f := e.1.commitSeq j e.2 x.done (old + n) c
          (f.1.unitsStopped j = true → exec (.verificationStep j i d) s = .next f.1) ∧
          (f.1.unitsStopped j = false →
            let t := f.1.bumpTrace j 1 r.2.2.1
            let z := { y with lists := f.2, attend := e.2.attend, done := x.done + c }
            exec (.verificationStep j i d) s = .next (if z.ended then t.endReq j i z else t.setReq j i z))))) ∧
    (∀ i d x, s.openOf j i 1 = some x → s.stepReady x d = false ∨ s.stagesRun j = false →
      exec (.verificationStep j i d) s = .next s) ∧
    ((s.guidonRuns j).isSome = true → (s.serving j).stale = false →
      let v := s.serving j
      let put := fun (q : Nat) (b : Bytes) => (s.hostWrite (s.qe q).slotAt b).hostRead (s.qe q).slotAt 64
      (∀ i x q last img, v.reqs[i]? = some x → x.due = some (q, last, img) → x.wait = none → (x.ended || x.ready) = true → s.postable q = true →
        (last = true → x.gen ≠ (s.ctx (s.job j).rc.ctx).payGen →
          exec (.streamEntryPost j i) s = .next (s.setServing j { v with reqs := v.reqs.eraseIdx i })) ∧
        (last = false ∨ x.gen = (s.ctx (s.job j).rc.ctx).payGen →
          let e := put q (if last then sealCompletion (s.payKey j) img else sealStream (s.payKey j) img)
          exec (.streamEntryPost j i) s = .next (e.2.setReq j i { x with wait := some e.1 }))) ∧
      (∀ k r, v.replies[k]? = some r → r.wait = none → s.postable r.queue = true →
        let e := put r.queue r.img
        exec (.streamEntryPost j (v.reqs.length + k)) s =
          .next (e.2.setServing j { e.2.serving j with replies := (e.2.serving j).replies.set k { r with wait := some e.1 } })))

/-- The reset values of the register tables that are not zero, and the model's own reset values (DESIGN CHOICE: the core registers, log
entry 2; memory, log entry 3). -/
def Obligations.resetState : Prop :=
  let s := State.reset
  (bits (s.readReg 0x20) 56 4 = 1 ∧ bits (s.readReg 0x20) 60 4 = 0) ∧
  (bits (s.readReg 0x440000) 61 3 = 1 ∧ bits (s.readReg 0x440000) 32 4 = 0xF ∧ bits (s.readReg 0x440008) 40 12 = 0xFFF) ∧
  (s.readReg 0x440020 = BitVec.allOnes 64 ∧ s.readReg 0x440028 = 0xFFFF) ∧
  (s.readReg 0x280000 = 1 ∧ bits (s.readReg 0x600000) 48 16 = 1) ∧
  (∀ p, (s.hal p).reg 0x390 = 0x00A4CB80 ∧ ∀ c, bits (nbuReg (s.nbu p) (s.core c) 0) 0 6 = 32) ∧
  (s.perstOut = false ∧ (∀ c, s.backed c = false) ∧ s.pending = []) ∧
  (∀ c r, (s.core c).sreg r = 0 ∧ (s.core c).vreg r = 0 ∧ (s.core c).preg r = if r = 0 then BitVec.allOnes 64 else 0) ∧
  (∀ n, tget s.mem n = 0 ∧ tget s.flips n = 0 ∧ tget s.scratch n = 0) ∧ s.memOk = true ∧ s.queueOk

/-- No ordinary data ends a run: a command stops only where it names a core, cluster, die, port or context that does not exist. -/
def Obligations.faultsOnlyForMissingUnits : Prop :=
  ∀ (i : Instr) (s : State),
    (i.wellFormed = true → ∃ t, exec i s = .next t) ∧
    (i.wellFormed = false → exec i s = .fault .noUnit)

/-- The frame of the instructions that only compute on registers. The program counter and RUN may change; the trace counts of a core
may too. -/
def Obligations.registerFrames : Prop :=
  ∀ (s t : State) (c : Nat) (f : BitVec 56), Issues s c →
    let sc : List (Nat → BitVec 56 → Instr) := [.alu, .mul, .divide, .addi, .andi, .ori, .xori, .shi, .slti, .sltiu, .li, .liu, .lih, .jal, .jalr, .rdctr, .vmovs]
    let ve : List (Nat → BitVec 56 → Instr) := [.vint, .vfp, .vfma, .vfn, .vred, .vperm, .vbcast, .vcvt, .vplane]
    let x := s.core c
    let y := t.core c
    (∀ op ∈ sc ++ ve ++ [.vquant, .vcmp, .pred, .nop, .br], exec (op c f) s = .next t →
      t = { s with cores := t.cores, reports := t.reports, fresh := t.fresh } ∧ (∀ k, k ≠ c → t.core k = s.core k) ∧
      (y.a = x.a ∧ y.q = x.q ∧ y.m = x.m ∧ y.arr = x.arr ∧ y.blk = x.blk ∧ y.tickets = x.tickets ∧ y.ctx = x.ctx ∧
        y.epoch = x.epoch ∧ y.job = x.job ∧ y.sbuf = x.sbuf ∧ y.impr = x.impr) ∧
      (y.run ≠ 5 → y.exc = x.exc ∧ y.fw = x.fw ∧ y.sys = x.sys)) ∧
    (∀ op ∈ sc, exec (op c f) s = .next t →
      y.v = x.v ∧ y.p = x.p ∧ ∀ r, r ≠ fRD f → y.sreg r = x.sreg r) ∧
    (∀ op ∈ ve, exec (op c f) s = .next t →
      y.s = x.s ∧ y.p = x.p ∧ ∀ r, r ≠ fRD f → y.vreg r = x.vreg r) ∧
    (exec (.vquant c f) s = .next t → y.s = x.s ∧ y.p = x.p ∧ ∀ r, r ≠ fRD f → r ≠ fRC f → y.vreg r = x.vreg r) ∧
    (exec (.vcmp c f) s = .next t → y.s = x.s ∧ y.v = x.v ∧ ∀ r, r ≠ fRD f → y.preg r = x.preg r) ∧
    (exec (.pred c f) s = .next t → y.v = x.v ∧ ∀ r, r ≠ fRD f → y.sreg r = x.sreg r ∧ y.preg r = x.preg r) ∧
    (∀ op ∈ [Instr.nop, .br], exec (op c f) s = .next t → y.s = x.s ∧ y.v = x.v ∧ y.p = x.p)

/-- The frame of ST and VST, for every path: `storesByte` and `storesScratch` give the addresses by the same decoding as the meaning.
A code word that waits in a merge buffer may be flushed by the store, and older requests are served before it (R192, R213). -/
def Obligations.storeFrames : Prop :=
  ∀ (s t : State) (c : Nat) (f : BitVec 56), Issues s c →
    let u := s.goOn c
    let x := s.seen c
    let frame := fun (i : Instr) (a : MemAcc) =>
      (a.path = 2 ∨ a.space ≠ 0xFF) → exec i s = .next t →
        (∀ k, (s.core k).wait = none → SameRegs (t.core k) (s.core k)) ∧
        (∀ n, ¬ u.storesByte c a n → ¬ s.waitsAt n →
          (allZero (s.wordFlips (n / 32)) = true ∨ ∀ b, b < 32 → ¬ u.storesByte c a (n / 32 * 32 + b)) → tget t.mem n = tget s.mem n) ∧
        (∀ w, (∀ b, b < 32 → ¬ u.storesByte c a (w * 32 + b) ∧ ¬ s.waitsAt (w * 32 + b)) → t.wordFlips w = s.wordFlips w) ∧
        (∀ n, ¬ u.storesScratch c a n → tget t.scratch n = tget s.scratch n) ∧
        (a.path = 2 → t.mem = s.mem ∧ t.flips = s.flips)
    frame (.st c f) (accS f x) ∧ frame (.vst c f) (accV f x)

/-- The invariant of the byte memories, `State.memOk`: keys strictly rising, no entry that reads as an unlisted one, so that equal
memories are equal data; no command puts another command into the queue. -/
def Obligations.stepKeepsInvariant : Prop :=
  ∀ s t : State, step s = .next t →
    (s.memOk = true → t.memOk = true) ∧ t.pending = s.pending.tail
end

