-- ==== Sys2Proof/Laws/Cipher.lean ====
section
/-! SUPPORT. Lengths in AES-256-GCM: a round key and a block have 16 bytes, a key stream the length asked for, a tag 16 bytes. -/

namespace Sys2Proof.Machine

@[simp] theorem xorList_length (a b : List Nat) : (xorList a b).length = min a.length b.length := by
  simp [xorList]

@[simp] theorem aesShift_length (st : List Nat) : (aesShift st).length = 16 := by simp [aesShift]
@[simp] theorem aesMix_length (st : List Nat) : (aesMix st).length = 16 := by simp [aesMix]
@[simp] theorem beList_length (n x : Nat) : (beList n x).length = n := by simp [beList]
@[simp] theorem gcmBlock_length (iv : Bytes) (i : Nat) : (gcmBlock iv i).length = 16 := by simp [gcmBlock]

theorem getD_length_of_all {l : List (List Nat)} {i n : Nat} (h : ∀ x ∈ l, x.length = n) (hi : i < l.length) :
    (l.getD i []).length = n := by
  simp only [List.getD_eq_getElem?_getD, List.getElem?_eq_getElem hi, Option.getD_some]
  exact h _ (List.getElem_mem hi)

/-- The key schedule grows by words of 4 bytes. -/
theorem aesExpand_words (n i : Nat) (w : List (List Nat)) (h : ∀ x ∈ w, x.length = 4) (hw : 8 ≤ w.length) :
    (aesExpand n i w).length = w.length + n ∧ ∀ x ∈ aesExpand n i w, x.length = 4 := by
  induction n generalizing i w with
  | zero => exact ⟨rfl, h⟩
  | succ n ih =>
    have h0 : (w.getD 0 []).length = 4 := getD_length_of_all h (by omega)
    have h7 : (w.getD 7 []).length = 4 := getD_length_of_all h (by omega)
    simp only [aesExpand]
    refine (ih _ _ ?_ ?_).imp (fun e => ?_) id
    · intro x hx
      rcases List.mem_cons.1 hx with rfl | hx
      · rw [xorList_length, h7]
        split <;> (try split) <;> simp [-List.getD_eq_getElem?_getD, h0]
      · exact h x hx
    · simp; omega
    · simp at e ⊢; omega

theorem flatten_length_of_all {l : List (List Nat)} {n : Nat} (h : ∀ x ∈ l, x.length = n) : l.flatten.length = l.length * n := by
  induction l with
  | nil => simp
  | cons a l ih =>
    have := ih fun x hx => h x (List.mem_cons_of_mem _ hx)
    have := h a List.mem_cons_self
    simp_all [Nat.succ_mul]; omega

/-- 15 round keys of 16 bytes. -/
theorem aesKeys_length (key : Bytes) : (aesKeys key).length = 15 ∧ ∀ k ∈ aesKeys key, k.length = 16 := by
  refine ⟨by simp [aesKeys], fun k hk => ?_⟩
  simp only [aesKeys, List.mem_map, List.mem_range] at hk
  obtain ⟨r, hr, rfl⟩ := hk
  have e := aesExpand_words 52 8 ((List.range 8).reverse.map fun i =>
    (((List.range 32).map fun i => (key.getD i 0).toNat).drop (4 * i)).take 4) (by
      intro x hx
      simp only [List.mem_map, List.mem_reverse, List.mem_range] at hx
      obtain ⟨i, hi, rfl⟩ := hx
      simp; omega) (by simp)
  rw [flatten_length_of_all (n := 4)]
  · have n := e.1
    simp only [List.length_map, List.length_reverse, List.length_range] at n
    rw [List.length_take, List.length_drop, List.length_reverse, n]; omega
  · intro x hx
    exact e.2 x (List.mem_reverse.1 (List.mem_of_mem_drop (List.mem_of_mem_take hx)))

theorem aesRounds_length (ks : List (List Nat)) (st : List Nat) (h : ∀ k ∈ ks, k.length = 16) (hn : ks ≠ []) :
    (aesRounds ks st).length = 16 := by
  induction ks generalizing st with
  | nil => exact absurd rfl hn
  | cons k ks ih =>
    cases ks with
    | nil => simp [aesRounds, h k]
    | cons k' ks => exact ih _ (fun x hx => h x (List.mem_cons_of_mem _ hx)) (by simp)

/-- A block under the round keys of a key has 16 bytes. -/
theorem aesBlock_length (key : Bytes) (b : List Nat) : (aesBlock (aesKeys key) b).length = 16 := by
  have h := aesKeys_length key
  cases e : aesKeys key with
  | nil => simp [e] at h
  | cons k ks =>
    rw [e] at h
    exact aesRounds_length ks _ (fun x hx => h.2 x (List.mem_cons_of_mem _ hx)) (by rintro rfl; simp at h)

@[simp] theorem keystream_length (key iv : Bytes) (n : Nat) : (keystream key iv n).length = n := by
  have e : ∀ m, ((List.range m).flatMap fun i => aesBlock (aesKeys key) (gcmBlock iv (i + 2))).length = m * 16 := by
    intro m
    induction m with
    | zero => rfl
    | succ m ih => rw [List.range_succ, List.flatMap_append, List.length_append, ih]; simp [aesBlock_length]; omega
  simp [keystream, e]; omega

@[simp] theorem gcmTag_length (key iv aad ct : Bytes) : (gcmTag key iv aad ct).length = 16 := by
  simp [gcmTag, aesBlock_length]

end Sys2Proof.Machine
end

