-- ==== Sys2Proof/Laws/Commands.lean ====
section
/-! SUPPORT. What the command registers of the host can do: the queue table, the mailbox and the windows. -/

namespace Sys2Proof.Machine

/-- Before the module is ready every queue command answers NOT_READY. -/
theorem queRun_notReady {s : State} {op : Nat} {w : Word} (hm : s.manages = true) (ho : bits w 62 2 = op)
    (hc : s.que.cmd = none ∨ s.que.cmd = some w) (hs : s.serves = false) (body : State → Nat → State × Nat) :
    queRun op w s body = .next (s.queDone 4) := by
  rcases hc with hc | hc <;> simp [queRun, hm, ho, hc, hs, State.queDone]

/-- Reserved bits of a queue command are PARAM. -/
theorem queRun_reserved {s : State} {op : Nat} {w : Word} (hm : s.manages = true) (ho : bits w 62 2 = op)
    (hc : s.que.cmd = none ∨ s.que.cmd = some w) (hs : s.serves = true) (hb : bits w 16 46 ≠ 0) (body : State → Nat → State × Nat) :
    queRun op w s body = .next (s.queDone 1) := by
  rcases hc with hc | hc <;> simp [queRun, hm, ho, hc, hs, hb, State.queDone]

/-- Otherwise it does what its body does, and answers with the body's CODE. -/
theorem queRun_runs {s : State} {op : Nat} {w : Word} (hm : s.manages = true) (ho : bits w 62 2 = op)
    (hc : s.que.cmd = none ∨ s.que.cmd = some w) (hs : s.serves = true) (hb : bits w 16 46 = 0) (body : State → Nat → State × Nat) :
    queRun op w s body = .next ((body s (bits w 0 16)).1.queDone (body s (bits w 0 16)).2) := by
  rcases hc with hc | hc <;> simp [queRun, hm, ho, hc, hs, hb, State.queDone]

/-- A mailbox command does what its body does with its ARG. -/
theorem mboxRun_runs {s : State} {op : Nat} {w : Word} (hh : s.hubRuns = true) (ho : bits w 60 4 = op)
    (hc : s.mbox.cmd = none ∨ s.mbox.cmd = some w) (body : State → Nat → State × Nat) :
    mboxRun op w s body = .next ((body s (bits w 0 13)).1.mboxDone (body s (bits w 0 13)).2) := by
  rcases hc with hc | hc <;> simp [mboxRun, hh, ho, hc, State.mboxDone]

/-- Reserved bits of a window command are PARAM. -/
theorem winRun_reserved {s : State} {op : Nat} {w : Word} (hl : s.linksRun = true) (ho : bits w 62 2 = op)
    (hc : s.lnk.cmd = none ∨ s.lnk.cmd = some w) (hb : bits w 24 37 ≠ 0 ∨ bits w 4 4 ≠ 0) (body : State → Nat → Nat → State × Nat) :
    winRun op w s body = .next (s.winDone 1) := by
  rcases hc with hc | hc <;> simp only [winRun, hl, ho, hc, State.winDone, if_pos hb] <;> simp

/-- A window command does what its body does for its peer and its window. -/
theorem winRun_runs {s : State} {op : Nat} {w : Word} (hl : s.linksRun = true) (ho : bits w 62 2 = op)
    (hc : s.lnk.cmd = none ∨ s.lnk.cmd = some w) (h1 : bits w 24 37 = 0) (h2 : bits w 4 4 = 0) (body : State → Nat → Nat → State × Nat) :
    winRun op w s body = .next ((body s (bits w 8 8) (bits w 0 4)).1.winDone (body s (bits w 8 8) (bits w 0 4)).2) := by
  rcases hc with hc | hc <;> simp [winRun, hl, ho, hc, h1, h2, State.winDone]

/-! Frames -/

/-- An old frame is dropped and counted. -/
theorem receive_replay {s : State} {p typ : Nat} {f : Frame} (h : Hears s p typ) (hf : f.ctr < (s.lport p).expects f) (body : State → State) :
    receive p typ f s body = .next (s.setLport p { s.lport p with replay := sat 16 ((s.lport p).replay + 1) }) := by
  unfold LPort.expects at hf
  simp [receive, Machine.unit, h.port, h.links, h.carries, hf]

/-- A frame from beyond the expected counter asks for the ones before it. -/
theorem receive_gap {s : State} {p typ : Nat} {f : Frame} (h : Hears s p typ) (hf : (s.lport p).expects f < f.ctr) (body : State → State) :
    receive p typ f s body = .next (s.sendNak p) := by
  unfold LPort.expects at hf
  simp [receive, Machine.unit, h.port, h.links, h.carries, hf, Nat.not_lt.mpr (Nat.le_of_lt hf)]

/-- The expected frame with a good tag is accepted and, where it is for this module, has its effect; held frames are then sent as their
credits allow. -/
theorem receive_accepts {s : State} {p typ : Nat} {f : Frame} (h : Hears s p typ) (hf : f.ctr = (s.lport p).expects f)
    (ht : (s.lport p).tagOk typ f = true) (body : State → State) :
    receive p typ f s body =
      .next (let t := s.setLport p ((s.lport p).accept typ { f with vc := vcOf typ })
             (if t.forMe f then body t else t).drainPort p) := by
  unfold LPort.expects at hf
  simp [receive, Machine.unit, h.port, h.links, h.carries, ← hf, ht]

/-- One with a bad tag is not accepted; the fourth in a row takes the port down. -/
theorem receive_badTag {s : State} {p typ : Nat} {f : Frame} (h : Hears s p typ) (hf : f.ctr = (s.lport p).expects f)
    (ht : (s.lport p).tagOk typ f = false) (body : State → State) :
    receive p typ f s body =
      .next (let t := (s.setLport p { s.lport p with tagFail := sat 16 ((s.lport p).tagFail + 1), fails := (s.lport p).fails + 1 }).sendNak p
             if 3 ≤ (s.lport p).fails then t.portDown p else t) := by
  unfold LPort.expects at hf
  simp [receive, Machine.unit, h.port, h.links, h.carries, ← hf, ht]

end Sys2Proof.Machine
end

