-- ==== Sys2Proof/Laws/Dispatch.lean ====
section
/-! SUPPORT. The dispatch, arm by arm: no later proof unfolds `exec`. -/

namespace Sys2Proof.Machine

variable (s : State)

@[simp] theorem exec_illegalOpcode (c : Nat) (w : Word) : exec (.illegalOpcode c w) s = execIllegalOpcode c w s := rfl
@[simp] theorem exec_alu (c : Nat) (f : BitVec 56) : exec (.alu c f) s = execAlu c f s := rfl
@[simp] theorem exec_mul (c : Nat) (f : BitVec 56) : exec (.mul c f) s = execMul c f s := rfl
@[simp] theorem exec_divide (c : Nat) (f : BitVec 56) : exec (.divide c f) s = execDivide c f s := rfl
@[simp] theorem exec_addi (c : Nat) (f : BitVec 56) : exec (.addi c f) s = execAddi c f s := rfl
@[simp] theorem exec_andi (c : Nat) (f : BitVec 56) : exec (.andi c f) s = execAndi c f s := rfl
@[simp] theorem exec_ori (c : Nat) (f : BitVec 56) : exec (.ori c f) s = execOri c f s := rfl
@[simp] theorem exec_xori (c : Nat) (f : BitVec 56) : exec (.xori c f) s = execXori c f s := rfl
@[simp] theorem exec_shi (c : Nat) (f : BitVec 56) : exec (.shi c f) s = execShi c f s := rfl
@[simp] theorem exec_slti (c : Nat) (f : BitVec 56) : exec (.slti c f) s = execSlti c f s := rfl
@[simp] theorem exec_sltiu (c : Nat) (f : BitVec 56) : exec (.sltiu c f) s = execSltiu c f s := rfl
@[simp] theorem exec_li (c : Nat) (f : BitVec 56) : exec (.li c f) s = execLi c f s := rfl
@[simp] theorem exec_liu (c : Nat) (f : BitVec 56) : exec (.liu c f) s = execLiu c f s := rfl
@[simp] theorem exec_lih (c : Nat) (f : BitVec 56) : exec (.lih c f) s = execLih c f s := rfl
@[simp] theorem exec_ld (c : Nat) (f : BitVec 56) : exec (.ld c f) s = execLd c f s := rfl
@[simp] theorem exec_st (c : Nat) (f : BitVec 56) : exec (.st c f) s = execSt c f s := rfl
@[simp] theorem exec_amo (c : Nat) (f : BitVec 56) : exec (.amo c f) s = execAmo c f s := rfl
@[simp] theorem exec_pred (c : Nat) (f : BitVec 56) : exec (.pred c f) s = execPred c f s := rfl
@[simp] theorem exec_vld (c : Nat) (f : BitVec 56) : exec (.vld c f) s = execVld c f s := rfl
@[simp] theorem exec_vst (c : Nat) (f : BitVec 56) : exec (.vst c f) s = execVst c f s := rfl
@[simp] theorem exec_vint (c : Nat) (f : BitVec 56) : exec (.vint c f) s = execVint c f s := rfl
@[simp] theorem exec_vfp (c : Nat) (f : BitVec 56) : exec (.vfp c f) s = execVfp c f s := rfl
@[simp] theorem exec_vfma (c : Nat) (f : BitVec 56) : exec (.vfma c f) s = execVfma c f s := rfl
@[simp] theorem exec_vfn (c : Nat) (f : BitVec 56) : exec (.vfn c f) s = execVfn c f s := rfl
@[simp] theorem exec_vcmp (c : Nat) (f : BitVec 56) : exec (.vcmp c f) s = execVcmp c f s := rfl
@[simp] theorem exec_vred (c : Nat) (f : BitVec 56) : exec (.vred c f) s = execVred c f s := rfl
@[simp] theorem exec_vperm (c : Nat) (f : BitVec 56) : exec (.vperm c f) s = execVperm c f s := rfl
@[simp] theorem exec_vbcast (c : Nat) (f : BitVec 56) : exec (.vbcast c f) s = execVbcast c f s := rfl
@[simp] theorem exec_vmovs (c : Nat) (f : BitVec 56) : exec (.vmovs c f) s = execVmovs c f s := rfl
@[simp] theorem exec_vcvt (c : Nat) (f : BitVec 56) : exec (.vcvt c f) s = execVcvt c f s := rfl
@[simp] theorem exec_vquant (c : Nat) (f : BitVec 56) : exec (.vquant c f) s = execVquant c f s := rfl
@[simp] theorem exec_vplane (c : Nat) (f : BitVec 56) : exec (.vplane c f) s = execVplane c f s := rfl
@[simp] theorem exec_nop (c : Nat) (f : BitVec 56) : exec (.nop c f) s = execNop c f s := rfl
@[simp] theorem exec_br (c : Nat) (f : BitVec 56) : exec (.br c f) s = execBr c f s := rfl
@[simp] theorem exec_jal (c : Nat) (f : BitVec 56) : exec (.jal c f) s = execJal c f s := rfl
@[simp] theorem exec_jalr (c : Nat) (f : BitVec 56) : exec (.jalr c f) s = execJalr c f s := rfl
@[simp] theorem exec_fence (c : Nat) (f : BitVec 56) : exec (.fence c f) s = execFence c f s := rfl
@[simp] theorem exec_rdctr (c : Nat) (f : BitVec 56) : exec (.rdctr c f) s = execRdctr c f s := rfl
@[simp] theorem exec_endRole (c : Nat) (f : BitVec 56) : exec (.endRole c f) s = execEndRole c f s := rfl
@[simp] theorem exec_sysr (c : Nat) (f : BitVec 56) : exec (.sysr c f) s = execSysr c f s := rfl
@[simp] theorem exec_sysw (c : Nat) (f : BitVec 56) : exec (.sysw c f) s = execSysw c f s := rfl
@[simp] theorem exec_sclr (c : Nat) (f : BitVec 56) : exec (.sclr c f) s = execSclr c f s := rfl
@[simp] theorem exec_ctxset (c : Nat) (f : BitVec 56) : exec (.ctxset c f) s = execCtxset c f s := rfl
@[simp] theorem exec_uenter (c : Nat) (f : BitVec 56) : exec (.uenter c f) s = execUenter c f s := rfl
@[simp] theorem exec_mldw (c : Nat) (f : BitVec 56) : exec (.mldw c f) s = execMldw c f s := rfl
@[simp] theorem exec_blockShiftStart (c : Nat) : exec (.blockShiftStart c) s = execBlockShiftStart c s := rfl
@[simp] theorem exec_mop (c : Nat) (f : BitVec 56) : exec (.mop c f) s = execMop c f s := rfl
@[simp] theorem exec_arrayRowEnter (c : Nat) (arr : Nat) (flt : RowFault) : exec (.arrayRowEnter c arr flt) s = execArrayRowEnter c arr flt s := rfl
@[simp] theorem exec_mrd (c : Nat) (f : BitVec 56) : exec (.mrd c f) s = execMrd c f s := rfl
@[simp] theorem exec_mclr (c : Nat) (f : BitVec 56) : exec (.mclr c f) s = execMclr c f s := rfl
@[simp] theorem exec_qset (c : Nat) (f : BitVec 56) : exec (.qset c f) s = execQset c f s := rfl
@[simp] theorem exec_qget (c : Nat) (f : BitVec 56) : exec (.qget c f) s = execQget c f s := rfl
@[simp] theorem exec_qstart (c : Nat) (f : BitVec 56) : exec (.qstart c f) s = execQstart c f s := rfl
@[simp] theorem exec_qtake (c : Nat) (f : BitVec 56) : exec (.qtake c f) s = execQtake c f s := rfl
@[simp] theorem exec_qput (c : Nat) (f : BitVec 56) : exec (.qput c f) s = execQput c f s := rfl
@[simp] theorem exec_qcancel (c : Nat) (f : BitVec 56) : exec (.qcancel c f) s = execQcancel c f s := rfl
@[simp] theorem exec_streamPrefetch (c : Nat) (q : Nat) : exec (.streamPrefetch c q) s = execStreamPrefetch c q s := rfl
@[simp] theorem exec_streamLineArrive (c : Nat) (line : Nat) (u : List Upset) : exec (.streamLineArrive c line u) s = execStreamLineArrive c line u s := rfl
@[simp] theorem exec_streamWrite (c : Nat) (q : Nat) : exec (.streamWrite c q) s = execStreamWrite c q s := rfl
@[simp] theorem exec_gbind (c : Nat) (f : BitVec 56) : exec (.gbind c f) s = execGbind c f s := rfl
@[simp] theorem exec_gsendv (c : Nat) (f : BitVec 56) : exec (.gsendv c f) s = execGsendv c f s := rfl
@[simp] theorem exec_gsends (c : Nat) (f : BitVec 56) : exec (.gsends c f) s = execGsends c f s := rfl
@[simp] theorem exec_grecv (c : Nat) (f : BitVec 56) : exec (.grecv c f) s = execGrecv c f s := rfl
@[simp] theorem exec_grecvv (c : Nat) (f : BitVec 56) : exec (.grecvv c f) s = execGrecvv c f s := rfl
@[simp] theorem exec_gfree (c : Nat) (f : BitVec 56) : exec (.gfree c f) s = execGfree c f s := rfl
@[simp] theorem exec_gstat (c : Nat) (f : BitVec 56) : exec (.gstat c f) s = execGstat c f s := rfl
@[simp] theorem exec_msgArrive (i : Nat) : exec (.msgArrive i) s = execMsgArrive i s := rfl
@[simp] theorem exec_nackEpoch (i : Nat) : exec (.nackEpoch i) s = execNackEpoch i s := rfl
@[simp] theorem exec_creditRelease (i : Nat) : exec (.creditRelease i) s = execCreditRelease i s := rfl
@[simp] theorem exec_creditArrive (i : Nat) : exec (.creditArrive i) s = execCreditArrive i s := rfl
@[simp] theorem exec_nissue (c : Nat) (f : BitVec 56) : exec (.nissue c f) s = execNissue c f s := rfl
@[simp] theorem exec_nwait (c : Nat) (f : BitVec 56) : exec (.nwait c f) s = execNwait c f s := rfl
@[simp] theorem exec_nstat (c : Nat) (f : BitVec 56) : exec (.nstat c f) s = execNstat c f s := rfl
@[simp] theorem exec_impreciseException (c : Nat) : exec (.impreciseException c) s = execImpreciseException c s := rfl
@[simp] theorem exec_managementRequest (c : Nat) : exec (.managementRequest c) s = execManagementRequest c s := rfl
@[simp] theorem exec_bankProgramAdmit (c : Nat) : exec (.bankProgramAdmit c) s = execBankProgramAdmit c s := rfl
@[simp] theorem exec_earith (c : Nat) (b : Nat) : exec (.earith c b) s = execEarith c b s := rfl
@[simp] theorem exec_efma (c : Nat) (b : Nat) : exec (.efma c b) s = execEfma c b s := rfl
@[simp] theorem exec_efunc (c : Nat) (b : Nat) : exec (.efunc c b) s = execEfunc c b s := rfl
@[simp] theorem exec_erope (c : Nat) (b : Nat) : exec (.erope c b) s = execErope c b s := rfl
@[simp] theorem exec_ecvt (c : Nat) (b : Nat) : exec (.ecvt c b) s = execEcvt c b s := rfl
@[simp] theorem exec_nbRed (c : Nat) (b : Nat) : exec (.nbRed c b) s = execNbRed c b s := rfl
@[simp] theorem exec_nbFold (c : Nat) (b : Nat) : exec (.nbFold c b) s = execNbFold c b s := rfl
@[simp] theorem exec_fop (c : Nat) (b : Nat) : exec (.fop c b) s = execFop c b s := rfl
@[simp] theorem exec_xop (c : Nat) (b : Nat) : exec (.xop c b) s = execXop c b s := rfl
@[simp] theorem exec_nbLoop (c : Nat) (b : Nat) : exec (.nbLoop c b) s = execNbLoop c b s := rfl
@[simp] theorem exec_rowcpy (c : Nat) (b : Nat) : exec (.rowcpy c b) s = execRowcpy c b s := rfl
@[simp] theorem exec_skey (c : Nat) (b : Nat) : exec (.skey c b) s = execSkey c b s := rfl
@[simp] theorem exec_nbEnd (c : Nat) (b : Nat) : exec (.nbEnd c b) s = execNbEnd c b s := rfl
@[simp] theorem exec_nbBoundaryService (c : Nat) (b : Nat) : exec (.nbBoundaryService c b) s = execNbBoundaryService c b s := rfl
@[simp] theorem exec_nbPause (c : Nat) (b : Nat) : exec (.nbPause c b) s = execNbPause c b s := rfl
@[simp] theorem exec_nbResume (c : Nat) (b : Nat) : exec (.nbResume c b) s = execNbResume c b s := rfl
@[simp] theorem exec_halyardGrant (c : Nat) (u : List Upset) (mismatches : Nat) : exec (.halyardGrant c u mismatches) s = execHalyardGrant c u mismatches s := rfl
@[simp] theorem exec_correctedWriteback (c : Nat) : exec (.correctedWriteback c) s = execCorrectedWriteback c s := rfl
@[simp] theorem exec_mergeAgeFlush (c : Nat) : exec (.mergeAgeFlush c) s = execMergeAgeFlush c s := rfl
@[simp] theorem exec_sealedWriteConfirm (c : Nat) : exec (.sealedWriteConfirm c) s = execSealedWriteConfirm c s := rfl
@[simp] theorem exec_refreshDue (c : Nat) (b : Nat) : exec (.refreshDue c b) s = execRefreshDue c b s := rfl
@[simp] theorem exec_refreshOwedIssue (c : Nat) (b : Nat) : exec (.refreshOwedIssue c b) s = execRefreshOwedIssue c b s := rfl
@[simp] theorem exec_recalWindow (c : Nat) : exec (.recalWindow c) s = execRecalWindow c s := rfl
@[simp] theorem exec_scrubLine (c : Nat) (u : List Upset) : exec (.scrubLine c u) s = execScrubLine c u s := rfl
@[simp] theorem exec_scrubWriteback (c : Nat) : exec (.scrubWriteback c) s = execScrubWriteback c s := rfl
@[simp] theorem exec_regionMapWrite (c : Nat) (lo hi : Word) : exec (.regionMapWrite c lo hi) s = execRegionMapWrite c lo hi s := rfl
@[simp] theorem exec_testModeEnable (c : Nat) (mode : Nat) (b : TestRun) : exec (.testModeEnable c mode b) s = execTestModeEnable c mode b s := rfl
@[simp] theorem exec_ccAccess (h : Nat) (e : CacheErr) : exec (.ccAccess h e) s = execCcAccess h e s := rfl
@[simp] theorem exec_ccFill (h : Nat) (u : List Upset) : exec (.ccFill h u) s = execCcFill h u s := rfl
@[simp] theorem exec_ccInvalidate (i : Nat) : exec (.ccInvalidate i) s = execCcInvalidate i s := rfl
@[simp] theorem exec_ccContextInvalidate (h : Nat) (ctx : Nat) : exec (.ccContextInvalidate h ctx) s = execCcContextInvalidate h ctx s := rfl
@[simp] theorem exec_jobPlace (r : HostReply) : exec (.jobPlace r) s = execJobPlace r s := rfl
@[simp] theorem exec_jobRetire (j : Nat) : exec (.jobRetire j) s = execJobRetire j s := rfl
@[simp] theorem exec_faultReport (i : Nat) : exec (.faultReport i) s = execFaultReport i s := rfl
@[simp] theorem exec_jobRestart (j : Nat) : exec (.jobRestart j) s = execJobRestart j s := rfl
@[simp] theorem exec_faultRecordFree (col : Nat) (n : Nat) : exec (.faultRecordFree col n) s = execFaultRecordFree col n s := rfl
@[simp] theorem exec_segmentFaultNotice (inst : Nat) : exec (.segmentFaultNotice inst) s = execSegmentFaultNotice inst s := rfl
@[simp] theorem exec_windowEpochNotice (peer : Nat) (win : Nat) (epoch : Nat) : exec (.windowEpochNotice peer win epoch) s = execWindowEpochNotice peer win epoch s := rfl
@[simp] theorem exec_ctxCreate (w : Word) : exec (.ctxCreate w) s = execCtxCreate w s := rfl
@[simp] theorem exec_ctxDestroy (w : Word) : exec (.ctxDestroy w) s = execCtxDestroy w s := rfl
@[simp] theorem exec_bankGrant (w : Word) : exec (.bankGrant w) s = execBankGrant w s := rfl
@[simp] theorem exec_bankRevoke (w : Word) : exec (.bankRevoke w) s = execBankRevoke w s := rfl
@[simp] theorem exec_lowerHost (w : Word) : exec (.lowerHost w) s = execLowerHost w s := rfl
@[simp] theorem exec_kvRotate (w : Word) : exec (.kvRotate w) s = execKvRotate w s := rfl
@[simp] theorem exec_jobHold (w : Word) : exec (.jobHold w) s = execJobHold w s := rfl
@[simp] theorem exec_jobRelease (w : Word) : exec (.jobRelease w) s = execJobRelease w s := rfl
@[simp] theorem exec_ctxPage (w : Word) : exec (.ctxPage w) s = execCtxPage w s := rfl
@[simp] theorem exec_counterPageUpdate (powers : List Nat) : exec (.counterPageUpdate powers) s = execCounterPageUpdate powers s := rfl
@[simp] theorem exec_sessionBind (sess : Nat) (ctx : Nat) (creation : Nat) (secret : Bytes) : exec (.sessionBind sess ctx creation secret) s = execSessionBind sess ctx creation secret s := rfl
@[simp] theorem exec_sessionReport (sess : Nat) : exec (.sessionReport sess) s = execSessionReport sess s := rfl
@[simp] theorem exec_payloadSet (sess : Nat) (key : Bytes) : exec (.payloadSet sess key) s = execPayloadSet sess key s := rfl
@[simp] theorem exec_payloadRetire (sess : Nat) : exec (.payloadRetire sess) s = execPayloadRetire sess s := rfl
@[simp] theorem exec_sessionKvRotate (sess : Nat) : exec (.sessionKvRotate sess) s = execSessionKvRotate sess s := rfl
@[simp] theorem exec_measure (sess : Nat) (da : Nat) (len : Nat) : exec (.measure sess da len) s = execMeasure sess da len s := rfl
@[simp] theorem exec_payloadRotation (ctx : Nat) : exec (.payloadRotation ctx) s = execPayloadRotation ctx s := rfl
@[simp] theorem exec_getCertificate (off : Nat) (len : Nat) : exec (.getCertificate off len) s = execGetCertificate off len s := rfl
@[simp] theorem exec_challenge (nonce : Bytes) : exec (.challenge nonce) s = execChallenge nonce s := rfl
@[simp] theorem exec_getMeasurements (idx : Nat) (nonce : Bytes) : exec (.getMeasurements idx nonce) s = execGetMeasurements idx nonce s := rfl
@[simp] theorem exec_keyExchange (rootPort : Bool) (req : Bytes) : exec (.keyExchange rootPort req) s = execKeyExchange rootPort req s := rfl
@[simp] theorem exec_keyUpdate (sess : Nat) : exec (.keyUpdate sess) s = execKeyUpdate sess s := rfl
@[simp] theorem exec_heartbeat (sess : Nat) : exec (.heartbeat sess) s = execHeartbeat sess s := rfl
@[simp] theorem exec_ideKm (sess : Nat) (stream : Nat) (op : IdeOp) : exec (.ideKm sess stream op) s = execIdeKm sess stream op s := rfl
@[simp] theorem exec_configRequest (fn : Nat) (wr : Bool) (off v : Nat) : exec (.configRequest fn wr off v) s = execConfigRequest fn wr off v s := rfl
@[simp] theorem exec_bar2Read (off : Nat) (len : Nat) (secure : Bool) : exec (.bar2Read off len secure) s = execBar2Read off len secure s := rfl
@[simp] theorem exec_bar2Write (off : Nat) (d : Bytes) (secure : Bool) : exec (.bar2Write off d secure) s = execBar2Write off d secure s := rfl
@[simp] theorem exec_registerWrite (off : Nat) (a : HostAcc) (v : Nat) : exec (.registerWrite off a v) s = execRegisterWrite off a v s := rfl
@[simp] theorem exec_function1Write (off : Nat) (v : Nat) : exec (.function1Write off v) s = execFunction1Write off v s := rfl
@[simp] theorem exec_atomicopRequest (bar : Nat) (off : Nat) : exec (.atomicopRequest bar off) s = execAtomicopRequest bar off s := rfl
@[simp] theorem exec_doorbell (off : Nat) (a : HostAcc) (v : Nat) : exec (.doorbell off a v) s = execDoorbell off a v s := rfl
@[simp] theorem exec_queueEventSend (j : Nat) : exec (.queueEventSend j) s = execQueueEventSend j s := rfl
@[simp] theorem exec_midxUpdate (i : Nat) : exec (.midxUpdate i) s = execMidxUpdate i s := rfl
@[simp] theorem exec_intDelayExpire (q : Nat) : exec (.intDelayExpire q) s = execIntDelayExpire q s := rfl
@[simp] theorem exec_queCreate (w : Word) : exec (.queCreate w) s = execQueCreate w s := rfl
@[simp] theorem exec_queDestroy (w : Word) : exec (.queDestroy w) s = execQueDestroy w s := rfl
@[simp] theorem exec_queRead (w : Word) : exec (.queRead w) s = execQueRead w s := rfl
@[simp] theorem exec_flrFunction0 : exec .flrFunction0 s = execFlrFunction0 s := rfl
@[simp] theorem exec_flrFunction1 : exec .flrFunction1 s = execFlrFunction1 s := rfl
@[simp] theorem exec_d3hotEntry : exec .d3hotEntry s = execD3hotEntry s := rfl
@[simp] theorem exec_d0Return : exec .d0Return s = execD0Return s := rfl
@[simp] theorem exec_guestWindowAccess (off : Nat) (a : HostAcc) (wr : Bool) (v : Nat) (resp : Option Nat) : exec (.guestWindowAccess off a wr v resp) s = execGuestWindowAccess off a wr v resp s := rfl
@[simp] theorem exec_guestTimeout : exec .guestTimeout s = execGuestTimeout s := rfl
@[simp] theorem exec_guestRequest (da : Nat) (len : Nat) (op : GuestOp) (d : Bytes) : exec (.guestRequest da len op d) s = execGuestRequest da len op d s := rfl
@[simp] theorem exec_dmaCopy (k : Nat) (d : HostReply) : exec (.dmaCopy k d) s = execDmaCopy k d s := rfl
@[simp] theorem exec_dmaFill (k : Nat) (d : HostReply) : exec (.dmaFill k d) s = execDmaFill k d s := rfl
@[simp] theorem exec_dmaCheck (k : Nat) (d : HostReply) : exec (.dmaCheck k d) s = execDmaCheck k d s := rfl
@[simp] theorem exec_bandToPlanar (k : Nat) (d : HostReply) : exec (.bandToPlanar k d) s = execBandToPlanar k d s := rfl
@[simp] theorem exec_planarToBand (k : Nat) (d : HostReply) : exec (.planarToBand k d) s = execPlanarToBand k d s := rfl
@[simp] theorem exec_planeSplit (k : Nat) (d : HostReply) : exec (.planeSplit k d) s = execPlaneSplit k d s := rfl
@[simp] theorem exec_planeMerge (k : Nat) (d : HostReply) : exec (.planeMerge k d) s = execPlaneMerge k d s := rfl
@[simp] theorem exec_sealPayload (k : Nat) (d : HostReply) : exec (.sealPayload k d) s = execSealPayload k d s := rfl
@[simp] theorem exec_openPayload (k : Nat) (d : HostReply) : exec (.openPayload k d) s = execOpenPayload k d s := rfl
@[simp] theorem exec_pseal (k : Nat) (d : HostReply) : exec (.pseal k d) s = execPseal k d s := rfl
@[simp] theorem exec_popen (k : Nat) (d : HostReply) : exec (.popen k d) s = execPopen k d s := rfl
@[simp] theorem exec_prewrap (k : Nat) (d : HostReply) : exec (.prewrap k d) s = execPrewrap k d s := rfl
@[simp] theorem exec_pdiscard (k : Nat) (d : HostReply) : exec (.pdiscard k d) s = execPdiscard k d s := rfl
@[simp] theorem exec_descriptorComplete (k : Nat) : exec (.descriptorComplete k) s = execDescriptorComplete k s := rfl
@[simp] theorem exec_dmaProdWrite (ch : Nat) (a : HostAcc) (v : Nat) : exec (.dmaProdWrite ch a v) s = execDmaProdWrite ch a v s := rfl
@[simp] theorem exec_descriptorResume : exec .descriptorResume s = execDescriptorResume s := rfl
@[simp] theorem exec_channelDisable (k : Nat) : exec (.channelDisable k) s = execChannelDisable k s := rfl
@[simp] theorem exec_channelEnable (k : Nat) (ctl ring : Word) : exec (.channelEnable k ctl ring) s = execChannelEnable k ctl ring s := rfl
@[simp] theorem exec_crcModeSet : exec .crcModeSet s = execCrcModeSet s := rfl
@[simp] theorem exec_crcModeClear : exec .crcModeClear s = execCrcModeClear s := rfl
@[simp] theorem exec_crcValueWrite (n : Nat) (v : Word) : exec (.crcValueWrite n v) s = execCrcValueWrite n v s := rfl
@[simp] theorem exec_mboxReadLog (w : Word) : exec (.mboxReadLog w) s = execMboxReadLog w s := rfl
@[simp] theorem exec_mboxStage (w : Word) (slot : SlotInfo) : exec (.mboxStage w slot) s = execMboxStage w slot s := rfl
@[simp] theorem exec_mboxCommit (x : FlashOp) : exec (.mboxCommit x) s = execMboxCommit x s := rfl
@[simp] theorem exec_mboxAbort (x : FlashOp) : exec (.mboxAbort x) s = execMboxAbort x s := rfl
@[simp] theorem exec_windowCreate (w : Word) : exec (.windowCreate w) s = execWindowCreate w s := rfl
@[simp] theorem exec_windowDelete (w : Word) : exec (.windowDelete w) s = execWindowDelete w s := rfl
@[simp] theorem exec_portRetry (p : Nat) (r : PortFind) : exec (.portRetry p r) s = execPortRetry p r s := rfl
@[simp] theorem exec_frameWrite (p : Nat) (fr : Frame) : exec (.frameWrite p fr) s = execFrameWrite p fr s := rfl
@[simp] theorem exec_frameRead (p : Nat) (fr : Frame) : exec (.frameRead p fr) s = execFrameRead p fr s := rfl
@[simp] theorem exec_readCompletion (p : Nat) (fr : Frame) : exec (.readCompletion p fr) s = execReadCompletion p fr s := rfl
@[simp] theorem exec_writeAcknowledgement (p : Nat) (fr : Frame) : exec (.writeAcknowledgement p fr) s = execWriteAcknowledgement p fr s := rfl
@[simp] theorem exec_frameIdle (p : Nat) (fr : Frame) : exec (.frameIdle p fr) s = execFrameIdle p fr s := rfl
@[simp] theorem exec_frameManagement (p : Nat) (fr : Frame) : exec (.frameManagement p fr) s = execFrameManagement p fr s := rfl
@[simp] theorem exec_frameNak (p : Nat) (fr : Frame) : exec (.frameNak p fr) s = execFrameNak p fr s := rfl
@[simp] theorem exec_portKeyUpdate (p : Nat) : exec (.portKeyUpdate p) s = execPortKeyUpdate p s := rfl
@[simp] theorem exec_remoteTimeout (i : Nat) : exec (.remoteTimeout i) s = execRemoteTimeout i s := rfl
@[simp] theorem exec_d2dCrcFail (pair : Nat) (m : Nat) (lane : Nat) (retries : Nat) : exec (.d2dCrcFail pair m lane retries) s = execD2dCrcFail pair m lane retries s := rfl
@[simp] theorem exec_pairLost (pair : Nat) : exec (.pairLost pair) s = execPairLost pair s := rfl
@[simp] theorem exec_diePllLoss (d : Nat) : exec (.diePllLoss d) s = execDiePllLoss d s := rfl
@[simp] theorem exec_hubPllLoss : exec .hubPllLoss s = execHubPllLoss s := rfl
@[simp] theorem exec_dieHousekeepingRound (d : Nat) (r : DieRound) : exec (.dieHousekeepingRound d r) s = execDieHousekeepingRound d r s := rfl
@[simp] theorem exec_hubRound (r : HubRound) : exec (.hubRound r) s = execHubRound r s := rfl
@[simp] theorem exec_clockChange (h : Nat) : exec (.clockChange h) s = execClockChange h s := rfl
@[simp] theorem exec_capUpdate : exec .capUpdate s = execCapUpdate s := rfl
@[simp] theorem exec_emergencyEnd : exec .emergencyEnd s = execEmergencyEnd s := rfl
@[simp] theorem exec_overcurrentClamp : exec .overcurrentClamp s = execOvercurrentClamp s := rfl
@[simp] theorem exec_thermalTrip (site : Nat) (dram : Bool) (temp : Nat) : exec (.thermalTrip site dram temp) s = execThermalTrip site dram temp s := rfl
@[simp] theorem exec_halfMastEntry (pldm : Bool) : exec (.halfMastEntry pldm) s = execHalfMastEntry pldm s := rfl
@[simp] theorem exec_halfMastDrained : exec .halfMastDrained s = execHalfMastDrained s := rfl
@[simp] theorem exec_halfMastExit (pldm : Bool) : exec (.halfMastExit pldm) s = execHalfMastExit pldm s := rfl
@[simp] theorem exec_inputLoss : exec .inputLoss s = execInputLoss s := rfl
@[simp] theorem exec_inputRestore : exec .inputRestore s = execInputRestore s := rfl
@[simp] theorem exec_perstNAssert : exec .perstNAssert s = execPerstNAssert s := rfl
@[simp] theorem exec_perstNDeassert (b : BootIn) : exec (.perstNDeassert b) s = execPerstNDeassert b s := rfl
@[simp] theorem exec_buntingRerequest (c : Nat) (block : Nat) (good : Bool) : exec (.buntingRerequest c block good) s = execBuntingRerequest c block good s := rfl
@[simp] theorem exec_meterReadState (m : MeterState) : exec (.meterReadState m) s = execMeterReadState m s := rfl
@[simp] theorem exec_meterReadRecord (n : Nat) : exec (.meterReadRecord n) s = execMeterReadRecord n s := rfl
@[simp] theorem exec_meterReadCert : exec .meterReadCert s = execMeterReadCert s := rfl
@[simp] theorem exec_meterReadLog (n : Nat) : exec (.meterReadLog n) s = execMeterReadLog n s := rfl
@[simp] theorem exec_meterDemand (nonce : Bytes) : exec (.meterDemand nonce) s = execMeterDemand nonce s := rfl
@[simp] theorem exec_intervalRecord : exec .intervalRecord s = execIntervalRecord s := rfl
@[simp] theorem exec_coverOpening : exec .coverOpening s = execCoverOpening s := rfl
@[simp] theorem exec_meterSupplyEvent (e : MeterSupply) : exec (.meterSupplyEvent e) s = execMeterSupplyEvent e s := rfl
@[simp] theorem exec_energyStore (mwh : Nat) : exec (.energyStore mwh) s = execEnergyStore mwh s := rfl
@[simp] theorem exec_meterLost : exec .meterLost s = execMeterLost s := rfl
@[simp] theorem exec_traceRecordWrite (d : Nat) : exec (.traceRecordWrite d) s = execTraceRecordWrite d s := rfl
@[simp] theorem exec_syncRequest (d : Nat) (transit : Nat) : exec (.syncRequest d transit) s = execSyncRequest d transit s := rfl
@[simp] theorem exec_traceIdle (lane : Nat) : exec (.traceIdle lane) s = execTraceIdle lane s := rfl
@[simp] theorem exec_doorbellEvent (j : Nat) (ciphers : List HostReply) (entries : List Bytes) : exec (.doorbellEvent j ciphers entries) s = execDoorbellEvent j ciphers entries s := rfl
@[simp] theorem exec_restartedEvent (j : Nat) : exec (.restartedEvent j) s = execRestartedEvent j s := rfl
@[simp] theorem exec_keyRotatedEvent (j : Nat) : exec (.keyRotatedEvent j) s = execKeyRotatedEvent j s := rfl
@[simp] theorem exec_reqGenerate (j : Nat) (i : Nat) (r : ModelOut) : exec (.reqGenerate j i r) s = execReqGenerate j i r s := rfl
@[simp] theorem exec_reqPrefill (j : Nat) (i : Nat) (r : ModelOut) : exec (.reqPrefill j i r) s = execReqPrefill j i r s := rfl
@[simp] theorem exec_reqEmbed (j : Nat) (i : Nat) (r : ModelOut) : exec (.reqEmbed j i r) s = execReqEmbed j i r s := rfl
@[simp] theorem exec_reqTile (j : Nat) (i : Nat) (r : ModelOut) : exec (.reqTile j i r) s = execReqTile j i r s := rfl
@[simp] theorem exec_reqCancel (j : Nat) (i : Nat) : exec (.reqCancel j i) s = execReqCancel j i s := rfl
@[simp] theorem exec_verificationStep (j : Nat) (i : Nat) (d : SpecStep) : exec (.verificationStep j i d) s = execVerificationStep j i d s := rfl
@[simp] theorem exec_streamEntryPost (j : Nat) (i : Nat) : exec (.streamEntryPost j i) s = execStreamEntryPost j i s := rfl
@[simp] theorem exec_diePllRelock (d : Nat) : exec (.diePllRelock d) s = execDiePllRelock d s := rfl
@[simp] theorem exec_d2dModuleFail (pair : Nat) (m : Nat) : exec (.d2dModuleFail pair m) s = execD2dModuleFail pair m s := rfl
@[simp] theorem exec_hotReset : exec .hotReset s = execHotReset s := rfl
@[simp] theorem exec_pcieCompletion (tag : Nat) (r : HostReply) : exec (.pcieCompletion tag r) s = execPcieCompletion tag r s := rfl
@[simp] theorem exec_endSession (sess : Nat) : exec (.endSession sess) s = execEndSession sess s := rfl
@[simp] theorem exec_tachFactorSet (factor : Nat) : exec (.tachFactorSet factor) s = execTachFactorSet factor s := rfl
@[simp] theorem exec_fabricIdProvision (id : Nat) (peers : List Nat) : exec (.fabricIdProvision id peers) s = execFabricIdProvision id peers s := rfl
@[simp] theorem exec_flowTachEdge (gap : Nat) : exec (.flowTachEdge gap) s = execFlowTachEdge gap s := rfl
@[simp] theorem exec_scrubLapLate (c : Nat) : exec (.scrubLapLate c) s = execScrubLapLate c s := rfl
@[simp] theorem exec_msixVectorUnmask (v : Nat) : exec (.msixVectorUnmask v) s = execMsixVectorUnmask v s := rfl
@[simp] theorem exec_portSignalLoss (p : Nat) : exec (.portSignalLoss p) s = execPortSignalLoss p s := rfl

end Sys2Proof.Machine
end

