-- ==== Sys2Proof/Laws/Issue.lean ====
section
/-! SUPPORT. What the issue of an instruction can do. -/

namespace Sys2Proof.Machine

/-- What becomes of an instruction once its meaning has answered. -/
def State.finish (s : State) (c : Nat) : Ir → Host.Outcome State Fault Refusal
  | .held ev => .next (s.noteRun c (if ev then 4 else 3))
  | .exc s' cause addr => .next (s'.precise c cause addr)
  | .done s' => .next (s'.advance c)
  | .jump s' pc => .next (s'.setPc c pc)
  | .wait s' => .next s'

/-- A fetch that the instruction cache serves changes nothing. -/
theorem Issues.fetchWord {s : State} {c : Nat} (h : Issues s c) : s.fetchWord c = .ready s := by
  simp [State.fetchWord, h.fetch, h.held]

/-- An instruction that is presented for issue does what its meaning answers. -/
theorem runCore_issues {s : State} {c : Nat} (h : Issues s c) (body : State → Core → Ir) :
    runCore c s body = s.finish c (body (s.goOn c) (s.seen c)) := by
  simp only [runCore, Nat.not_le.mpr h.unit, h.can, h.fetchWord, if_false, Bool.not_true, Bool.false_eq_true]
  rfl

/-- A core that does not exist is a fault. -/
theorem runCore_noUnit {s : State} {c : Nat} (h : 1280 ≤ c) (body : State → Core → Ir) :
    runCore c s body = .fault .noUnit := by
  simp [runCore, h]

/-- A core that takes no instruction leaves the state as it is. -/
theorem runCore_silent {s : State} {c : Nat} (h : c < 1280) (hc : s.canIssue c = false) (body : State → Core → Ir) :
    runCore c s body = .next s := by
  simp [runCore, Nat.not_le.mpr h, hc]

/-- A fetch that is refused is a precise exception at pc, and the instruction has no other effect. -/
theorem runCore_fetchFails {s s' : State} {c cause : Nat} (h : c < 1280) (hc : s.canIssue c = true)
    (hf : s.fetchWord c = .fails s' cause) (body : State → Core → Ir) :
    runCore c s body = .next (s'.precise c cause (s.core c).pc) := by
  simp [runCore, Nat.not_le.mpr h, hc, hf]

/-- An instruction whose line is on its way waits. -/
theorem runCore_fetchWaits {s s' : State} {c : Nat} (h : c < 1280) (hc : s.canIssue c = true)
    (hf : s.fetchWord c = .waits s') (body : State → Core → Ir) : runCore c s body = .next s' := by
  simp [runCore, Nat.not_le.mpr h, hc, hf]

/-- One whose line has been filled does what its meaning answers in the state after the fill. -/
theorem runCore_filled {s s' : State} {c : Nat} (h : c < 1280) (hc : s.canIssue c = true)
    (hf : s.fetchWord c = .ready s') (body : State → Core → Ir) :
    runCore c s body = s'.finish c (body (s'.goOn c) (s'.seen c)) := by
  simp only [runCore, Nat.not_le.mpr h, hc, hf, if_false, Bool.not_true, Bool.false_eq_true]
  rfl

/-- Every answer of an existing core is a next state. -/
theorem runCore_next {s : State} {c : Nat} (h : c < 1280) (body : State → Core → Ir) :
    ∃ t, runCore c s body = .next t := by
  by_cases hc : s.canIssue c = true
  · cases hf : s.fetchWord c with
    | fails t k => exact ⟨_, runCore_fetchFails h hc hf body⟩
    | waits t => exact ⟨_, runCore_fetchWaits h hc hf body⟩
    | ready t =>
      rw [runCore_filled h hc hf]
      cases body (t.goOn c) (t.seen c) <;> exact ⟨_, rfl⟩
  · exact ⟨s, runCore_silent h (by simpa using hc) body⟩

@[simp] theorem legal_true (s : State) (k : Ir) : legal s true k = k := rfl
@[simp] theorem legal_false (s : State) (k : Ir) : legal s false k = .exc s causeIllegal 0 := rfl

/-- A privileged instruction in user mode: PRIV if its word is legal, ILLEGAL_OP if not. -/
theorem privileged_user {x : Core} (h : x.fw = false) (s : State) (ok : Bool) (k : Ir) :
    privileged s x ok k = .exc s (if ok then causePriv else causeIllegal) 0 := by
  cases ok <;> simp [privileged, legal, h]

/-- A legal privileged instruction in firmware mode has its effect. -/
theorem privileged_firmware {x : Core} (h : x.fw = true) (s : State) (k : Ir) : privileged s x true k = k := by
  simp [privileged, legal, h]

end Sys2Proof.Machine
end

