-- ==== Sys2Proof/Laws/Table.lean ====
section
/-! SUPPORT. Reads after writes of a sparse table, and its canonical form. -/

namespace Sys2Proof.Machine

variable {α : Type}

theorem tget_terase_ne [Inhabited α] (t : Tbl α) {k j : Nat} (h : j ≠ k) : tget (terase t k) j = tget t j := by
  induction t with
  | nil => rfl
  | cons e t ih =>
    obtain ⟨n, v⟩ := e
    by_cases hn : n = k
    · simp [terase, tget, hn, ih, Ne.symm h]
    · simp [terase, tget, hn, ih]

theorem tget_terase_self [Inhabited α] (t : Tbl α) (k : Nat) : tget (terase t k) k = default := by
  induction t with
  | nil => rfl
  | cons e t ih =>
    obtain ⟨n, v⟩ := e
    by_cases hn : n = k <;> simp [terase, tget, hn, ih]

theorem tget_tinsert_ne [Inhabited α] (t : Tbl α) {k j : Nat} (x : α) (h : j ≠ k) : tget (tinsert t k x) j = tget t j := by
  induction t with
  | nil => simp [tinsert, tget, Ne.symm h]
  | cons e t ih =>
    obtain ⟨n, v⟩ := e
    by_cases hn : k < n
    · simp [tinsert, tget, hn, Ne.symm h]
    · simp [tinsert, tget, hn, ih]

theorem tget_tinsert_terase [Inhabited α] (t : Tbl α) (k : Nat) (x : α) : tget (tinsert (terase t k) k x) k = x := by
  induction t with
  | nil => simp [terase, tinsert, tget]
  | cons e t ih =>
    obtain ⟨n, v⟩ := e
    by_cases hn : n = k
    · simp [terase, hn, ih]
    · by_cases hk : k < n
      · simp [terase, hn, tinsert, hk, tget]
      · simp [terase, hn, tinsert, hk, tget, ih]

theorem tabove_terase {t : Tbl α} {b : Nat} (k : Nat) (h : tabove b t = true) : tabove b (terase t k) = true := by
  induction t with
  | nil => rfl
  | cons e t ih =>
    obtain ⟨n, v⟩ := e
    simp only [tabove, Bool.and_eq_true, decide_eq_true_eq] at h
    by_cases hn : n = k <;> simp [terase, hn, tabove, ih h.2]
    exact h.1

theorem tabove_tinsert {t : Tbl α} {b k : Nat} (x : α) (hb : b < k) (h : tabove b t = true) : tabove b (tinsert t k x) = true := by
  induction t with
  | nil => simp [tinsert, tabove, hb]
  | cons e t ih =>
    obtain ⟨n, v⟩ := e
    simp only [tabove, Bool.and_eq_true, decide_eq_true_eq] at h
    by_cases hk : k < n
    · simp [tinsert, hk, tabove, h.1, h.2, hb]
    · simp [tinsert, hk, tabove, h.1, ih h.2]

theorem tabove_mono {t : Tbl α} {a b : Nat} (hab : a ≤ b) (h : tabove b t = true) : tabove a t = true := by
  induction t with
  | nil => rfl
  | cons e t ih =>
    obtain ⟨n, v⟩ := e
    simp only [tabove, Bool.and_eq_true, decide_eq_true_eq] at h ⊢
    exact ⟨by omega, ih h.2⟩

theorem tabove_filter {t : Tbl α} {b : Nat} (p : Nat × α → Bool) (h : tabove b t = true) : tabove b (t.filter p) = true := by
  induction t with
  | nil => rfl
  | cons e t ih =>
    simp only [tabove, Bool.and_eq_true, decide_eq_true_eq] at h
    by_cases hp : p e <;> simp [List.filter, hp, tabove, ih h.2]
    exact h.1

variable [Inhabited α] [DecidableEq α]

/-- A read after a write to the same key gives the value written. -/
@[simp] theorem tget_tput_self (t : Tbl α) (k : Nat) (x : α) : tget (tput t k x) k = x := by
  by_cases h : x = default
  · simp [tput, h, tget_terase_self]
  · simp [tput, h, tget_tinsert_terase]

/-- A write leaves every other key alone. -/
@[simp] theorem tget_tput_ne (t : Tbl α) {k j : Nat} (x : α) (h : j ≠ k) : tget (tput t k x) j = tget t j := by
  by_cases hx : x = default
  · simp [tput, hx, tget_terase_ne t h]
  · simp [tput, hx, tget_tinsert_ne _ x h, tget_terase_ne t h]

/-! The canonical form -/

theorem twf_terase {t : Tbl α} (k : Nat) (h : twf t = true) : twf (terase t k) = true := by
  induction t with
  | nil => rfl
  | cons e t ih =>
    obtain ⟨n, v⟩ := e
    simp only [twf, Bool.and_eq_true, decide_eq_true_eq] at h
    by_cases hn : n = k <;> simp [terase, hn, twf, ih h.2]
    exact ⟨h.1.1, tabove_terase k h.1.2⟩

theorem twf_tinsert {t : Tbl α} {k : Nat} {x : α} (hx : x ≠ default) (h : twf t = true) : twf (tinsert (terase t k) k x) = true := by
  induction t with
  | nil => simp [terase, tinsert, twf, tabove, hx]
  | cons e t ih =>
    obtain ⟨n, v⟩ := e
    simp only [twf, Bool.and_eq_true, decide_eq_true_eq] at h
    obtain ⟨⟨h1, h2⟩, h3⟩ := h
    by_cases hn : n = k
    · simpa [terase, hn] using ih h3
    · by_cases hk : k < n
      · simp [terase, hn, tinsert, hk, twf, tabove, hx, h1, tabove_terase k h2, tabove_terase k (tabove_mono (Nat.le_of_lt hk) h2), twf_terase k h3]
      · simp [terase, hn, tinsert, hk, twf, h1, ih h3, tabove_tinsert x (show n < k by omega) (tabove_terase k h2)]

/-- A write keeps the canonical form. -/
theorem twf_tput {t : Tbl α} (k : Nat) (x : α) (h : twf t = true) : twf (tput t k x) = true := by
  by_cases hx : x = default
  · simp [tput, hx, twf_terase k h]
  · simp [tput, hx, twf_tinsert hx h]

/-- A run of writes keeps it. -/
theorem twf_tputs (l : List α) : ∀ {t : Tbl α} (k : Nat), twf t = true → twf (tputs t k l) = true := by
  induction l with
  | nil => intro t k h; exact h
  | cons x l ih => intro t k h; exact ih (k + 1) (twf_tput k x h)

/-- Dropping entries keeps it. -/
theorem twf_filter {t : Tbl α} (p : Nat × α → Bool) (h : twf t = true) : twf (t.filter p) = true := by
  induction t with
  | nil => rfl
  | cons e t ih =>
    simp only [twf, Bool.and_eq_true, decide_eq_true_eq] at h
    by_cases hp : p e <;> simp [List.filter, hp, twf, ih h.2]
    exact ⟨h.1.1, tabove_filter p h.1.2⟩

theorem twf_tclear {t : Tbl α} (lo hi : Nat) (h : twf t = true) : twf (tclear t lo hi) = true := twf_filter _ h

theorem tabove_tmap {t : Tbl α} {b : Nat} (f : Nat → α → α) (h : tabove b t = true) : tabove b (tmap f t) = true := by
  induction t with
  | nil => rfl
  | cons e t ih =>
    obtain ⟨n, v⟩ := e
    simp only [tabove, Bool.and_eq_true, decide_eq_true_eq] at h
    by_cases hf : f n v = default <;> simp [tmap, hf, tabove, ih h.2]
    exact h.1

theorem twf_tmap {t : Tbl α} (f : Nat → α → α) (h : twf t = true) : twf (tmap f t) = true := by
  induction t with
  | nil => rfl
  | cons e t ih =>
    obtain ⟨n, v⟩ := e
    simp only [twf, Bool.and_eq_true, decide_eq_true_eq] at h
    by_cases hf : f n v = default <;> simp [tmap, hf, twf, ih h.2]
    exact tabove_tmap f h.1.2

end Sys2Proof.Machine
end

