-- ==== Sys2Proof/Laws/State.lean ====
section
/-! SUPPORT. One lemma per field of the state per update of a unit, and the reads of a unit after a write of one. -/

namespace Sys2Proof.Machine

variable (s : State)


/-! `State.setCore` -/

@[simp] theorem State.setCore_pending (c : Nat) (x : Core) : (s.setCore c x).pending = s.pending := rfl
@[simp] theorem State.setCore_tx (c : Nat) (x : Core) : (s.setCore c x).tx = s.tx := rfl
@[simp] theorem State.setCore_fresh (c : Nat) (x : Core) : (s.setCore c x).fresh = s.fresh := rfl
@[simp] theorem State.setCore_struck (c : Nat) (x : Core) : (s.setCore c x).struck = s.struck := rfl
@[simp] theorem State.setCore_perstOut (c : Nat) (x : Core) : (s.setCore c x).perstOut = s.perstOut := rfl
@[simp] theorem State.setCore_halfMast (c : Nat) (x : Core) : (s.setCore c x).halfMast = s.halfMast := rfl
@[simp] theorem State.setCore_hubCount (c : Nat) (x : Core) : (s.setCore c x).hubCount = s.hubCount := rfl
@[simp] theorem State.setCore_hubPllLost (c : Nat) (x : Core) : (s.setCore c x).hubPllLost = s.hubPllLost := rfl
@[simp] theorem State.setCore_boot (c : Nat) (x : Core) : (s.setCore c x).boot = s.boot := rfl
@[simp] theorem State.setCore_alert (c : Nat) (x : Core) : (s.setCore c x).alert = s.alert := rfl
@[simp] theorem State.setCore_accessErr (c : Nat) (x : Core) : (s.setCore c x).accessErr = s.accessErr := rfl
@[simp] theorem State.setCore_mbox (c : Nat) (x : Core) : (s.setCore c x).mbox = s.mbox := rfl
@[simp] theorem State.setCore_flash (c : Nat) (x : Core) : (s.setCore c x).flash = s.flash := rfl
@[simp] theorem State.setCore_mapGen (c : Nat) (x : Core) : (s.setCore c x).mapGen = s.mapGen := rfl
@[simp] theorem State.setCore_guestUp (c : Nat) (x : Core) : (s.setCore c x).guestUp = s.guestUp := rfl
@[simp] theorem State.setCore_map (c : Nat) (x : Core) : (s.setCore c x).map = s.map := rfl
@[simp] theorem State.setCore_dies (c : Nat) (x : Core) : (s.setCore c x).dies = s.dies := rfl
@[simp] theorem State.setCore_clus (c : Nat) (x : Core) : (s.setCore c x).clus = s.clus := rfl
@[simp] theorem State.setCore_cores (c : Nat) (x : Core) : (s.setCore c x).cores = tput s.cores c x := rfl
@[simp] theorem State.setCore_hals (c : Nat) (x : Core) : (s.setCore c x).hals = s.hals := rfl
@[simp] theorem State.setCore_nbus (c : Nat) (x : Core) : (s.setCore c x).nbus = s.nbus := rfl
@[simp] theorem State.setCore_mem (c : Nat) (x : Core) : (s.setCore c x).mem = s.mem := rfl
@[simp] theorem State.setCore_flips (c : Nat) (x : Core) : (s.setCore c x).flips = s.flips := rfl
@[simp] theorem State.setCore_scratch (c : Nat) (x : Core) : (s.setCore c x).scratch = s.scratch := rfl
@[simp] theorem State.setCore_scratchBad (c : Nat) (x : Core) : (s.setCore c x).scratchBad = s.scratchBad := rfl
@[simp] theorem State.setCore_scratchOne (c : Nat) (x : Core) : (s.setCore c x).scratchOne = s.scratchOne := rfl
@[simp] theorem State.setCore_caches (c : Nat) (x : Core) : (s.setCore c x).caches = s.caches := rfl
@[simp] theorem State.setCore_invals (c : Nat) (x : Core) : (s.setCore c x).invals = s.invals := rfl
@[simp] theorem State.setCore_net (c : Nat) (x : Core) : (s.setCore c x).net = s.net := rfl
@[simp] theorem State.setCore_jobs (c : Nat) (x : Core) : (s.setCore c x).jobs = s.jobs := rfl
@[simp] theorem State.setCore_place (c : Nat) (x : Core) : (s.setCore c x).place = s.place := rfl
@[simp] theorem State.setCore_ctxs (c : Nat) (x : Core) : (s.setCore c x).ctxs = s.ctxs := rfl
@[simp] theorem State.setCore_own (c : Nat) (x : Core) : (s.setCore c x).own = s.own := rfl
@[simp] theorem State.setCore_sec (c : Nat) (x : Core) : (s.setCore c x).sec = s.sec := rfl
@[simp] theorem State.setCore_sess (c : Nat) (x : Core) : (s.setCore c x).sess = s.sess := rfl
@[simp] theorem State.setCore_reports (c : Nat) (x : Core) : (s.setCore c x).reports = s.reports := rfl
@[simp] theorem State.setCore_flt (c : Nat) (x : Core) : (s.setCore c x).flt = s.flt := rfl
@[simp] theorem State.setCore_serve (c : Nat) (x : Core) : (s.setCore c x).serve = s.serve := rfl
@[simp] theorem State.setCore_dma (c : Nat) (x : Core) : (s.setCore c x).dma = s.dma := rfl
@[simp] theorem State.setCore_que (c : Nat) (x : Core) : (s.setCore c x).que = s.que := rfl
@[simp] theorem State.setCore_host (c : Nat) (x : Core) : (s.setCore c x).host = s.host := rfl
@[simp] theorem State.setCore_lnk (c : Nat) (x : Core) : (s.setCore c x).lnk = s.lnk := rfl
@[simp] theorem State.setCore_pairs (c : Nat) (x : Core) : (s.setCore c x).pairs = s.pairs := rfl
@[simp] theorem State.setCore_guest (c : Nat) (x : Core) : (s.setCore c x).guest = s.guest := rfl
@[simp] theorem State.setCore_thm (c : Nat) (x : Core) : (s.setCore c x).thm = s.thm := rfl
@[simp] theorem State.setCore_pwr (c : Nat) (x : Core) : (s.setCore c x).pwr = s.pwr := rfl
@[simp] theorem State.setCore_mtrPres (c : Nat) (x : Core) : (s.setCore c x).mtrPres = s.mtrPres := rfl
@[simp] theorem State.setCore_meter (c : Nat) (x : Core) : (s.setCore c x).meter = s.meter := rfl
@[simp] theorem State.setCore_mtr (c : Nat) (x : Core) : (s.setCore c x).mtr = s.mtr := rfl
@[simp] theorem State.setCore_trc (c : Nat) (x : Core) : (s.setCore c x).trc = s.trc := rfl
@[simp] theorem State.core_setCore_self (c : Nat) (x : Core) : (s.setCore c x).core c = x := by simp [State.core]
@[simp] theorem State.core_setCore_ne {c i : Nat} (x : Core) (h : i ≠ c) : (s.setCore c x).core i = s.core i := by simp [State.core, h]
@[simp] theorem State.hal_setCore (c i : Nat) (x : Core) : (s.setCore c x).hal i = s.hal i := rfl
@[simp] theorem State.nbu_setCore (c i : Nat) (x : Core) : (s.setCore c x).nbu i = s.nbu i := rfl
@[simp] theorem State.cache_setCore (c i : Nat) (x : Core) : (s.setCore c x).cache i = s.cache i := rfl
@[simp] theorem State.die_setCore (c i : Nat) (x : Core) : (s.setCore c x).die i = s.die i := rfl
@[simp] theorem State.clu_setCore (c i : Nat) (x : Core) : (s.setCore c x).clu i = s.clu i := rfl
@[simp] theorem State.job_setCore (c i : Nat) (x : Core) : (s.setCore c x).job i = s.job i := rfl
@[simp] theorem State.ctx_setCore (c i : Nat) (x : Core) : (s.setCore c x).ctx i = s.ctx i := rfl

/-! `State.setHal` -/

@[simp] theorem State.setHal_pending (p : Nat) (x : Hal) : (s.setHal p x).pending = s.pending := rfl
@[simp] theorem State.setHal_tx (p : Nat) (x : Hal) : (s.setHal p x).tx = s.tx := rfl
@[simp] theorem State.setHal_fresh (p : Nat) (x : Hal) : (s.setHal p x).fresh = s.fresh := rfl
@[simp] theorem State.setHal_struck (p : Nat) (x : Hal) : (s.setHal p x).struck = s.struck := rfl
@[simp] theorem State.setHal_perstOut (p : Nat) (x : Hal) : (s.setHal p x).perstOut = s.perstOut := rfl
@[simp] theorem State.setHal_halfMast (p : Nat) (x : Hal) : (s.setHal p x).halfMast = s.halfMast := rfl
@[simp] theorem State.setHal_hubCount (p : Nat) (x : Hal) : (s.setHal p x).hubCount = s.hubCount := rfl
@[simp] theorem State.setHal_hubPllLost (p : Nat) (x : Hal) : (s.setHal p x).hubPllLost = s.hubPllLost := rfl
@[simp] theorem State.setHal_boot (p : Nat) (x : Hal) : (s.setHal p x).boot = s.boot := rfl
@[simp] theorem State.setHal_alert (p : Nat) (x : Hal) : (s.setHal p x).alert = s.alert := rfl
@[simp] theorem State.setHal_accessErr (p : Nat) (x : Hal) : (s.setHal p x).accessErr = s.accessErr := rfl
@[simp] theorem State.setHal_mbox (p : Nat) (x : Hal) : (s.setHal p x).mbox = s.mbox := rfl
@[simp] theorem State.setHal_flash (p : Nat) (x : Hal) : (s.setHal p x).flash = s.flash := rfl
@[simp] theorem State.setHal_mapGen (p : Nat) (x : Hal) : (s.setHal p x).mapGen = s.mapGen := rfl
@[simp] theorem State.setHal_guestUp (p : Nat) (x : Hal) : (s.setHal p x).guestUp = s.guestUp := rfl
@[simp] theorem State.setHal_map (p : Nat) (x : Hal) : (s.setHal p x).map = s.map := rfl
@[simp] theorem State.setHal_dies (p : Nat) (x : Hal) : (s.setHal p x).dies = s.dies := rfl
@[simp] theorem State.setHal_clus (p : Nat) (x : Hal) : (s.setHal p x).clus = s.clus := rfl
@[simp] theorem State.setHal_cores (p : Nat) (x : Hal) : (s.setHal p x).cores = s.cores := rfl
@[simp] theorem State.setHal_hals (p : Nat) (x : Hal) : (s.setHal p x).hals = tput s.hals p x := rfl
@[simp] theorem State.setHal_nbus (p : Nat) (x : Hal) : (s.setHal p x).nbus = s.nbus := rfl
@[simp] theorem State.setHal_mem (p : Nat) (x : Hal) : (s.setHal p x).mem = s.mem := rfl
@[simp] theorem State.setHal_flips (p : Nat) (x : Hal) : (s.setHal p x).flips = s.flips := rfl
@[simp] theorem State.setHal_scratch (p : Nat) (x : Hal) : (s.setHal p x).scratch = s.scratch := rfl
@[simp] theorem State.setHal_scratchBad (p : Nat) (x : Hal) : (s.setHal p x).scratchBad = s.scratchBad := rfl
@[simp] theorem State.setHal_scratchOne (p : Nat) (x : Hal) : (s.setHal p x).scratchOne = s.scratchOne := rfl
@[simp] theorem State.setHal_caches (p : Nat) (x : Hal) : (s.setHal p x).caches = s.caches := rfl
@[simp] theorem State.setHal_invals (p : Nat) (x : Hal) : (s.setHal p x).invals = s.invals := rfl
@[simp] theorem State.setHal_net (p : Nat) (x : Hal) : (s.setHal p x).net = s.net := rfl
@[simp] theorem State.setHal_jobs (p : Nat) (x : Hal) : (s.setHal p x).jobs = s.jobs := rfl
@[simp] theorem State.setHal_place (p : Nat) (x : Hal) : (s.setHal p x).place = s.place := rfl
@[simp] theorem State.setHal_ctxs (p : Nat) (x : Hal) : (s.setHal p x).ctxs = s.ctxs := rfl
@[simp] theorem State.setHal_own (p : Nat) (x : Hal) : (s.setHal p x).own = s.own := rfl
@[simp] theorem State.setHal_sec (p : Nat) (x : Hal) : (s.setHal p x).sec = s.sec := rfl
@[simp] theorem State.setHal_sess (p : Nat) (x : Hal) : (s.setHal p x).sess = s.sess := rfl
@[simp] theorem State.setHal_reports (p : Nat) (x : Hal) : (s.setHal p x).reports = s.reports := rfl
@[simp] theorem State.setHal_flt (p : Nat) (x : Hal) : (s.setHal p x).flt = s.flt := rfl
@[simp] theorem State.setHal_serve (p : Nat) (x : Hal) : (s.setHal p x).serve = s.serve := rfl
@[simp] theorem State.setHal_dma (p : Nat) (x : Hal) : (s.setHal p x).dma = s.dma := rfl
@[simp] theorem State.setHal_que (p : Nat) (x : Hal) : (s.setHal p x).que = s.que := rfl
@[simp] theorem State.setHal_host (p : Nat) (x : Hal) : (s.setHal p x).host = s.host := rfl
@[simp] theorem State.setHal_lnk (p : Nat) (x : Hal) : (s.setHal p x).lnk = s.lnk := rfl
@[simp] theorem State.setHal_pairs (p : Nat) (x : Hal) : (s.setHal p x).pairs = s.pairs := rfl
@[simp] theorem State.setHal_guest (p : Nat) (x : Hal) : (s.setHal p x).guest = s.guest := rfl
@[simp] theorem State.setHal_thm (p : Nat) (x : Hal) : (s.setHal p x).thm = s.thm := rfl
@[simp] theorem State.setHal_pwr (p : Nat) (x : Hal) : (s.setHal p x).pwr = s.pwr := rfl
@[simp] theorem State.setHal_mtrPres (p : Nat) (x : Hal) : (s.setHal p x).mtrPres = s.mtrPres := rfl
@[simp] theorem State.setHal_meter (p : Nat) (x : Hal) : (s.setHal p x).meter = s.meter := rfl
@[simp] theorem State.setHal_mtr (p : Nat) (x : Hal) : (s.setHal p x).mtr = s.mtr := rfl
@[simp] theorem State.setHal_trc (p : Nat) (x : Hal) : (s.setHal p x).trc = s.trc := rfl
@[simp] theorem State.hal_setHal_self (p : Nat) (x : Hal) : (s.setHal p x).hal p = x := by simp [State.hal]
@[simp] theorem State.hal_setHal_ne {p i : Nat} (x : Hal) (h : i ≠ p) : (s.setHal p x).hal i = s.hal i := by simp [State.hal, h]
@[simp] theorem State.core_setHal (p i : Nat) (x : Hal) : (s.setHal p x).core i = s.core i := rfl
@[simp] theorem State.nbu_setHal (p i : Nat) (x : Hal) : (s.setHal p x).nbu i = s.nbu i := rfl
@[simp] theorem State.cache_setHal (p i : Nat) (x : Hal) : (s.setHal p x).cache i = s.cache i := rfl
@[simp] theorem State.die_setHal (p i : Nat) (x : Hal) : (s.setHal p x).die i = s.die i := rfl
@[simp] theorem State.clu_setHal (p i : Nat) (x : Hal) : (s.setHal p x).clu i = s.clu i := rfl
@[simp] theorem State.job_setHal (p i : Nat) (x : Hal) : (s.setHal p x).job i = s.job i := rfl
@[simp] theorem State.ctx_setHal (p i : Nat) (x : Hal) : (s.setHal p x).ctx i = s.ctx i := rfl

/-! `State.setNbu` -/

@[simp] theorem State.setNbu_pending (p : Nat) (x : Nbu) : (s.setNbu p x).pending = s.pending := rfl
@[simp] theorem State.setNbu_tx (p : Nat) (x : Nbu) : (s.setNbu p x).tx = s.tx := rfl
@[simp] theorem State.setNbu_fresh (p : Nat) (x : Nbu) : (s.setNbu p x).fresh = s.fresh := rfl
@[simp] theorem State.setNbu_struck (p : Nat) (x : Nbu) : (s.setNbu p x).struck = s.struck := rfl
@[simp] theorem State.setNbu_perstOut (p : Nat) (x : Nbu) : (s.setNbu p x).perstOut = s.perstOut := rfl
@[simp] theorem State.setNbu_halfMast (p : Nat) (x : Nbu) : (s.setNbu p x).halfMast = s.halfMast := rfl
@[simp] theorem State.setNbu_hubCount (p : Nat) (x : Nbu) : (s.setNbu p x).hubCount = s.hubCount := rfl
@[simp] theorem State.setNbu_hubPllLost (p : Nat) (x : Nbu) : (s.setNbu p x).hubPllLost = s.hubPllLost := rfl
@[simp] theorem State.setNbu_boot (p : Nat) (x : Nbu) : (s.setNbu p x).boot = s.boot := rfl
@[simp] theorem State.setNbu_alert (p : Nat) (x : Nbu) : (s.setNbu p x).alert = s.alert := rfl
@[simp] theorem State.setNbu_accessErr (p : Nat) (x : Nbu) : (s.setNbu p x).accessErr = s.accessErr := rfl
@[simp] theorem State.setNbu_mbox (p : Nat) (x : Nbu) : (s.setNbu p x).mbox = s.mbox := rfl
@[simp] theorem State.setNbu_flash (p : Nat) (x : Nbu) : (s.setNbu p x).flash = s.flash := rfl
@[simp] theorem State.setNbu_mapGen (p : Nat) (x : Nbu) : (s.setNbu p x).mapGen = s.mapGen := rfl
@[simp] theorem State.setNbu_guestUp (p : Nat) (x : Nbu) : (s.setNbu p x).guestUp = s.guestUp := rfl
@[simp] theorem State.setNbu_map (p : Nat) (x : Nbu) : (s.setNbu p x).map = s.map := rfl
@[simp] theorem State.setNbu_dies (p : Nat) (x : Nbu) : (s.setNbu p x).dies = s.dies := rfl
@[simp] theorem State.setNbu_clus (p : Nat) (x : Nbu) : (s.setNbu p x).clus = s.clus := rfl
@[simp] theorem State.setNbu_cores (p : Nat) (x : Nbu) : (s.setNbu p x).cores = s.cores := rfl
@[simp] theorem State.setNbu_hals (p : Nat) (x : Nbu) : (s.setNbu p x).hals = s.hals := rfl
@[simp] theorem State.setNbu_nbus (p : Nat) (x : Nbu) : (s.setNbu p x).nbus = tput s.nbus p x := rfl
@[simp] theorem State.setNbu_mem (p : Nat) (x : Nbu) : (s.setNbu p x).mem = s.mem := rfl
@[simp] theorem State.setNbu_flips (p : Nat) (x : Nbu) : (s.setNbu p x).flips = s.flips := rfl
@[simp] theorem State.setNbu_scratch (p : Nat) (x : Nbu) : (s.setNbu p x).scratch = s.scratch := rfl
@[simp] theorem State.setNbu_scratchBad (p : Nat) (x : Nbu) : (s.setNbu p x).scratchBad = s.scratchBad := rfl
@[simp] theorem State.setNbu_scratchOne (p : Nat) (x : Nbu) : (s.setNbu p x).scratchOne = s.scratchOne := rfl
@[simp] theorem State.setNbu_caches (p : Nat) (x : Nbu) : (s.setNbu p x).caches = s.caches := rfl
@[simp] theorem State.setNbu_invals (p : Nat) (x : Nbu) : (s.setNbu p x).invals = s.invals := rfl
@[simp] theorem State.setNbu_net (p : Nat) (x : Nbu) : (s.setNbu p x).net = s.net := rfl
@[simp] theorem State.setNbu_jobs (p : Nat) (x : Nbu) : (s.setNbu p x).jobs = s.jobs := rfl
@[simp] theorem State.setNbu_place (p : Nat) (x : Nbu) : (s.setNbu p x).place = s.place := rfl
@[simp] theorem State.setNbu_ctxs (p : Nat) (x : Nbu) : (s.setNbu p x).ctxs = s.ctxs := rfl
@[simp] theorem State.setNbu_own (p : Nat) (x : Nbu) : (s.setNbu p x).own = s.own := rfl
@[simp] theorem State.setNbu_sec (p : Nat) (x : Nbu) : (s.setNbu p x).sec = s.sec := rfl
@[simp] theorem State.setNbu_sess (p : Nat) (x : Nbu) : (s.setNbu p x).sess = s.sess := rfl
@[simp] theorem State.setNbu_reports (p : Nat) (x : Nbu) : (s.setNbu p x).reports = s.reports := rfl
@[simp] theorem State.setNbu_flt (p : Nat) (x : Nbu) : (s.setNbu p x).flt = s.flt := rfl
@[simp] theorem State.setNbu_serve (p : Nat) (x : Nbu) : (s.setNbu p x).serve = s.serve := rfl
@[simp] theorem State.setNbu_dma (p : Nat) (x : Nbu) : (s.setNbu p x).dma = s.dma := rfl
@[simp] theorem State.setNbu_que (p : Nat) (x : Nbu) : (s.setNbu p x).que = s.que := rfl
@[simp] theorem State.setNbu_host (p : Nat) (x : Nbu) : (s.setNbu p x).host = s.host := rfl
@[simp] theorem State.setNbu_lnk (p : Nat) (x : Nbu) : (s.setNbu p x).lnk = s.lnk := rfl
@[simp] theorem State.setNbu_pairs (p : Nat) (x : Nbu) : (s.setNbu p x).pairs = s.pairs := rfl
@[simp] theorem State.setNbu_guest (p : Nat) (x : Nbu) : (s.setNbu p x).guest = s.guest := rfl
@[simp] theorem State.setNbu_thm (p : Nat) (x : Nbu) : (s.setNbu p x).thm = s.thm := rfl
@[simp] theorem State.setNbu_pwr (p : Nat) (x : Nbu) : (s.setNbu p x).pwr = s.pwr := rfl
@[simp] theorem State.setNbu_mtrPres (p : Nat) (x : Nbu) : (s.setNbu p x).mtrPres = s.mtrPres := rfl
@[simp] theorem State.setNbu_meter (p : Nat) (x : Nbu) : (s.setNbu p x).meter = s.meter := rfl
@[simp] theorem State.setNbu_mtr (p : Nat) (x : Nbu) : (s.setNbu p x).mtr = s.mtr := rfl
@[simp] theorem State.setNbu_trc (p : Nat) (x : Nbu) : (s.setNbu p x).trc = s.trc := rfl
@[simp] theorem State.nbu_setNbu_self (p : Nat) (x : Nbu) : (s.setNbu p x).nbu p = x := by simp [State.nbu]
@[simp] theorem State.nbu_setNbu_ne {p i : Nat} (x : Nbu) (h : i ≠ p) : (s.setNbu p x).nbu i = s.nbu i := by simp [State.nbu, h]
@[simp] theorem State.core_setNbu (p i : Nat) (x : Nbu) : (s.setNbu p x).core i = s.core i := rfl
@[simp] theorem State.hal_setNbu (p i : Nat) (x : Nbu) : (s.setNbu p x).hal i = s.hal i := rfl
@[simp] theorem State.cache_setNbu (p i : Nat) (x : Nbu) : (s.setNbu p x).cache i = s.cache i := rfl
@[simp] theorem State.die_setNbu (p i : Nat) (x : Nbu) : (s.setNbu p x).die i = s.die i := rfl
@[simp] theorem State.clu_setNbu (p i : Nat) (x : Nbu) : (s.setNbu p x).clu i = s.clu i := rfl
@[simp] theorem State.job_setNbu (p i : Nat) (x : Nbu) : (s.setNbu p x).job i = s.job i := rfl
@[simp] theorem State.ctx_setNbu (p i : Nat) (x : Nbu) : (s.setNbu p x).ctx i = s.ctx i := rfl

/-! `State.setCache` -/

@[simp] theorem State.setCache_pending (n : Nat) (x : Cache) : (s.setCache n x).pending = s.pending := rfl
@[simp] theorem State.setCache_tx (n : Nat) (x : Cache) : (s.setCache n x).tx = s.tx := rfl
@[simp] theorem State.setCache_fresh (n : Nat) (x : Cache) : (s.setCache n x).fresh = s.fresh := rfl
@[simp] theorem State.setCache_struck (n : Nat) (x : Cache) : (s.setCache n x).struck = s.struck := rfl
@[simp] theorem State.setCache_perstOut (n : Nat) (x : Cache) : (s.setCache n x).perstOut = s.perstOut := rfl
@[simp] theorem State.setCache_halfMast (n : Nat) (x : Cache) : (s.setCache n x).halfMast = s.halfMast := rfl
@[simp] theorem State.setCache_hubCount (n : Nat) (x : Cache) : (s.setCache n x).hubCount = s.hubCount := rfl
@[simp] theorem State.setCache_hubPllLost (n : Nat) (x : Cache) : (s.setCache n x).hubPllLost = s.hubPllLost := rfl
@[simp] theorem State.setCache_boot (n : Nat) (x : Cache) : (s.setCache n x).boot = s.boot := rfl
@[simp] theorem State.setCache_alert (n : Nat) (x : Cache) : (s.setCache n x).alert = s.alert := rfl
@[simp] theorem State.setCache_accessErr (n : Nat) (x : Cache) : (s.setCache n x).accessErr = s.accessErr := rfl
@[simp] theorem State.setCache_mbox (n : Nat) (x : Cache) : (s.setCache n x).mbox = s.mbox := rfl
@[simp] theorem State.setCache_flash (n : Nat) (x : Cache) : (s.setCache n x).flash = s.flash := rfl
@[simp] theorem State.setCache_mapGen (n : Nat) (x : Cache) : (s.setCache n x).mapGen = s.mapGen := rfl
@[simp] theorem State.setCache_guestUp (n : Nat) (x : Cache) : (s.setCache n x).guestUp = s.guestUp := rfl
@[simp] theorem State.setCache_map (n : Nat) (x : Cache) : (s.setCache n x).map = s.map := rfl
@[simp] theorem State.setCache_dies (n : Nat) (x : Cache) : (s.setCache n x).dies = s.dies := rfl
@[simp] theorem State.setCache_clus (n : Nat) (x : Cache) : (s.setCache n x).clus = s.clus := rfl
@[simp] theorem State.setCache_cores (n : Nat) (x : Cache) : (s.setCache n x).cores = s.cores := rfl
@[simp] theorem State.setCache_hals (n : Nat) (x : Cache) : (s.setCache n x).hals = s.hals := rfl
@[simp] theorem State.setCache_nbus (n : Nat) (x : Cache) : (s.setCache n x).nbus = s.nbus := rfl
@[simp] theorem State.setCache_mem (n : Nat) (x : Cache) : (s.setCache n x).mem = s.mem := rfl
@[simp] theorem State.setCache_flips (n : Nat) (x : Cache) : (s.setCache n x).flips = s.flips := rfl
@[simp] theorem State.setCache_scratch (n : Nat) (x : Cache) : (s.setCache n x).scratch = s.scratch := rfl
@[simp] theorem State.setCache_scratchBad (n : Nat) (x : Cache) : (s.setCache n x).scratchBad = s.scratchBad := rfl
@[simp] theorem State.setCache_scratchOne (n : Nat) (x : Cache) : (s.setCache n x).scratchOne = s.scratchOne := rfl
@[simp] theorem State.setCache_caches (n : Nat) (x : Cache) : (s.setCache n x).caches = tput s.caches n x := rfl
@[simp] theorem State.setCache_invals (n : Nat) (x : Cache) : (s.setCache n x).invals = s.invals := rfl
@[simp] theorem State.setCache_net (n : Nat) (x : Cache) : (s.setCache n x).net = s.net := rfl
@[simp] theorem State.setCache_jobs (n : Nat) (x : Cache) : (s.setCache n x).jobs = s.jobs := rfl
@[simp] theorem State.setCache_place (n : Nat) (x : Cache) : (s.setCache n x).place = s.place := rfl
@[simp] theorem State.setCache_ctxs (n : Nat) (x : Cache) : (s.setCache n x).ctxs = s.ctxs := rfl
@[simp] theorem State.setCache_own (n : Nat) (x : Cache) : (s.setCache n x).own = s.own := rfl
@[simp] theorem State.setCache_sec (n : Nat) (x : Cache) : (s.setCache n x).sec = s.sec := rfl
@[simp] theorem State.setCache_sess (n : Nat) (x : Cache) : (s.setCache n x).sess = s.sess := rfl
@[simp] theorem State.setCache_reports (n : Nat) (x : Cache) : (s.setCache n x).reports = s.reports := rfl
@[simp] theorem State.setCache_flt (n : Nat) (x : Cache) : (s.setCache n x).flt = s.flt := rfl
@[simp] theorem State.setCache_serve (n : Nat) (x : Cache) : (s.setCache n x).serve = s.serve := rfl
@[simp] theorem State.setCache_dma (n : Nat) (x : Cache) : (s.setCache n x).dma = s.dma := rfl
@[simp] theorem State.setCache_que (n : Nat) (x : Cache) : (s.setCache n x).que = s.que := rfl
@[simp] theorem State.setCache_host (n : Nat) (x : Cache) : (s.setCache n x).host = s.host := rfl
@[simp] theorem State.setCache_lnk (n : Nat) (x : Cache) : (s.setCache n x).lnk = s.lnk := rfl
@[simp] theorem State.setCache_pairs (n : Nat) (x : Cache) : (s.setCache n x).pairs = s.pairs := rfl
@[simp] theorem State.setCache_guest (n : Nat) (x : Cache) : (s.setCache n x).guest = s.guest := rfl
@[simp] theorem State.setCache_thm (n : Nat) (x : Cache) : (s.setCache n x).thm = s.thm := rfl
@[simp] theorem State.setCache_pwr (n : Nat) (x : Cache) : (s.setCache n x).pwr = s.pwr := rfl
@[simp] theorem State.setCache_mtrPres (n : Nat) (x : Cache) : (s.setCache n x).mtrPres = s.mtrPres := rfl
@[simp] theorem State.setCache_meter (n : Nat) (x : Cache) : (s.setCache n x).meter = s.meter := rfl
@[simp] theorem State.setCache_mtr (n : Nat) (x : Cache) : (s.setCache n x).mtr = s.mtr := rfl
@[simp] theorem State.setCache_trc (n : Nat) (x : Cache) : (s.setCache n x).trc = s.trc := rfl
@[simp] theorem State.cache_setCache_self (n : Nat) (x : Cache) : (s.setCache n x).cache n = x := by simp [State.cache]
@[simp] theorem State.cache_setCache_ne {n i : Nat} (x : Cache) (h : i ≠ n) : (s.setCache n x).cache i = s.cache i := by simp [State.cache, h]
@[simp] theorem State.core_setCache (n i : Nat) (x : Cache) : (s.setCache n x).core i = s.core i := rfl
@[simp] theorem State.hal_setCache (n i : Nat) (x : Cache) : (s.setCache n x).hal i = s.hal i := rfl
@[simp] theorem State.nbu_setCache (n i : Nat) (x : Cache) : (s.setCache n x).nbu i = s.nbu i := rfl
@[simp] theorem State.die_setCache (n i : Nat) (x : Cache) : (s.setCache n x).die i = s.die i := rfl
@[simp] theorem State.clu_setCache (n i : Nat) (x : Cache) : (s.setCache n x).clu i = s.clu i := rfl
@[simp] theorem State.job_setCache (n i : Nat) (x : Cache) : (s.setCache n x).job i = s.job i := rfl
@[simp] theorem State.ctx_setCache (n i : Nat) (x : Cache) : (s.setCache n x).ctx i = s.ctx i := rfl

/-! `State.setDie` -/

@[simp] theorem State.setDie_pending (d : Nat) (x : Die) : (s.setDie d x).pending = s.pending := rfl
@[simp] theorem State.setDie_tx (d : Nat) (x : Die) : (s.setDie d x).tx = s.tx := rfl
@[simp] theorem State.setDie_fresh (d : Nat) (x : Die) : (s.setDie d x).fresh = s.fresh := rfl
@[simp] theorem State.setDie_struck (d : Nat) (x : Die) : (s.setDie d x).struck = s.struck := rfl
@[simp] theorem State.setDie_perstOut (d : Nat) (x : Die) : (s.setDie d x).perstOut = s.perstOut := rfl
@[simp] theorem State.setDie_halfMast (d : Nat) (x : Die) : (s.setDie d x).halfMast = s.halfMast := rfl
@[simp] theorem State.setDie_hubCount (d : Nat) (x : Die) : (s.setDie d x).hubCount = s.hubCount := rfl
@[simp] theorem State.setDie_hubPllLost (d : Nat) (x : Die) : (s.setDie d x).hubPllLost = s.hubPllLost := rfl
@[simp] theorem State.setDie_boot (d : Nat) (x : Die) : (s.setDie d x).boot = s.boot := rfl
@[simp] theorem State.setDie_alert (d : Nat) (x : Die) : (s.setDie d x).alert = s.alert := rfl
@[simp] theorem State.setDie_accessErr (d : Nat) (x : Die) : (s.setDie d x).accessErr = s.accessErr := rfl
@[simp] theorem State.setDie_mbox (d : Nat) (x : Die) : (s.setDie d x).mbox = s.mbox := rfl
@[simp] theorem State.setDie_flash (d : Nat) (x : Die) : (s.setDie d x).flash = s.flash := rfl
@[simp] theorem State.setDie_mapGen (d : Nat) (x : Die) : (s.setDie d x).mapGen = s.mapGen := rfl
@[simp] theorem State.setDie_guestUp (d : Nat) (x : Die) : (s.setDie d x).guestUp = s.guestUp := rfl
@[simp] theorem State.setDie_map (d : Nat) (x : Die) : (s.setDie d x).map = s.map := rfl
@[simp] theorem State.setDie_dies (d : Nat) (x : Die) : (s.setDie d x).dies = tput s.dies d x := rfl
@[simp] theorem State.setDie_clus (d : Nat) (x : Die) : (s.setDie d x).clus = s.clus := rfl
@[simp] theorem State.setDie_cores (d : Nat) (x : Die) : (s.setDie d x).cores = s.cores := rfl
@[simp] theorem State.setDie_hals (d : Nat) (x : Die) : (s.setDie d x).hals = s.hals := rfl
@[simp] theorem State.setDie_nbus (d : Nat) (x : Die) : (s.setDie d x).nbus = s.nbus := rfl
@[simp] theorem State.setDie_mem (d : Nat) (x : Die) : (s.setDie d x).mem = s.mem := rfl
@[simp] theorem State.setDie_flips (d : Nat) (x : Die) : (s.setDie d x).flips = s.flips := rfl
@[simp] theorem State.setDie_scratch (d : Nat) (x : Die) : (s.setDie d x).scratch = s.scratch := rfl
@[simp] theorem State.setDie_scratchBad (d : Nat) (x : Die) : (s.setDie d x).scratchBad = s.scratchBad := rfl
@[simp] theorem State.setDie_scratchOne (d : Nat) (x : Die) : (s.setDie d x).scratchOne = s.scratchOne := rfl
@[simp] theorem State.setDie_caches (d : Nat) (x : Die) : (s.setDie d x).caches = s.caches := rfl
@[simp] theorem State.setDie_invals (d : Nat) (x : Die) : (s.setDie d x).invals = s.invals := rfl
@[simp] theorem State.setDie_net (d : Nat) (x : Die) : (s.setDie d x).net = s.net := rfl
@[simp] theorem State.setDie_jobs (d : Nat) (x : Die) : (s.setDie d x).jobs = s.jobs := rfl
@[simp] theorem State.setDie_place (d : Nat) (x : Die) : (s.setDie d x).place = s.place := rfl
@[simp] theorem State.setDie_ctxs (d : Nat) (x : Die) : (s.setDie d x).ctxs = s.ctxs := rfl
@[simp] theorem State.setDie_own (d : Nat) (x : Die) : (s.setDie d x).own = s.own := rfl
@[simp] theorem State.setDie_sec (d : Nat) (x : Die) : (s.setDie d x).sec = s.sec := rfl
@[simp] theorem State.setDie_sess (d : Nat) (x : Die) : (s.setDie d x).sess = s.sess := rfl
@[simp] theorem State.setDie_reports (d : Nat) (x : Die) : (s.setDie d x).reports = s.reports := rfl
@[simp] theorem State.setDie_flt (d : Nat) (x : Die) : (s.setDie d x).flt = s.flt := rfl
@[simp] theorem State.setDie_serve (d : Nat) (x : Die) : (s.setDie d x).serve = s.serve := rfl
@[simp] theorem State.setDie_dma (d : Nat) (x : Die) : (s.setDie d x).dma = s.dma := rfl
@[simp] theorem State.setDie_que (d : Nat) (x : Die) : (s.setDie d x).que = s.que := rfl
@[simp] theorem State.setDie_host (d : Nat) (x : Die) : (s.setDie d x).host = s.host := rfl
@[simp] theorem State.setDie_lnk (d : Nat) (x : Die) : (s.setDie d x).lnk = s.lnk := rfl
@[simp] theorem State.setDie_pairs (d : Nat) (x : Die) : (s.setDie d x).pairs = s.pairs := rfl
@[simp] theorem State.setDie_guest (d : Nat) (x : Die) : (s.setDie d x).guest = s.guest := rfl
@[simp] theorem State.setDie_thm (d : Nat) (x : Die) : (s.setDie d x).thm = s.thm := rfl
@[simp] theorem State.setDie_pwr (d : Nat) (x : Die) : (s.setDie d x).pwr = s.pwr := rfl
@[simp] theorem State.setDie_mtrPres (d : Nat) (x : Die) : (s.setDie d x).mtrPres = s.mtrPres := rfl
@[simp] theorem State.setDie_meter (d : Nat) (x : Die) : (s.setDie d x).meter = s.meter := rfl
@[simp] theorem State.setDie_mtr (d : Nat) (x : Die) : (s.setDie d x).mtr = s.mtr := rfl
@[simp] theorem State.setDie_trc (d : Nat) (x : Die) : (s.setDie d x).trc = s.trc := rfl
@[simp] theorem State.die_setDie_self (d : Nat) (x : Die) : (s.setDie d x).die d = x := by simp [State.die]
@[simp] theorem State.die_setDie_ne {d i : Nat} (x : Die) (h : i ≠ d) : (s.setDie d x).die i = s.die i := by simp [State.die, h]
@[simp] theorem State.core_setDie (d i : Nat) (x : Die) : (s.setDie d x).core i = s.core i := rfl
@[simp] theorem State.hal_setDie (d i : Nat) (x : Die) : (s.setDie d x).hal i = s.hal i := rfl
@[simp] theorem State.nbu_setDie (d i : Nat) (x : Die) : (s.setDie d x).nbu i = s.nbu i := rfl
@[simp] theorem State.cache_setDie (d i : Nat) (x : Die) : (s.setDie d x).cache i = s.cache i := rfl
@[simp] theorem State.clu_setDie (d i : Nat) (x : Die) : (s.setDie d x).clu i = s.clu i := rfl
@[simp] theorem State.job_setDie (d i : Nat) (x : Die) : (s.setDie d x).job i = s.job i := rfl
@[simp] theorem State.ctx_setDie (d i : Nat) (x : Die) : (s.setDie d x).ctx i = s.ctx i := rfl

/-! `State.setClu` -/

@[simp] theorem State.setClu_pending (n : Nat) (x : Clu) : (s.setClu n x).pending = s.pending := rfl
@[simp] theorem State.setClu_tx (n : Nat) (x : Clu) : (s.setClu n x).tx = s.tx := rfl
@[simp] theorem State.setClu_fresh (n : Nat) (x : Clu) : (s.setClu n x).fresh = s.fresh := rfl
@[simp] theorem State.setClu_struck (n : Nat) (x : Clu) : (s.setClu n x).struck = s.struck := rfl
@[simp] theorem State.setClu_perstOut (n : Nat) (x : Clu) : (s.setClu n x).perstOut = s.perstOut := rfl
@[simp] theorem State.setClu_halfMast (n : Nat) (x : Clu) : (s.setClu n x).halfMast = s.halfMast := rfl
@[simp] theorem State.setClu_hubCount (n : Nat) (x : Clu) : (s.setClu n x).hubCount = s.hubCount := rfl
@[simp] theorem State.setClu_hubPllLost (n : Nat) (x : Clu) : (s.setClu n x).hubPllLost = s.hubPllLost := rfl
@[simp] theorem State.setClu_boot (n : Nat) (x : Clu) : (s.setClu n x).boot = s.boot := rfl
@[simp] theorem State.setClu_alert (n : Nat) (x : Clu) : (s.setClu n x).alert = s.alert := rfl
@[simp] theorem State.setClu_accessErr (n : Nat) (x : Clu) : (s.setClu n x).accessErr = s.accessErr := rfl
@[simp] theorem State.setClu_mbox (n : Nat) (x : Clu) : (s.setClu n x).mbox = s.mbox := rfl
@[simp] theorem State.setClu_flash (n : Nat) (x : Clu) : (s.setClu n x).flash = s.flash := rfl
@[simp] theorem State.setClu_mapGen (n : Nat) (x : Clu) : (s.setClu n x).mapGen = s.mapGen := rfl
@[simp] theorem State.setClu_guestUp (n : Nat) (x : Clu) : (s.setClu n x).guestUp = s.guestUp := rfl
@[simp] theorem State.setClu_map (n : Nat) (x : Clu) : (s.setClu n x).map = s.map := rfl
@[simp] theorem State.setClu_dies (n : Nat) (x : Clu) : (s.setClu n x).dies = s.dies := rfl
@[simp] theorem State.setClu_clus (n : Nat) (x : Clu) : (s.setClu n x).clus = tput s.clus n x := rfl
@[simp] theorem State.setClu_cores (n : Nat) (x : Clu) : (s.setClu n x).cores = s.cores := rfl
@[simp] theorem State.setClu_hals (n : Nat) (x : Clu) : (s.setClu n x).hals = s.hals := rfl
@[simp] theorem State.setClu_nbus (n : Nat) (x : Clu) : (s.setClu n x).nbus = s.nbus := rfl
@[simp] theorem State.setClu_mem (n : Nat) (x : Clu) : (s.setClu n x).mem = s.mem := rfl
@[simp] theorem State.setClu_flips (n : Nat) (x : Clu) : (s.setClu n x).flips = s.flips := rfl
@[simp] theorem State.setClu_scratch (n : Nat) (x : Clu) : (s.setClu n x).scratch = s.scratch := rfl
@[simp] theorem State.setClu_scratchBad (n : Nat) (x : Clu) : (s.setClu n x).scratchBad = s.scratchBad := rfl
@[simp] theorem State.setClu_scratchOne (n : Nat) (x : Clu) : (s.setClu n x).scratchOne = s.scratchOne := rfl
@[simp] theorem State.setClu_caches (n : Nat) (x : Clu) : (s.setClu n x).caches = s.caches := rfl
@[simp] theorem State.setClu_invals (n : Nat) (x : Clu) : (s.setClu n x).invals = s.invals := rfl
@[simp] theorem State.setClu_net (n : Nat) (x : Clu) : (s.setClu n x).net = s.net := rfl
@[simp] theorem State.setClu_jobs (n : Nat) (x : Clu) : (s.setClu n x).jobs = s.jobs := rfl
@[simp] theorem State.setClu_place (n : Nat) (x : Clu) : (s.setClu n x).place = s.place := rfl
@[simp] theorem State.setClu_ctxs (n : Nat) (x : Clu) : (s.setClu n x).ctxs = s.ctxs := rfl
@[simp] theorem State.setClu_own (n : Nat) (x : Clu) : (s.setClu n x).own = s.own := rfl
@[simp] theorem State.setClu_sec (n : Nat) (x : Clu) : (s.setClu n x).sec = s.sec := rfl
@[simp] theorem State.setClu_sess (n : Nat) (x : Clu) : (s.setClu n x).sess = s.sess := rfl
@[simp] theorem State.setClu_reports (n : Nat) (x : Clu) : (s.setClu n x).reports = s.reports := rfl
@[simp] theorem State.setClu_flt (n : Nat) (x : Clu) : (s.setClu n x).flt = s.flt := rfl
@[simp] theorem State.setClu_serve (n : Nat) (x : Clu) : (s.setClu n x).serve = s.serve := rfl
@[simp] theorem State.setClu_dma (n : Nat) (x : Clu) : (s.setClu n x).dma = s.dma := rfl
@[simp] theorem State.setClu_que (n : Nat) (x : Clu) : (s.setClu n x).que = s.que := rfl
@[simp] theorem State.setClu_host (n : Nat) (x : Clu) : (s.setClu n x).host = s.host := rfl
@[simp] theorem State.setClu_lnk (n : Nat) (x : Clu) : (s.setClu n x).lnk = s.lnk := rfl
@[simp] theorem State.setClu_pairs (n : Nat) (x : Clu) : (s.setClu n x).pairs = s.pairs := rfl
@[simp] theorem State.setClu_guest (n : Nat) (x : Clu) : (s.setClu n x).guest = s.guest := rfl
@[simp] theorem State.setClu_thm (n : Nat) (x : Clu) : (s.setClu n x).thm = s.thm := rfl
@[simp] theorem State.setClu_pwr (n : Nat) (x : Clu) : (s.setClu n x).pwr = s.pwr := rfl
@[simp] theorem State.setClu_mtrPres (n : Nat) (x : Clu) : (s.setClu n x).mtrPres = s.mtrPres := rfl
@[simp] theorem State.setClu_meter (n : Nat) (x : Clu) : (s.setClu n x).meter = s.meter := rfl
@[simp] theorem State.setClu_mtr (n : Nat) (x : Clu) : (s.setClu n x).mtr = s.mtr := rfl
@[simp] theorem State.setClu_trc (n : Nat) (x : Clu) : (s.setClu n x).trc = s.trc := rfl
@[simp] theorem State.clu_setClu_self (n : Nat) (x : Clu) : (s.setClu n x).clu n = x := by simp [State.clu]
@[simp] theorem State.clu_setClu_ne {n i : Nat} (x : Clu) (h : i ≠ n) : (s.setClu n x).clu i = s.clu i := by simp [State.clu, h]
@[simp] theorem State.core_setClu (n i : Nat) (x : Clu) : (s.setClu n x).core i = s.core i := rfl
@[simp] theorem State.hal_setClu (n i : Nat) (x : Clu) : (s.setClu n x).hal i = s.hal i := rfl
@[simp] theorem State.nbu_setClu (n i : Nat) (x : Clu) : (s.setClu n x).nbu i = s.nbu i := rfl
@[simp] theorem State.cache_setClu (n i : Nat) (x : Clu) : (s.setClu n x).cache i = s.cache i := rfl
@[simp] theorem State.die_setClu (n i : Nat) (x : Clu) : (s.setClu n x).die i = s.die i := rfl
@[simp] theorem State.job_setClu (n i : Nat) (x : Clu) : (s.setClu n x).job i = s.job i := rfl
@[simp] theorem State.ctx_setClu (n i : Nat) (x : Clu) : (s.setClu n x).ctx i = s.ctx i := rfl

/-! `State.setJob` -/

@[simp] theorem State.setJob_pending (j : Nat) (x : Job) : (s.setJob j x).pending = s.pending := rfl
@[simp] theorem State.setJob_tx (j : Nat) (x : Job) : (s.setJob j x).tx = s.tx := rfl
@[simp] theorem State.setJob_fresh (j : Nat) (x : Job) : (s.setJob j x).fresh = s.fresh := rfl
@[simp] theorem State.setJob_struck (j : Nat) (x : Job) : (s.setJob j x).struck = s.struck := rfl
@[simp] theorem State.setJob_perstOut (j : Nat) (x : Job) : (s.setJob j x).perstOut = s.perstOut := rfl
@[simp] theorem State.setJob_halfMast (j : Nat) (x : Job) : (s.setJob j x).halfMast = s.halfMast := rfl
@[simp] theorem State.setJob_hubCount (j : Nat) (x : Job) : (s.setJob j x).hubCount = s.hubCount := rfl
@[simp] theorem State.setJob_hubPllLost (j : Nat) (x : Job) : (s.setJob j x).hubPllLost = s.hubPllLost := rfl
@[simp] theorem State.setJob_boot (j : Nat) (x : Job) : (s.setJob j x).boot = s.boot := rfl
@[simp] theorem State.setJob_alert (j : Nat) (x : Job) : (s.setJob j x).alert = s.alert := rfl
@[simp] theorem State.setJob_accessErr (j : Nat) (x : Job) : (s.setJob j x).accessErr = s.accessErr := rfl
@[simp] theorem State.setJob_mbox (j : Nat) (x : Job) : (s.setJob j x).mbox = s.mbox := rfl
@[simp] theorem State.setJob_flash (j : Nat) (x : Job) : (s.setJob j x).flash = s.flash := rfl
@[simp] theorem State.setJob_mapGen (j : Nat) (x : Job) : (s.setJob j x).mapGen = s.mapGen := rfl
@[simp] theorem State.setJob_guestUp (j : Nat) (x : Job) : (s.setJob j x).guestUp = s.guestUp := rfl
@[simp] theorem State.setJob_map (j : Nat) (x : Job) : (s.setJob j x).map = s.map := rfl
@[simp] theorem State.setJob_dies (j : Nat) (x : Job) : (s.setJob j x).dies = s.dies := rfl
@[simp] theorem State.setJob_clus (j : Nat) (x : Job) : (s.setJob j x).clus = s.clus := rfl
@[simp] theorem State.setJob_cores (j : Nat) (x : Job) : (s.setJob j x).cores = s.cores := rfl
@[simp] theorem State.setJob_hals (j : Nat) (x : Job) : (s.setJob j x).hals = s.hals := rfl
@[simp] theorem State.setJob_nbus (j : Nat) (x : Job) : (s.setJob j x).nbus = s.nbus := rfl
@[simp] theorem State.setJob_mem (j : Nat) (x : Job) : (s.setJob j x).mem = s.mem := rfl
@[simp] theorem State.setJob_flips (j : Nat) (x : Job) : (s.setJob j x).flips = s.flips := rfl
@[simp] theorem State.setJob_scratch (j : Nat) (x : Job) : (s.setJob j x).scratch = s.scratch := rfl
@[simp] theorem State.setJob_scratchBad (j : Nat) (x : Job) : (s.setJob j x).scratchBad = s.scratchBad := rfl
@[simp] theorem State.setJob_scratchOne (j : Nat) (x : Job) : (s.setJob j x).scratchOne = s.scratchOne := rfl
@[simp] theorem State.setJob_caches (j : Nat) (x : Job) : (s.setJob j x).caches = s.caches := rfl
@[simp] theorem State.setJob_invals (j : Nat) (x : Job) : (s.setJob j x).invals = s.invals := rfl
@[simp] theorem State.setJob_net (j : Nat) (x : Job) : (s.setJob j x).net = s.net := rfl
@[simp] theorem State.setJob_jobs (j : Nat) (x : Job) : (s.setJob j x).jobs = tput s.jobs j x := rfl
@[simp] theorem State.setJob_place (j : Nat) (x : Job) : (s.setJob j x).place = s.place := rfl
@[simp] theorem State.setJob_ctxs (j : Nat) (x : Job) : (s.setJob j x).ctxs = s.ctxs := rfl
@[simp] theorem State.setJob_own (j : Nat) (x : Job) : (s.setJob j x).own = s.own := rfl
@[simp] theorem State.setJob_sec (j : Nat) (x : Job) : (s.setJob j x).sec = s.sec := rfl
@[simp] theorem State.setJob_sess (j : Nat) (x : Job) : (s.setJob j x).sess = s.sess := rfl
@[simp] theorem State.setJob_reports (j : Nat) (x : Job) : (s.setJob j x).reports = s.reports := rfl
@[simp] theorem State.setJob_flt (j : Nat) (x : Job) : (s.setJob j x).flt = s.flt := rfl
@[simp] theorem State.setJob_serve (j : Nat) (x : Job) : (s.setJob j x).serve = s.serve := rfl
@[simp] theorem State.setJob_dma (j : Nat) (x : Job) : (s.setJob j x).dma = s.dma := rfl
@[simp] theorem State.setJob_que (j : Nat) (x : Job) : (s.setJob j x).que = s.que := rfl
@[simp] theorem State.setJob_host (j : Nat) (x : Job) : (s.setJob j x).host = s.host := rfl
@[simp] theorem State.setJob_lnk (j : Nat) (x : Job) : (s.setJob j x).lnk = s.lnk := rfl
@[simp] theorem State.setJob_pairs (j : Nat) (x : Job) : (s.setJob j x).pairs = s.pairs := rfl
@[simp] theorem State.setJob_guest (j : Nat) (x : Job) : (s.setJob j x).guest = s.guest := rfl
@[simp] theorem State.setJob_thm (j : Nat) (x : Job) : (s.setJob j x).thm = s.thm := rfl
@[simp] theorem State.setJob_pwr (j : Nat) (x : Job) : (s.setJob j x).pwr = s.pwr := rfl
@[simp] theorem State.setJob_mtrPres (j : Nat) (x : Job) : (s.setJob j x).mtrPres = s.mtrPres := rfl
@[simp] theorem State.setJob_meter (j : Nat) (x : Job) : (s.setJob j x).meter = s.meter := rfl
@[simp] theorem State.setJob_mtr (j : Nat) (x : Job) : (s.setJob j x).mtr = s.mtr := rfl
@[simp] theorem State.setJob_trc (j : Nat) (x : Job) : (s.setJob j x).trc = s.trc := rfl
@[simp] theorem State.job_setJob_self (j : Nat) (x : Job) : (s.setJob j x).job j = x := by simp [State.job]
@[simp] theorem State.job_setJob_ne {j i : Nat} (x : Job) (h : i ≠ j) : (s.setJob j x).job i = s.job i := by simp [State.job, h]
@[simp] theorem State.core_setJob (j i : Nat) (x : Job) : (s.setJob j x).core i = s.core i := rfl
@[simp] theorem State.hal_setJob (j i : Nat) (x : Job) : (s.setJob j x).hal i = s.hal i := rfl
@[simp] theorem State.nbu_setJob (j i : Nat) (x : Job) : (s.setJob j x).nbu i = s.nbu i := rfl
@[simp] theorem State.cache_setJob (j i : Nat) (x : Job) : (s.setJob j x).cache i = s.cache i := rfl
@[simp] theorem State.die_setJob (j i : Nat) (x : Job) : (s.setJob j x).die i = s.die i := rfl
@[simp] theorem State.clu_setJob (j i : Nat) (x : Job) : (s.setJob j x).clu i = s.clu i := rfl
@[simp] theorem State.ctx_setJob (j i : Nat) (x : Job) : (s.setJob j x).ctx i = s.ctx i := rfl

/-! `State.setCtx` -/

@[simp] theorem State.setCtx_pending (n : Nat) (x : Ctx) : (s.setCtx n x).pending = s.pending := rfl
@[simp] theorem State.setCtx_tx (n : Nat) (x : Ctx) : (s.setCtx n x).tx = s.tx := rfl
@[simp] theorem State.setCtx_fresh (n : Nat) (x : Ctx) : (s.setCtx n x).fresh = s.fresh := rfl
@[simp] theorem State.setCtx_struck (n : Nat) (x : Ctx) : (s.setCtx n x).struck = s.struck := rfl
@[simp] theorem State.setCtx_perstOut (n : Nat) (x : Ctx) : (s.setCtx n x).perstOut = s.perstOut := rfl
@[simp] theorem State.setCtx_halfMast (n : Nat) (x : Ctx) : (s.setCtx n x).halfMast = s.halfMast := rfl
@[simp] theorem State.setCtx_hubCount (n : Nat) (x : Ctx) : (s.setCtx n x).hubCount = s.hubCount := rfl
@[simp] theorem State.setCtx_hubPllLost (n : Nat) (x : Ctx) : (s.setCtx n x).hubPllLost = s.hubPllLost := rfl
@[simp] theorem State.setCtx_boot (n : Nat) (x : Ctx) : (s.setCtx n x).boot = s.boot := rfl
@[simp] theorem State.setCtx_alert (n : Nat) (x : Ctx) : (s.setCtx n x).alert = s.alert := rfl
@[simp] theorem State.setCtx_accessErr (n : Nat) (x : Ctx) : (s.setCtx n x).accessErr = s.accessErr := rfl
@[simp] theorem State.setCtx_mbox (n : Nat) (x : Ctx) : (s.setCtx n x).mbox = s.mbox := rfl
@[simp] theorem State.setCtx_flash (n : Nat) (x : Ctx) : (s.setCtx n x).flash = s.flash := rfl
@[simp] theorem State.setCtx_mapGen (n : Nat) (x : Ctx) : (s.setCtx n x).mapGen = s.mapGen := rfl
@[simp] theorem State.setCtx_guestUp (n : Nat) (x : Ctx) : (s.setCtx n x).guestUp = s.guestUp := rfl
@[simp] theorem State.setCtx_map (n : Nat) (x : Ctx) : (s.setCtx n x).map = s.map := rfl
@[simp] theorem State.setCtx_dies (n : Nat) (x : Ctx) : (s.setCtx n x).dies = s.dies := rfl
@[simp] theorem State.setCtx_clus (n : Nat) (x : Ctx) : (s.setCtx n x).clus = s.clus := rfl
@[simp] theorem State.setCtx_cores (n : Nat) (x : Ctx) : (s.setCtx n x).cores = s.cores := rfl
@[simp] theorem State.setCtx_hals (n : Nat) (x : Ctx) : (s.setCtx n x).hals = s.hals := rfl
@[simp] theorem State.setCtx_nbus (n : Nat) (x : Ctx) : (s.setCtx n x).nbus = s.nbus := rfl
@[simp] theorem State.setCtx_mem (n : Nat) (x : Ctx) : (s.setCtx n x).mem = s.mem := rfl
@[simp] theorem State.setCtx_flips (n : Nat) (x : Ctx) : (s.setCtx n x).flips = s.flips := rfl
@[simp] theorem State.setCtx_scratch (n : Nat) (x : Ctx) : (s.setCtx n x).scratch = s.scratch := rfl
@[simp] theorem State.setCtx_scratchBad (n : Nat) (x : Ctx) : (s.setCtx n x).scratchBad = s.scratchBad := rfl
@[simp] theorem State.setCtx_scratchOne (n : Nat) (x : Ctx) : (s.setCtx n x).scratchOne = s.scratchOne := rfl
@[simp] theorem State.setCtx_caches (n : Nat) (x : Ctx) : (s.setCtx n x).caches = s.caches := rfl
@[simp] theorem State.setCtx_invals (n : Nat) (x : Ctx) : (s.setCtx n x).invals = s.invals := rfl
@[simp] theorem State.setCtx_net (n : Nat) (x : Ctx) : (s.setCtx n x).net = s.net := rfl
@[simp] theorem State.setCtx_jobs (n : Nat) (x : Ctx) : (s.setCtx n x).jobs = s.jobs := rfl
@[simp] theorem State.setCtx_place (n : Nat) (x : Ctx) : (s.setCtx n x).place = s.place := rfl
@[simp] theorem State.setCtx_ctxs (n : Nat) (x : Ctx) : (s.setCtx n x).ctxs = tput s.ctxs n x := rfl
@[simp] theorem State.setCtx_own (n : Nat) (x : Ctx) : (s.setCtx n x).own = s.own := rfl
@[simp] theorem State.setCtx_sec (n : Nat) (x : Ctx) : (s.setCtx n x).sec = s.sec := rfl
@[simp] theorem State.setCtx_sess (n : Nat) (x : Ctx) : (s.setCtx n x).sess = s.sess := rfl
@[simp] theorem State.setCtx_reports (n : Nat) (x : Ctx) : (s.setCtx n x).reports = s.reports := rfl
@[simp] theorem State.setCtx_flt (n : Nat) (x : Ctx) : (s.setCtx n x).flt = s.flt := rfl
@[simp] theorem State.setCtx_serve (n : Nat) (x : Ctx) : (s.setCtx n x).serve = s.serve := rfl
@[simp] theorem State.setCtx_dma (n : Nat) (x : Ctx) : (s.setCtx n x).dma = s.dma := rfl
@[simp] theorem State.setCtx_que (n : Nat) (x : Ctx) : (s.setCtx n x).que = s.que := rfl
@[simp] theorem State.setCtx_host (n : Nat) (x : Ctx) : (s.setCtx n x).host = s.host := rfl
@[simp] theorem State.setCtx_lnk (n : Nat) (x : Ctx) : (s.setCtx n x).lnk = s.lnk := rfl
@[simp] theorem State.setCtx_pairs (n : Nat) (x : Ctx) : (s.setCtx n x).pairs = s.pairs := rfl
@[simp] theorem State.setCtx_guest (n : Nat) (x : Ctx) : (s.setCtx n x).guest = s.guest := rfl
@[simp] theorem State.setCtx_thm (n : Nat) (x : Ctx) : (s.setCtx n x).thm = s.thm := rfl
@[simp] theorem State.setCtx_pwr (n : Nat) (x : Ctx) : (s.setCtx n x).pwr = s.pwr := rfl
@[simp] theorem State.setCtx_mtrPres (n : Nat) (x : Ctx) : (s.setCtx n x).mtrPres = s.mtrPres := rfl
@[simp] theorem State.setCtx_meter (n : Nat) (x : Ctx) : (s.setCtx n x).meter = s.meter := rfl
@[simp] theorem State.setCtx_mtr (n : Nat) (x : Ctx) : (s.setCtx n x).mtr = s.mtr := rfl
@[simp] theorem State.setCtx_trc (n : Nat) (x : Ctx) : (s.setCtx n x).trc = s.trc := rfl
@[simp] theorem State.ctx_setCtx_self (n : Nat) (x : Ctx) : (s.setCtx n x).ctx n = x := by simp [State.ctx]
@[simp] theorem State.ctx_setCtx_ne {n i : Nat} (x : Ctx) (h : i ≠ n) : (s.setCtx n x).ctx i = s.ctx i := by simp [State.ctx, h]
@[simp] theorem State.core_setCtx (n i : Nat) (x : Ctx) : (s.setCtx n x).core i = s.core i := rfl
@[simp] theorem State.hal_setCtx (n i : Nat) (x : Ctx) : (s.setCtx n x).hal i = s.hal i := rfl
@[simp] theorem State.nbu_setCtx (n i : Nat) (x : Ctx) : (s.setCtx n x).nbu i = s.nbu i := rfl
@[simp] theorem State.cache_setCtx (n i : Nat) (x : Ctx) : (s.setCtx n x).cache i = s.cache i := rfl
@[simp] theorem State.die_setCtx (n i : Nat) (x : Ctx) : (s.setCtx n x).die i = s.die i := rfl
@[simp] theorem State.clu_setCtx (n i : Nat) (x : Ctx) : (s.setCtx n x).clu i = s.clu i := rfl
@[simp] theorem State.job_setCtx (n i : Nat) (x : Ctx) : (s.setCtx n x).job i = s.job i := rfl

/-! `State.send` -/

@[simp] theorem State.send_pending (m : Tx) : (s.send m).pending = s.pending := rfl
@[simp] theorem State.send_tx (m : Tx) : (s.send m).tx = s.tx ++ [m] := rfl
@[simp] theorem State.send_fresh (m : Tx) : (s.send m).fresh = s.fresh := rfl
@[simp] theorem State.send_struck (m : Tx) : (s.send m).struck = s.struck := rfl
@[simp] theorem State.send_perstOut (m : Tx) : (s.send m).perstOut = s.perstOut := rfl
@[simp] theorem State.send_halfMast (m : Tx) : (s.send m).halfMast = s.halfMast := rfl
@[simp] theorem State.send_hubCount (m : Tx) : (s.send m).hubCount = s.hubCount := rfl
@[simp] theorem State.send_hubPllLost (m : Tx) : (s.send m).hubPllLost = s.hubPllLost := rfl
@[simp] theorem State.send_boot (m : Tx) : (s.send m).boot = s.boot := rfl
@[simp] theorem State.send_alert (m : Tx) : (s.send m).alert = s.alert := rfl
@[simp] theorem State.send_accessErr (m : Tx) : (s.send m).accessErr = s.accessErr := rfl
@[simp] theorem State.send_mbox (m : Tx) : (s.send m).mbox = s.mbox := rfl
@[simp] theorem State.send_flash (m : Tx) : (s.send m).flash = s.flash := rfl
@[simp] theorem State.send_mapGen (m : Tx) : (s.send m).mapGen = s.mapGen := rfl
@[simp] theorem State.send_guestUp (m : Tx) : (s.send m).guestUp = s.guestUp := rfl
@[simp] theorem State.send_map (m : Tx) : (s.send m).map = s.map := rfl
@[simp] theorem State.send_dies (m : Tx) : (s.send m).dies = s.dies := rfl
@[simp] theorem State.send_clus (m : Tx) : (s.send m).clus = s.clus := rfl
@[simp] theorem State.send_cores (m : Tx) : (s.send m).cores = s.cores := rfl
@[simp] theorem State.send_hals (m : Tx) : (s.send m).hals = s.hals := rfl
@[simp] theorem State.send_nbus (m : Tx) : (s.send m).nbus = s.nbus := rfl
@[simp] theorem State.send_mem (m : Tx) : (s.send m).mem = s.mem := rfl
@[simp] theorem State.send_flips (m : Tx) : (s.send m).flips = s.flips := rfl
@[simp] theorem State.send_scratch (m : Tx) : (s.send m).scratch = s.scratch := rfl
@[simp] theorem State.send_scratchBad (m : Tx) : (s.send m).scratchBad = s.scratchBad := rfl
@[simp] theorem State.send_scratchOne (m : Tx) : (s.send m).scratchOne = s.scratchOne := rfl
@[simp] theorem State.send_caches (m : Tx) : (s.send m).caches = s.caches := rfl
@[simp] theorem State.send_invals (m : Tx) : (s.send m).invals = s.invals := rfl
@[simp] theorem State.send_net (m : Tx) : (s.send m).net = s.net := rfl
@[simp] theorem State.send_jobs (m : Tx) : (s.send m).jobs = s.jobs := rfl
@[simp] theorem State.send_place (m : Tx) : (s.send m).place = s.place := rfl
@[simp] theorem State.send_ctxs (m : Tx) : (s.send m).ctxs = s.ctxs := rfl
@[simp] theorem State.send_own (m : Tx) : (s.send m).own = s.own := rfl
@[simp] theorem State.send_sec (m : Tx) : (s.send m).sec = s.sec := rfl
@[simp] theorem State.send_sess (m : Tx) : (s.send m).sess = s.sess := rfl
@[simp] theorem State.send_reports (m : Tx) : (s.send m).reports = s.reports := rfl
@[simp] theorem State.send_flt (m : Tx) : (s.send m).flt = s.flt := rfl
@[simp] theorem State.send_serve (m : Tx) : (s.send m).serve = s.serve := rfl
@[simp] theorem State.send_dma (m : Tx) : (s.send m).dma = s.dma := rfl
@[simp] theorem State.send_que (m : Tx) : (s.send m).que = s.que := rfl
@[simp] theorem State.send_host (m : Tx) : (s.send m).host = s.host := rfl
@[simp] theorem State.send_lnk (m : Tx) : (s.send m).lnk = s.lnk := rfl
@[simp] theorem State.send_pairs (m : Tx) : (s.send m).pairs = s.pairs := rfl
@[simp] theorem State.send_guest (m : Tx) : (s.send m).guest = s.guest := rfl
@[simp] theorem State.send_thm (m : Tx) : (s.send m).thm = s.thm := rfl
@[simp] theorem State.send_pwr (m : Tx) : (s.send m).pwr = s.pwr := rfl
@[simp] theorem State.send_mtrPres (m : Tx) : (s.send m).mtrPres = s.mtrPres := rfl
@[simp] theorem State.send_meter (m : Tx) : (s.send m).meter = s.meter := rfl
@[simp] theorem State.send_mtr (m : Tx) : (s.send m).mtr = s.mtr := rfl
@[simp] theorem State.send_trc (m : Tx) : (s.send m).trc = s.trc := rfl
@[simp] theorem State.core_send (m : Tx) (i : Nat) : (s.send m).core i = s.core i := rfl
@[simp] theorem State.hal_send (m : Tx) (i : Nat) : (s.send m).hal i = s.hal i := rfl
@[simp] theorem State.nbu_send (m : Tx) (i : Nat) : (s.send m).nbu i = s.nbu i := rfl
@[simp] theorem State.cache_send (m : Tx) (i : Nat) : (s.send m).cache i = s.cache i := rfl
@[simp] theorem State.die_send (m : Tx) (i : Nat) : (s.send m).die i = s.die i := rfl
@[simp] theorem State.clu_send (m : Tx) (i : Nat) : (s.send m).clu i = s.clu i := rfl
@[simp] theorem State.job_send (m : Tx) (i : Nat) : (s.send m).job i = s.job i := rfl
@[simp] theorem State.ctx_send (m : Tx) (i : Nat) : (s.send m).ctx i = s.ctx i := rfl

/-! `State.report` -/

@[simp] theorem State.report_pending (r : Report) : (s.report r).pending = s.pending := rfl
@[simp] theorem State.report_tx (r : Report) : (s.report r).tx = s.tx := rfl
@[simp] theorem State.report_fresh (r : Report) : (s.report r).fresh = s.fresh := rfl
@[simp] theorem State.report_struck (r : Report) : (s.report r).struck = s.struck := rfl
@[simp] theorem State.report_perstOut (r : Report) : (s.report r).perstOut = s.perstOut := rfl
@[simp] theorem State.report_halfMast (r : Report) : (s.report r).halfMast = s.halfMast := rfl
@[simp] theorem State.report_hubCount (r : Report) : (s.report r).hubCount = s.hubCount := rfl
@[simp] theorem State.report_hubPllLost (r : Report) : (s.report r).hubPllLost = s.hubPllLost := rfl
@[simp] theorem State.report_boot (r : Report) : (s.report r).boot = s.boot := rfl
@[simp] theorem State.report_alert (r : Report) : (s.report r).alert = s.alert := rfl
@[simp] theorem State.report_accessErr (r : Report) : (s.report r).accessErr = s.accessErr := rfl
@[simp] theorem State.report_mbox (r : Report) : (s.report r).mbox = s.mbox := rfl
@[simp] theorem State.report_flash (r : Report) : (s.report r).flash = s.flash := rfl
@[simp] theorem State.report_mapGen (r : Report) : (s.report r).mapGen = s.mapGen := rfl
@[simp] theorem State.report_guestUp (r : Report) : (s.report r).guestUp = s.guestUp := rfl
@[simp] theorem State.report_map (r : Report) : (s.report r).map = s.map := rfl
@[simp] theorem State.report_dies (r : Report) : (s.report r).dies = s.dies := rfl
@[simp] theorem State.report_clus (r : Report) : (s.report r).clus = s.clus := rfl
@[simp] theorem State.report_cores (r : Report) : (s.report r).cores = s.cores := rfl
@[simp] theorem State.report_hals (r : Report) : (s.report r).hals = s.hals := rfl
@[simp] theorem State.report_nbus (r : Report) : (s.report r).nbus = s.nbus := rfl
@[simp] theorem State.report_mem (r : Report) : (s.report r).mem = s.mem := rfl
@[simp] theorem State.report_flips (r : Report) : (s.report r).flips = s.flips := rfl
@[simp] theorem State.report_scratch (r : Report) : (s.report r).scratch = s.scratch := rfl
@[simp] theorem State.report_scratchBad (r : Report) : (s.report r).scratchBad = s.scratchBad := rfl
@[simp] theorem State.report_scratchOne (r : Report) : (s.report r).scratchOne = s.scratchOne := rfl
@[simp] theorem State.report_caches (r : Report) : (s.report r).caches = s.caches := rfl
@[simp] theorem State.report_invals (r : Report) : (s.report r).invals = s.invals := rfl
@[simp] theorem State.report_net (r : Report) : (s.report r).net = s.net := rfl
@[simp] theorem State.report_jobs (r : Report) : (s.report r).jobs = s.jobs := rfl
@[simp] theorem State.report_place (r : Report) : (s.report r).place = s.place := rfl
@[simp] theorem State.report_ctxs (r : Report) : (s.report r).ctxs = s.ctxs := rfl
@[simp] theorem State.report_own (r : Report) : (s.report r).own = s.own := rfl
@[simp] theorem State.report_sec (r : Report) : (s.report r).sec = s.sec := rfl
@[simp] theorem State.report_sess (r : Report) : (s.report r).sess = s.sess := rfl
@[simp] theorem State.report_reports (r : Report) : (s.report r).reports = s.reports ++ [r] := rfl
@[simp] theorem State.report_flt (r : Report) : (s.report r).flt = s.flt := rfl
@[simp] theorem State.report_serve (r : Report) : (s.report r).serve = s.serve := rfl
@[simp] theorem State.report_dma (r : Report) : (s.report r).dma = s.dma := rfl
@[simp] theorem State.report_que (r : Report) : (s.report r).que = s.que := rfl
@[simp] theorem State.report_host (r : Report) : (s.report r).host = s.host := rfl
@[simp] theorem State.report_lnk (r : Report) : (s.report r).lnk = s.lnk := rfl
@[simp] theorem State.report_pairs (r : Report) : (s.report r).pairs = s.pairs := rfl
@[simp] theorem State.report_guest (r : Report) : (s.report r).guest = s.guest := rfl
@[simp] theorem State.report_thm (r : Report) : (s.report r).thm = s.thm := rfl
@[simp] theorem State.report_pwr (r : Report) : (s.report r).pwr = s.pwr := rfl
@[simp] theorem State.report_mtrPres (r : Report) : (s.report r).mtrPres = s.mtrPres := rfl
@[simp] theorem State.report_meter (r : Report) : (s.report r).meter = s.meter := rfl
@[simp] theorem State.report_mtr (r : Report) : (s.report r).mtr = s.mtr := rfl
@[simp] theorem State.report_trc (r : Report) : (s.report r).trc = s.trc := rfl
@[simp] theorem State.core_report (r : Report) (i : Nat) : (s.report r).core i = s.core i := rfl
@[simp] theorem State.hal_report (r : Report) (i : Nat) : (s.report r).hal i = s.hal i := rfl
@[simp] theorem State.nbu_report (r : Report) (i : Nat) : (s.report r).nbu i = s.nbu i := rfl
@[simp] theorem State.cache_report (r : Report) (i : Nat) : (s.report r).cache i = s.cache i := rfl
@[simp] theorem State.die_report (r : Report) (i : Nat) : (s.report r).die i = s.die i := rfl
@[simp] theorem State.clu_report (r : Report) (i : Nat) : (s.report r).clu i = s.clu i := rfl
@[simp] theorem State.job_report (r : Report) (i : Nat) : (s.report r).job i = s.job i := rfl
@[simp] theorem State.ctx_report (r : Report) (i : Nat) : (s.report r).ctx i = s.ctx i := rfl

/-! `State.alertOn` -/

@[simp] theorem State.alertOn_pending (k : Nat) : (s.alertOn k).pending = s.pending := rfl
@[simp] theorem State.alertOn_tx (k : Nat) : (s.alertOn k).tx = s.tx := rfl
@[simp] theorem State.alertOn_fresh (k : Nat) : (s.alertOn k).fresh = s.fresh := rfl
@[simp] theorem State.alertOn_struck (k : Nat) : (s.alertOn k).struck = s.struck := rfl
@[simp] theorem State.alertOn_perstOut (k : Nat) : (s.alertOn k).perstOut = s.perstOut := rfl
@[simp] theorem State.alertOn_halfMast (k : Nat) : (s.alertOn k).halfMast = s.halfMast := rfl
@[simp] theorem State.alertOn_hubCount (k : Nat) : (s.alertOn k).hubCount = s.hubCount := rfl
@[simp] theorem State.alertOn_hubPllLost (k : Nat) : (s.alertOn k).hubPllLost = s.hubPllLost := rfl
@[simp] theorem State.alertOn_boot (k : Nat) : (s.alertOn k).boot = s.boot := rfl
@[simp] theorem State.alertOn_accessErr (k : Nat) : (s.alertOn k).accessErr = s.accessErr := rfl
@[simp] theorem State.alertOn_mbox (k : Nat) : (s.alertOn k).mbox = s.mbox := rfl
@[simp] theorem State.alertOn_flash (k : Nat) : (s.alertOn k).flash = s.flash := rfl
@[simp] theorem State.alertOn_mapGen (k : Nat) : (s.alertOn k).mapGen = s.mapGen := rfl
@[simp] theorem State.alertOn_guestUp (k : Nat) : (s.alertOn k).guestUp = s.guestUp := rfl
@[simp] theorem State.alertOn_map (k : Nat) : (s.alertOn k).map = s.map := rfl
@[simp] theorem State.alertOn_dies (k : Nat) : (s.alertOn k).dies = s.dies := rfl
@[simp] theorem State.alertOn_clus (k : Nat) : (s.alertOn k).clus = s.clus := rfl
@[simp] theorem State.alertOn_cores (k : Nat) : (s.alertOn k).cores = s.cores := rfl
@[simp] theorem State.alertOn_hals (k : Nat) : (s.alertOn k).hals = s.hals := rfl
@[simp] theorem State.alertOn_nbus (k : Nat) : (s.alertOn k).nbus = s.nbus := rfl
@[simp] theorem State.alertOn_mem (k : Nat) : (s.alertOn k).mem = s.mem := rfl
@[simp] theorem State.alertOn_flips (k : Nat) : (s.alertOn k).flips = s.flips := rfl
@[simp] theorem State.alertOn_scratch (k : Nat) : (s.alertOn k).scratch = s.scratch := rfl
@[simp] theorem State.alertOn_scratchBad (k : Nat) : (s.alertOn k).scratchBad = s.scratchBad := rfl
@[simp] theorem State.alertOn_scratchOne (k : Nat) : (s.alertOn k).scratchOne = s.scratchOne := rfl
@[simp] theorem State.alertOn_caches (k : Nat) : (s.alertOn k).caches = s.caches := rfl
@[simp] theorem State.alertOn_invals (k : Nat) : (s.alertOn k).invals = s.invals := rfl
@[simp] theorem State.alertOn_net (k : Nat) : (s.alertOn k).net = s.net := rfl
@[simp] theorem State.alertOn_jobs (k : Nat) : (s.alertOn k).jobs = s.jobs := rfl
@[simp] theorem State.alertOn_place (k : Nat) : (s.alertOn k).place = s.place := rfl
@[simp] theorem State.alertOn_ctxs (k : Nat) : (s.alertOn k).ctxs = s.ctxs := rfl
@[simp] theorem State.alertOn_own (k : Nat) : (s.alertOn k).own = s.own := rfl
@[simp] theorem State.alertOn_sec (k : Nat) : (s.alertOn k).sec = s.sec := rfl
@[simp] theorem State.alertOn_sess (k : Nat) : (s.alertOn k).sess = s.sess := rfl
@[simp] theorem State.alertOn_reports (k : Nat) : (s.alertOn k).reports = s.reports := rfl
@[simp] theorem State.alertOn_flt (k : Nat) : (s.alertOn k).flt = s.flt := rfl
@[simp] theorem State.alertOn_serve (k : Nat) : (s.alertOn k).serve = s.serve := rfl
@[simp] theorem State.alertOn_dma (k : Nat) : (s.alertOn k).dma = s.dma := rfl
@[simp] theorem State.alertOn_que (k : Nat) : (s.alertOn k).que = s.que := rfl
@[simp] theorem State.alertOn_host (k : Nat) : (s.alertOn k).host = s.host := rfl
@[simp] theorem State.alertOn_lnk (k : Nat) : (s.alertOn k).lnk = s.lnk := rfl
@[simp] theorem State.alertOn_pairs (k : Nat) : (s.alertOn k).pairs = s.pairs := rfl
@[simp] theorem State.alertOn_guest (k : Nat) : (s.alertOn k).guest = s.guest := rfl
@[simp] theorem State.alertOn_thm (k : Nat) : (s.alertOn k).thm = s.thm := rfl
@[simp] theorem State.alertOn_pwr (k : Nat) : (s.alertOn k).pwr = s.pwr := rfl
@[simp] theorem State.alertOn_mtrPres (k : Nat) : (s.alertOn k).mtrPres = s.mtrPres := rfl
@[simp] theorem State.alertOn_meter (k : Nat) : (s.alertOn k).meter = s.meter := rfl
@[simp] theorem State.alertOn_mtr (k : Nat) : (s.alertOn k).mtr = s.mtr := rfl
@[simp] theorem State.alertOn_trc (k : Nat) : (s.alertOn k).trc = s.trc := rfl

/-! `State.alertOff` -/

@[simp] theorem State.alertOff_pending (k : Nat) : (s.alertOff k).pending = s.pending := rfl
@[simp] theorem State.alertOff_tx (k : Nat) : (s.alertOff k).tx = s.tx := rfl
@[simp] theorem State.alertOff_fresh (k : Nat) : (s.alertOff k).fresh = s.fresh := rfl
@[simp] theorem State.alertOff_struck (k : Nat) : (s.alertOff k).struck = s.struck := rfl
@[simp] theorem State.alertOff_perstOut (k : Nat) : (s.alertOff k).perstOut = s.perstOut := rfl
@[simp] theorem State.alertOff_halfMast (k : Nat) : (s.alertOff k).halfMast = s.halfMast := rfl
@[simp] theorem State.alertOff_hubCount (k : Nat) : (s.alertOff k).hubCount = s.hubCount := rfl
@[simp] theorem State.alertOff_hubPllLost (k : Nat) : (s.alertOff k).hubPllLost = s.hubPllLost := rfl
@[simp] theorem State.alertOff_boot (k : Nat) : (s.alertOff k).boot = s.boot := rfl
@[simp] theorem State.alertOff_accessErr (k : Nat) : (s.alertOff k).accessErr = s.accessErr := rfl
@[simp] theorem State.alertOff_mbox (k : Nat) : (s.alertOff k).mbox = s.mbox := rfl
@[simp] theorem State.alertOff_flash (k : Nat) : (s.alertOff k).flash = s.flash := rfl
@[simp] theorem State.alertOff_mapGen (k : Nat) : (s.alertOff k).mapGen = s.mapGen := rfl
@[simp] theorem State.alertOff_guestUp (k : Nat) : (s.alertOff k).guestUp = s.guestUp := rfl
@[simp] theorem State.alertOff_map (k : Nat) : (s.alertOff k).map = s.map := rfl
@[simp] theorem State.alertOff_dies (k : Nat) : (s.alertOff k).dies = s.dies := rfl
@[simp] theorem State.alertOff_clus (k : Nat) : (s.alertOff k).clus = s.clus := rfl
@[simp] theorem State.alertOff_cores (k : Nat) : (s.alertOff k).cores = s.cores := rfl
@[simp] theorem State.alertOff_hals (k : Nat) : (s.alertOff k).hals = s.hals := rfl
@[simp] theorem State.alertOff_nbus (k : Nat) : (s.alertOff k).nbus = s.nbus := rfl
@[simp] theorem State.alertOff_mem (k : Nat) : (s.alertOff k).mem = s.mem := rfl
@[simp] theorem State.alertOff_flips (k : Nat) : (s.alertOff k).flips = s.flips := rfl
@[simp] theorem State.alertOff_scratch (k : Nat) : (s.alertOff k).scratch = s.scratch := rfl
@[simp] theorem State.alertOff_scratchBad (k : Nat) : (s.alertOff k).scratchBad = s.scratchBad := rfl
@[simp] theorem State.alertOff_scratchOne (k : Nat) : (s.alertOff k).scratchOne = s.scratchOne := rfl
@[simp] theorem State.alertOff_caches (k : Nat) : (s.alertOff k).caches = s.caches := rfl
@[simp] theorem State.alertOff_invals (k : Nat) : (s.alertOff k).invals = s.invals := rfl
@[simp] theorem State.alertOff_net (k : Nat) : (s.alertOff k).net = s.net := rfl
@[simp] theorem State.alertOff_jobs (k : Nat) : (s.alertOff k).jobs = s.jobs := rfl
@[simp] theorem State.alertOff_place (k : Nat) : (s.alertOff k).place = s.place := rfl
@[simp] theorem State.alertOff_ctxs (k : Nat) : (s.alertOff k).ctxs = s.ctxs := rfl
@[simp] theorem State.alertOff_own (k : Nat) : (s.alertOff k).own = s.own := rfl
@[simp] theorem State.alertOff_sec (k : Nat) : (s.alertOff k).sec = s.sec := rfl
@[simp] theorem State.alertOff_sess (k : Nat) : (s.alertOff k).sess = s.sess := rfl
@[simp] theorem State.alertOff_reports (k : Nat) : (s.alertOff k).reports = s.reports := rfl
@[simp] theorem State.alertOff_flt (k : Nat) : (s.alertOff k).flt = s.flt := rfl
@[simp] theorem State.alertOff_serve (k : Nat) : (s.alertOff k).serve = s.serve := rfl
@[simp] theorem State.alertOff_dma (k : Nat) : (s.alertOff k).dma = s.dma := rfl
@[simp] theorem State.alertOff_que (k : Nat) : (s.alertOff k).que = s.que := rfl
@[simp] theorem State.alertOff_host (k : Nat) : (s.alertOff k).host = s.host := rfl
@[simp] theorem State.alertOff_lnk (k : Nat) : (s.alertOff k).lnk = s.lnk := rfl
@[simp] theorem State.alertOff_pairs (k : Nat) : (s.alertOff k).pairs = s.pairs := rfl
@[simp] theorem State.alertOff_guest (k : Nat) : (s.alertOff k).guest = s.guest := rfl
@[simp] theorem State.alertOff_thm (k : Nat) : (s.alertOff k).thm = s.thm := rfl
@[simp] theorem State.alertOff_pwr (k : Nat) : (s.alertOff k).pwr = s.pwr := rfl
@[simp] theorem State.alertOff_mtrPres (k : Nat) : (s.alertOff k).mtrPres = s.mtrPres := rfl
@[simp] theorem State.alertOff_meter (k : Nat) : (s.alertOff k).meter = s.meter := rfl
@[simp] theorem State.alertOff_mtr (k : Nat) : (s.alertOff k).mtr = s.mtr := rfl
@[simp] theorem State.alertOff_trc (k : Nat) : (s.alertOff k).trc = s.trc := rfl

/-! `State.free` -/

@[simp] theorem State.free_pending : s.free.2.pending = s.pending := rfl
@[simp] theorem State.free_tx : s.free.2.tx = s.tx := rfl
@[simp] theorem State.free_fresh : s.free.2.fresh = s.fresh + 1 := rfl
@[simp] theorem State.free_struck : s.free.2.struck = s.struck := rfl
@[simp] theorem State.free_perstOut : s.free.2.perstOut = s.perstOut := rfl
@[simp] theorem State.free_halfMast : s.free.2.halfMast = s.halfMast := rfl
@[simp] theorem State.free_hubCount : s.free.2.hubCount = s.hubCount := rfl
@[simp] theorem State.free_hubPllLost : s.free.2.hubPllLost = s.hubPllLost := rfl
@[simp] theorem State.free_boot : s.free.2.boot = s.boot := rfl
@[simp] theorem State.free_alert : s.free.2.alert = s.alert := rfl
@[simp] theorem State.free_accessErr : s.free.2.accessErr = s.accessErr := rfl
@[simp] theorem State.free_mbox : s.free.2.mbox = s.mbox := rfl
@[simp] theorem State.free_flash : s.free.2.flash = s.flash := rfl
@[simp] theorem State.free_mapGen : s.free.2.mapGen = s.mapGen := rfl
@[simp] theorem State.free_guestUp : s.free.2.guestUp = s.guestUp := rfl
@[simp] theorem State.free_map : s.free.2.map = s.map := rfl
@[simp] theorem State.free_dies : s.free.2.dies = s.dies := rfl
@[simp] theorem State.free_clus : s.free.2.clus = s.clus := rfl
@[simp] theorem State.free_cores : s.free.2.cores = s.cores := rfl
@[simp] theorem State.free_hals : s.free.2.hals = s.hals := rfl
@[simp] theorem State.free_nbus : s.free.2.nbus = s.nbus := rfl
@[simp] theorem State.free_mem : s.free.2.mem = s.mem := rfl
@[simp] theorem State.free_flips : s.free.2.flips = s.flips := rfl
@[simp] theorem State.free_scratch : s.free.2.scratch = s.scratch := rfl
@[simp] theorem State.free_scratchBad : s.free.2.scratchBad = s.scratchBad := rfl
@[simp] theorem State.free_scratchOne : s.free.2.scratchOne = s.scratchOne := rfl
@[simp] theorem State.free_caches : s.free.2.caches = s.caches := rfl
@[simp] theorem State.free_invals : s.free.2.invals = s.invals := rfl
@[simp] theorem State.free_net : s.free.2.net = s.net := rfl
@[simp] theorem State.free_jobs : s.free.2.jobs = s.jobs := rfl
@[simp] theorem State.free_place : s.free.2.place = s.place := rfl
@[simp] theorem State.free_ctxs : s.free.2.ctxs = s.ctxs := rfl
@[simp] theorem State.free_own : s.free.2.own = s.own := rfl
@[simp] theorem State.free_sec : s.free.2.sec = s.sec := rfl
@[simp] theorem State.free_sess : s.free.2.sess = s.sess := rfl
@[simp] theorem State.free_reports : s.free.2.reports = s.reports := rfl
@[simp] theorem State.free_flt : s.free.2.flt = s.flt := rfl
@[simp] theorem State.free_serve : s.free.2.serve = s.serve := rfl
@[simp] theorem State.free_dma : s.free.2.dma = s.dma := rfl
@[simp] theorem State.free_que : s.free.2.que = s.que := rfl
@[simp] theorem State.free_host : s.free.2.host = s.host := rfl
@[simp] theorem State.free_lnk : s.free.2.lnk = s.lnk := rfl
@[simp] theorem State.free_pairs : s.free.2.pairs = s.pairs := rfl
@[simp] theorem State.free_guest : s.free.2.guest = s.guest := rfl
@[simp] theorem State.free_thm : s.free.2.thm = s.thm := rfl
@[simp] theorem State.free_pwr : s.free.2.pwr = s.pwr := rfl
@[simp] theorem State.free_mtrPres : s.free.2.mtrPres = s.mtrPres := rfl
@[simp] theorem State.free_meter : s.free.2.meter = s.meter := rfl
@[simp] theorem State.free_mtr : s.free.2.mtr = s.mtr := rfl
@[simp] theorem State.free_trc : s.free.2.trc = s.trc := rfl
@[simp] theorem State.free_value : s.free.1 = Config.freeNat s.fresh := rfl

end Sys2Proof.Machine
end

