-- ==== Sys2Proof/Laws/Keeps.lean ====
section
/-! SUPPORT. The relation that every command keeps: the queue is as before, and memories in canonical form stay so. Each shared
operation has its lemma here once; a meaning's proof composes them. -/

namespace Sys2Proof.Machine

/-- From `s` to `t` the queue is unchanged and the canonical form of the byte memories is kept. -/
structure Keeps (s t : State) : Prop where
  queue : t.pending = s.pending
  mem : twf s.mem = true → twf t.mem = true
  flips : twf s.flips = true → twf t.flips = true
  scratch : twf s.scratch = true → twf t.scratch = true

variable {s t u : State}

theorem Keeps.refl (s : State) : Keeps s s := ⟨rfl, id, id, id⟩

theorem Keeps.trans (h : Keeps s t) (k : Keeps t u) : Keeps s u :=
  ⟨k.queue.trans h.queue, k.mem ∘ h.mem, k.flips ∘ h.flips, k.scratch ∘ h.scratch⟩

/-- The canonical form holds after if it held before. -/
theorem Keeps.memOk (h : Keeps s t) (hs : s.memOk = true) : t.memOk = true := by
  simp only [State.memOk, Bool.and_eq_true] at *
  exact ⟨⟨h.mem hs.1.1, h.flips hs.1.2⟩, h.scratch hs.2⟩

/-- An update of other fields keeps everything. -/
theorem Keeps.of_eq (hp : t.pending = s.pending) (hm : t.mem = s.mem) (hf : t.flips = s.flips) (hc : t.scratch = s.scratch) : Keeps s t :=
  ⟨hp, fun h => hm ▸ h, fun h => hf ▸ h, fun h => hc ▸ h⟩

theorem Keeps.ite {c : Prop} [Decidable c] (h : Keeps s t) (k : Keeps s u) : Keeps s (if c then t else u) := by
  split
  · exact h
  · exact k

theorem Keeps.foldl {α : Type} (f : State → α → State) (hf : ∀ s a, Keeps s (f s a)) (l : List α) : ∀ s, Keeps s (l.foldl f s) := by
  induction l with
  | nil => exact Keeps.refl
  | cons a l ih => exact fun s => (hf s a).trans (ih _)

theorem Keeps.foldl_pair {α β : Type} (f : State × β → α → State × β) (hf : ∀ x a, Keeps x.1 (f x a).1) (l : List α) :
    ∀ x, Keeps x.1 (l.foldl f x).1 := by
  induction l with
  | nil => exact fun x => Keeps.refl _
  | cons a l ih => exact fun x => (hf x a).trans (ih _)

/-! Units -/

theorem keeps_setCore (s : State) (c : Nat) (x : Core) : Keeps s (s.setCore c x) := .of_eq rfl rfl rfl rfl
theorem keeps_setHal (s : State) (p : Nat) (x : Hal) : Keeps s (s.setHal p x) := .of_eq rfl rfl rfl rfl
theorem keeps_setNbu (s : State) (p : Nat) (x : Nbu) : Keeps s (s.setNbu p x) := .of_eq rfl rfl rfl rfl
theorem keeps_setCache (s : State) (h : Nat) (x : Cache) : Keeps s (s.setCache h x) := .of_eq rfl rfl rfl rfl
theorem keeps_setDie (s : State) (d : Nat) (x : Die) : Keeps s (s.setDie d x) := .of_eq rfl rfl rfl rfl
theorem keeps_setClu (s : State) (h : Nat) (x : Clu) : Keeps s (s.setClu h x) := .of_eq rfl rfl rfl rfl
theorem keeps_setJob (s : State) (j : Nat) (x : Job) : Keeps s (s.setJob j x) := .of_eq rfl rfl rfl rfl
theorem keeps_setCtx (s : State) (n : Nat) (x : Ctx) : Keeps s (s.setCtx n x) := .of_eq rfl rfl rfl rfl
theorem keeps_send (s : State) (m : Tx) : Keeps s (s.send m) := .of_eq rfl rfl rfl rfl
theorem keeps_report (s : State) (r : Report) : Keeps s (s.report r) := .of_eq rfl rfl rfl rfl
theorem keeps_free (s : State) : Keeps s s.free.2 := .of_eq rfl rfl rfl rfl
theorem keeps_alertOn (s : State) (k : Nat) : Keeps s (s.alertOn k) := .of_eq rfl rfl rfl rfl
theorem keeps_alertOff (s : State) (k : Nat) : Keeps s (s.alertOff k) := .of_eq rfl rfl rfl rfl

/-! Issue and exceptions -/

theorem keeps_goOn (s : State) (c : Nat) : Keeps s (s.goOn c) := .ite (.refl s) (keeps_setCore ..)
theorem keeps_noteRun (s : State) (c r : Nat) : Keeps s (s.noteRun c r) := .ite (.refl s) (keeps_setCore ..)
theorem keeps_setPc (s : State) (c pc : Nat) : Keeps s (s.setPc c pc) := keeps_setCore ..
theorem keeps_advance (s : State) (c : Nat) : Keeps s (s.advance c) := keeps_setPc ..
theorem keeps_imprecise (s : State) (c : Nat) (f : Impr) : Keeps s (s.imprecise c f) := keeps_setCore ..
theorem keeps_reportExc (s : State) (c cause addr : Nat) : Keeps s (s.reportExc c cause addr) := keeps_report ..
theorem keeps_takeExc (s : State) (c : Nat) (f : Impr) (i : Bool) : Keeps s (s.takeExc c f i) :=
  .ite ((keeps_setCore ..).trans (keeps_reportExc ..)) ((keeps_setCore ..).trans (keeps_reportExc ..))
theorem keeps_precise (s : State) (c cause addr : Nat) : Keeps s (s.precise c cause addr) := keeps_takeExc ..

/-! Slices -/

theorem keeps_reportBad (s : State) (p w cause j r : Nat) : Keeps s (s.reportBad p w cause j r) := by
  unfold State.reportBad
  split
  · exact .refl s
  · exact .ite ((keeps_report ..).trans (keeps_report ..)) (keeps_report ..)

theorem keeps_grant (s : State) (p : Nat) (b : By) (n : Nat) : Keeps s (s.grant p b n) := by
  unfold State.grant
  split
  · exact keeps_setHal ..
  · exact (keeps_setHal ..).trans (keeps_setCtx ..)

theorem keeps_dropLines (s : State) (p : Nat) (f : SbLine → Bool) : Keeps s (s.dropLines p f) := by
  unfold State.dropLines
  split
  · exact .refl s
  · exact .ite (.refl s) (keeps_setCore ..)

theorem keeps_putWord (s : State) (p w : Nat) (d : Bytes) : Keeps s (s.putWord p w d) :=
  ⟨rfl, fun h => twf_tputs d _ h, fun h => twf_tclear _ _ h, id⟩

theorem keeps_flushEntry (s : State) (p : Nat) (e : MergeEntry) (cls : Nat) : Keeps s (s.flushEntry p e cls) := by
  unfold State.flushEntry
  extract_lets b s1 x s2
  have h : Keeps s s2 := (keeps_grant ..).trans (keeps_setHal ..)
  refine .ite (h.trans (keeps_putWord ..)) (h.trans ?_)
  split
  · exact keeps_putWord ..
  · exact (keeps_setHal ..).trans (keeps_putWord ..)
  · extract_lets y s3 s4
    have h4 : Keeps s2 s4 := (keeps_setHal ..).trans (keeps_reportBad ..)
    refine .ite (h4.trans ?_) h4
    split
    · exact keeps_imprecise ..
    · exact .refl _

theorem keeps_countHeld (s : State) (p : Nat) : Keeps s (s.countHeld p) := keeps_setNbu ..

theorem keeps_queueFlush (s : State) (p cls : Nat) (e : MergeEntry) : Keeps s (s.queueFlush p cls e) := by
  unfold State.queueFlush
  extract_lets s1 x
  exact (show Keeps s s1 from .ite (.refl s) (keeps_countHeld ..)).trans (keeps_setHal ..)

theorem keeps_flushWhere (s : State) (p : Nat) (sel : MergeEntry → Bool) (cls : Nat) : Keeps s (s.flushWhere p sel cls) :=
  (keeps_setHal ..).trans (Keeps.foldl _ (fun s e => keeps_queueFlush s p cls e) _ _)

theorem keeps_flushWord (s : State) (p w cls : Nat) : Keeps s (s.flushWord p w cls) := by
  unfold State.flushWord
  extract_lets x
  split
  · exact (keeps_setHal ..).trans (keeps_flushEntry ..)
  · exact .refl s

theorem keeps_makeRoom (s : State) (p : Nat) : Keeps s (s.makeRoom p) := by
  unfold State.makeRoom
  split
  · exact .refl s
  · exact .ite (.refl s) (.ite ((keeps_setHal ..).trans (keeps_flushEntry ..)) ((keeps_setHal ..).trans (keeps_queueFlush ..)))

theorem keeps_writePart (s : State) (p w : Nat) (d : Bytes) (m : Nat) (own : Bool) : Keeps s (s.writePart p w d m own) := by
  unfold State.writePart
  extract_lets s1 x s2 y s3
  have h : Keeps s s1 := keeps_dropLines ..
  refine .ite (h.trans ((keeps_setHal ..).trans (keeps_putWord ..))) (h.trans ?_)
  have h2 : Keeps s1 s2 := keeps_makeRoom ..
  have h3 : Keeps s1 s3 := by
    unfold s3
    split
    · exact keeps_setHal ..
    · exact h2.trans (keeps_setHal ..)
  exact .ite (h3.trans (keeps_flushWord ..)) h3

theorem keeps_dropAt (s : State) (h line : Nat) : Keeps s (s.dropAt h line) := keeps_setCache ..

theorem keeps_dropHome (s : State) (line : Nat) (w : Bool) : Keeps s (s.dropHome line w) := by
  unfold State.dropHome
  extract_lets h l ds new s1 y s2 x
  have h1 : Keeps s s1 := Keeps.foldl _ (fun s d => keeps_dropAt s _ line) _ _
  have h2 : Keeps s1 s2 := (show Keeps s1 y from keeps_dropAt ..).trans (.of_eq rfl rfl rfl rfl)
  exact .ite ((h1.trans h2).trans (keeps_setCache ..)) (.refl s)

theorem keeps_sendInvals (s : State) (line : Nat) : Keeps s (s.sendInvals line) := by
  unfold State.sendInvals
  extract_lets h new s1 x
  exact (show Keeps s s1 from .of_eq rfl rfl rfl rfl).trans (keeps_setCache ..)

theorem keeps_writeWords (s : State) (p : Nat) (parts : List (Nat × Bytes × Nat)) (own : Bool) (b : By) :
    Keeps s (s.writeWords p parts own b) :=
  (Keeps.ite (keeps_grant ..) (.refl s)).trans (Keeps.foldl _ (fun _ _ => keeps_writePart ..) _ _)

theorem keeps_writeLine (s : State) (p off : Nat) (d : Bytes) (en : Nat → Bool) (own : Bool) (b : By) :
    Keeps s (s.writeLine p off d en own b) := by
  refine .ite (.refl s) (Keeps.trans ?_ (keeps_writeWords ..))
  split
  · exact keeps_dropHome ..
  · exact .refl s

theorem keeps_readWords (p : Nat) (b : By) (l : List (Nat × Bool)) :
    ∀ (s : State) (e : Option (Nat × Nat)), Keeps s (s.readWords p b e l).1 := by
  induction l with
  | nil => exact fun s e => .refl s
  | cons a l ih =>
    intro s e
    obtain ⟨w, sel⟩ := a
    unfold State.readWords
    extract_lets put s1
    split
    · exact ih ..
    · refine (show Keeps s s1 from keeps_flushWord ..).trans ?_
      split
      · exact ((keeps_setHal ..).trans (.ite (.refl _) (keeps_reportBad ..))).trans (ih ..)
      · exact ih ..
      · exact (keeps_setHal ..).trans (ih ..)

theorem keeps_readLine (s : State) (p off len : Nat) (en : Nat → Bool) (b : By) : Keeps s (s.readLine p off len en b).1 := by
  have := (keeps_grant s p b (bankOf off)).trans (keeps_readWords p b (wordsOf off len en) _ none)
  unfold State.readLine
  split <;> simp_all

theorem keeps_upset (s : State) (pw sym : Nat) (f : Byte) : Keeps s (s.upset pw sym f) :=
  ⟨rfl, id, fun h => twf_tput _ _ h, id⟩

theorem keeps_upsets (s : State) (p line : Nat) (u : List Upset) : Keeps s (s.upsets p line u) :=
  Keeps.foldl _ (fun _ _ => .ite (keeps_upset ..) (.refl _)) _ _

theorem keeps_zeroBank (s : State) (p b : Nat) : Keeps s (s.zeroBank p b) := by
  unfold State.zeroBank
  extract_lets x y s1 base s2 s3
  have h : Keeps s1 s2 := ⟨rfl, fun h => twf_tclear _ _ h, fun h => twf_tclear _ _ h, id⟩
  refine (show Keeps s s3 from (keeps_setHal ..).trans (h.trans (keeps_dropLines ..))).trans ?_
  split
  · exact .refl _
  · exact .of_eq rfl rfl rfl rfl

/-! Scratch -/

theorem twf_foldl_tput {α : Type} [Inhabited α] [DecidableEq α] (en : Nat → Bool) (k : Nat → Nat) (x : Nat → α) (l : List Nat) :
    ∀ m : Tbl α, twf m = true → twf (l.foldl (fun m i => if en i then tput m (k i) (x i) else m) m) = true := by
  induction l with
  | nil => exact fun _ h => h
  | cons a l ih =>
    intro m h
    refine ih _ ?_
    dsimp only
    split
    · exact twf_tput _ _ h
    · exact h

theorem keeps_scratchFix (s : State) (c off len : Nat) : Keeps s (s.scratchFix c off len) := by
  unfold State.scratchFix
  extract_lets ks n s1 x
  exact .ite (.refl s) ((show Keeps s s1 from .of_eq rfl rfl rfl rfl).trans (keeps_setCore ..))

theorem keeps_scratchWrite (s : State) (c off : Nat) (d : Bytes) (en : Nat → Bool) : Keeps s (s.scratchWrite c off d en) := by
  unfold State.scratchWrite
  extract_lets len whole s1 s2
  have h : Keeps s s2 := (show Keeps s s1 from .of_eq rfl rfl rfl rfl).trans
    (Keeps.foldl _ (fun _ _ => .ite (keeps_scratchFix ..) (.refl _)) _ _)
  exact h.trans ⟨rfl, id, id, fun h => twf_foldl_tput en (fun i => c * 2 ^ 20 + off + i) (fun i => d.getD i 0) _ _ h⟩

theorem keeps_scratchClear (s : State) (c : Nat) : Keeps s (s.scratchClear c) :=
  ⟨rfl, id, id, fun h => twf_tclear _ _ h⟩

/-! Requests that are served -/

theorem keeps_finishLoad (s : State) (c : Nat) (w : LdWait) : Keeps s (s.finishLoad c w) := (keeps_setCore ..).trans (keeps_advance ..)

theorem keeps_deliver (s : State) (c k : Nat) (d : Bytes) : Keeps s (s.deliver c k d) := by
  unfold State.deliver
  split
  · exact .refl s
  · exact .ite (keeps_finishLoad ..) (keeps_setCore ..)

theorem keeps_dropReads (s : State) (c : Nat) : Keeps s (s.dropReads c) := .of_eq rfl rfl rfl rfl

theorem keeps_loadFails (s : State) (c cause : Nat) : Keeps s (s.loadFails c cause) := by
  unfold State.loadFails
  split
  · exact .refl s
  · exact (keeps_dropReads ..).trans (keeps_precise ..)

theorem keeps_acked (s : State) (c : Nat) : Keeps s (s.acked c) := keeps_setCore ..

theorem keeps_lineArrives (s : State) (c off len : Nat) (d : Option Bytes) : Keeps s (s.lineArrives c off len d) := keeps_setCore ..

theorem keeps_perform (s : State) (p : Nat) (r : HReq) : Keeps s (s.perform p r) := by
  unfold State.perform
  extract_lets b s1
  have ha : ∀ u : State, Keeps u (if r.ack = true then u.acked r.core else u) := fun u => .ite (keeps_acked ..) (.refl u)
  refine .ite (keeps_flushEntry ..) (.ite (.ite (keeps_lineArrives ..) (.ite ?_ (keeps_loadFails ..))) (.ite ?_ ?_))
  · exact (ha s).trans (keeps_imprecise ..)
  · exact (show Keeps s s1 from keeps_writeLine ..).trans (ha s1)
  · have h := keeps_readLine s p r.off r.len r.mask.testBit b
    split <;> rename_i he <;> rw [he] at h
    · exact h.trans (.ite (keeps_lineArrives ..) (keeps_deliver ..))
    · exact h.trans (.ite (keeps_lineArrives ..) (keeps_loadFails ..))

theorem keeps_countServed (s : State) (p b : Nat) : Keeps s (s.countServed p b) := .ite (keeps_setNbu ..) (.refl s)

theorem keeps_grantReq (s : State) (p : Nat) (r : HReq) : Keeps s (s.grantReq p r) :=
  ((keeps_setHal ..).trans (keeps_countServed ..)).trans (keeps_perform ..)

theorem keeps_serveWhile (p : Nat) (free : Nat → Bool) (pick : HReq → Bool) (go : Hal → HReq → Bool) (n : Nat) :
    ∀ s : State, Keeps s (s.serveWhile p free pick go n) := by
  induction n with
  | zero => exact .refl
  | succ n ih =>
    intro s
    unfold State.serveWhile
    split
    · exact .ite ((keeps_grantReq ..).trans (ih _)) (.refl s)
    · exact .refl s

theorem keeps_serveBank (s : State) (p b n : Nat) : Keeps s (s.serveBank p b n) := keeps_serveWhile ..

theorem keeps_confirmOlder (s : State) (p : Nat) (ws : List Nat) : Keeps s (s.confirmOlder p ws) := .ite (keeps_setHal ..) (.refl s)

theorem keeps_settle (s : State) (p : Nat) (ws : List Nat) : Keeps s (s.settle p ws) :=
  (keeps_confirmOlder ..).trans (keeps_serveWhile ..)

theorem keeps_flushNow (s : State) (p : Nat) (sel : MergeEntry → Bool) : Keeps s (s.flushNow p sel) :=
  (keeps_flushWhere ..).trans (keeps_settle ..)

/-! Near-bank units -/

theorem keeps_nbWrite (p b : Nat) (l : List Bytes) : ∀ (s : State) (w : Nat), Keeps s (s.nbWrite p b w l) := by
  induction l with
  | nil => exact fun s _ => .refl s
  | cons d l ih => exact fun s w => ((keeps_dropLines ..).trans (keeps_putWord ..)).trans (ih ..)

theorem keeps_endProgram (s : State) (c p b ticket err pc w : Nat) : Keeps s (s.endProgram c p b ticket err pc w) := by
  unfold State.endProgram
  extract_lets n s1 x t first s2
  have h : Keeps s s2 := (show Keeps s s1 from keeps_setNbu ..).trans (keeps_setCore ..)
  exact .ite (h.trans (keeps_imprecise ..)) h

theorem keeps_countNans (s : State) (c n : Nat) : Keeps s (s.countNans c n) := .ite (.refl s) (keeps_setCore ..)

/-- A step of a program writes its bank and may end the program. -/
theorem keeps_nbAdvance (s : State) (p b : Nat) : Keeps s (s.nbAdvance p b) := by
  unfold State.nbAdvance
  extract_lets n y u w s1 z s2 put setU
  have h : Keeps s s2 := (show Keeps s s1 from keeps_setNbu ..).trans (keeps_setCtx ..)
  have hw : ∀ wr, Keeps s2 (put s2 wr) := fun wr => Keeps.foldl _ (fun _ _ => keeps_nbWrite ..) _ _
  have hf : ∀ (v : State) (n : Nat), Keeps v { v with fresh := n } := fun v n => .of_eq rfl rfl rfl rfl
  refine h.trans ?_
  split
  · exact (((hw _).trans (keeps_countNans ..)).trans (keeps_setNbu ..)).trans (hf _ _)
  · have h3 := fun wr k n => ((hw wr).trans (keeps_countNans _ u.core k)).trans (hf _ n)
    exact .ite ((h3 ..).trans (keeps_endProgram ..)) ((h3 ..).trans (keeps_setNbu ..))
  · exact (Keeps.ite ((keeps_setHal ..).trans (keeps_reportBad ..)) (.refl _)).trans (keeps_endProgram ..)

/-! Turns at a controller -/

theorem keeps_giveWay (p : Nat) (a : HReq) (n : Nat) : ∀ s : State, Keeps s (s.giveWay p a n) := by
  induction n with
  | zero => exact .refl
  | succ n ih =>
    intro s
    unfold State.giveWay
    refine .ite ((keeps_nbAdvance ..).trans (ih _)) ?_
    split
    · exact .ite (.refl s) ((keeps_grantReq ..).trans (ih _))
    · exact .refl s

theorem keeps_turn (s : State) (p : Nat) (b : By) (off len : Nat) (g : Bool) : Keeps s (s.turn p b off len g) := by
  unfold State.turn
  extract_lets a k s1 s2 x s3
  have h1 : Keeps s s1 := .ite (.refl s) (keeps_countHeld ..)
  have h3 : Keeps s s3 := ((h1.trans (show Keeps s1 s2 from keeps_confirmOlder ..)).trans (keeps_setHal ..)).trans (keeps_giveWay ..)
  exact .ite (keeps_settle ..) ((h3.trans (keeps_setHal ..)).trans (keeps_countServed ..))

theorem keeps_readLines (p : Nat) (b : By) (l : List (Nat × Nat)) : ∀ s : State, Keeps s (s.readLines p b l).1 := by
  induction l with
  | nil => exact .refl
  | cons a l ih =>
    intro s
    obtain ⟨o, n⟩ := a
    have h := (keeps_turn s p b o n true).trans (keeps_readLine (s.turn p b o n true) p o n (fun _ => true) b)
    unfold State.readLines
    split
    · rename_i he
      rw [he] at h
      exact h
    · rename_i t d he
      rw [he] at h
      have k := ih t
      split <;> rename_i he <;> rw [he] at k <;> exact h.trans k

theorem keeps_readSlice (s : State) (p off len : Nat) (b : By) : Keeps s (s.readSlice p off len b).1 := keeps_readLines ..

theorem keeps_writeNow (s : State) (p off : Nat) (d : Bytes) (en : Nat → Bool) (own : Bool) (b : By) :
    Keeps s (s.writeNow p off d en own b) :=
  Keeps.foldl _ (fun _ _ => .ite (.refl _) ((keeps_turn ..).trans (keeps_writeLine ..))) _ _

theorem keeps_writeStore (s : State) (p off : Nat) (d : Bytes) (en : Nat → Bool) (own : Bool) (c : Nat) (b : By) :
    Keeps s (s.writeStore p off d en own c b).1 := by
  unfold State.writeStore
  extract_lets r x busy s1 s2
  split
  · have h : Keeps s s2 := (keeps_setHal ..).trans (.ite (keeps_countHeld ..) (.refl _))
    dsimp only
    split
    · exact h.trans (keeps_sendInvals ..)
    · exact h
  · exact keeps_writeNow ..

/-- The state after reset has its memories in canonical form. -/
theorem reset_memOk : State.reset.memOk = true := rfl

end Sys2Proof.Machine
end

