-- ==== Sys2Proof/Laws/Exceptions.lean ====
section
/-! SUPPORT. What taking an exception does, and what issue keeps of the queue and of the memories. -/

namespace Sys2Proof.Machine

/-- R75: an exception in user mode is recorded, and the core halts at its firmware vector. -/
theorem takeExc_user {s : State} {c : Nat} (h : (s.core c).fw = false) (f : Impr) (i : Bool) :
    (s.takeExc c f i).core c = ({ s.core c with wait := none }.recordExc f i).enterFw 0 5 (s.core c).pc := by
  simp [State.takeExc, h, State.reportExc, State.reportExcOf]

/-- R75: an exception in firmware mode halts the core with cause DOUBLE and its pc; the rest of the record stays. -/
theorem takeExc_firmware {s : State} {c : Nat} (h : (s.core c).fw = true) (f : Impr) (i : Bool) :
    (s.takeExc c f i).core c =
      { s.core c with
        run := 5, wait := none
        exc := { (s.core c).exc with cause := causeDouble, imprecise := false, pc := (s.core c).pc, addr := 0 } } := by
  simp [State.takeExc, h, State.reportExc, State.reportExcOf]

/-- An exception of one core leaves the others as they are. -/
theorem takeExc_ne {s : State} {c k : Nat} (hk : k ≠ c) (f : Impr) (i : Bool) : (s.takeExc c f i).core k = s.core k := by
  unfold State.takeExc
  extract_lets x
  split <;> simp [State.reportExc, State.reportExcOf, hk]

/-- An exception adds one report. -/
theorem takeExc_reports (s : State) (c : Nat) (f : Impr) (i : Bool) : ∃ r, (s.takeExc c f i).reports = s.reports ++ [r] := by
  unfold State.takeExc
  extract_lets x
  split <;> exact ⟨_, rfl⟩

/-- Apart from the cores and the reports an exception changes nothing. -/
theorem takeExc_frame (s : State) (c : Nat) (f : Impr) (i : Bool) :
    s.takeExc c f i = { s with cores := (s.takeExc c f i).cores, reports := (s.takeExc c f i).reports } := by
  unfold State.takeExc
  extract_lets x
  split <;> rfl

/-- What a meaning answers keeps the queue and the canonical form. -/
def Ir.Keeps (s : State) : Ir → Prop
  | .held _ => True
  | .exc t _ _ => Machine.Keeps s t
  | .done t => Machine.Keeps s t
  | .jump t _ => Machine.Keeps s t
  | .wait t => Machine.Keeps s t

/-- What a fetch leaves keeps the queue and the canonical form. -/
def Fetched.Keeps (s : State) : Fetched → Prop
  | .ready t => Machine.Keeps s t
  | .waits t => Machine.Keeps s t
  | .fails t _ => Machine.Keeps s t

theorem keeps_fillWords (p w : Nat) (b : By) (l : List Nat) : ∀ a : State × Nat,
    Keeps a.1 (l.foldl (fun (a : State × Nat) i =>
      match a.1.readWords p b none [(w + i, true)] with
      | (s, .ok _) => (s, a.2 + 2 ^ i)
      | (s, .error _) => (s, a.2)) a).1 :=
  Keeps.foldl_pair _ (fun a i => by
    have h := keeps_readWords p b [(w + i, true)] a.1 none
    split <;> rename_i he <;> rw [he] at h <;> exact h) l

theorem keeps_fetchWord (s : State) (c : Nat) : (s.fetchWord c).Keeps s := by
  unfold State.fetchWord
  extract_lets x line b off s1 h s2
  split
  · exact Keeps.refl s
  · split
    · exact Keeps.refl s
    · split
      · split
        · exact Keeps.refl s
        · rename_i p _
          have h1 : Keeps s ((s.turn p b off 128 true).grant p b (bankOf off)) := (keeps_turn ..).trans (keeps_grant ..)
          have h2 := h1.trans (keeps_fillWords p (off / 32) b (List.range 4) (_, 0))
          dsimp only
          split <;> exact h2.trans (keeps_setCore ..)
      · split
        · exact Keeps.refl s
        · exact (keeps_setCore ..).trans (keeps_setCache ..)

/-- Issue keeps what the meaning keeps. -/
theorem runCore_keeps {s t : State} {c : Nat} {body : State → Core → Ir} (hb : ∀ u x, (body u x).Keeps u)
    (h : runCore c s body = .next t) : Keeps s t := by
  unfold runCore at h
  split at h
  · cases h
  split at h
  · cases h; exact .refl _
  have hf := keeps_fetchWord s c
  split at h <;> rename_i he <;> rw [he] at hf
  · cases h
    exact hf.trans (keeps_precise ..)
  · cases h
    exact hf
  · rename_i u
    have hk := hb (u.goOn c) ((u.goOn c).core c)
    have hg := (show Keeps s u from hf).trans (keeps_goOn u c)
    split at h <;> rename_i he <;> rw [he] at hk <;> cases h
    · exact Keeps.trans hf (keeps_noteRun ..)
    · exact (hg.trans hk).trans (keeps_precise ..)
    · exact (hg.trans hk).trans (keeps_advance ..)
    · exact (hg.trans hk).trans (keeps_setPc ..)
    · exact hg.trans hk

theorem keeps_doneS (s : State) (c rd : Nat) (w : Word) : (doneS s c rd w).Keeps s := keeps_setCore ..
theorem keeps_doneV (s : State) (c vd : Nat) (w : V512) : (doneV s c vd w).Keeps s := keeps_setCore ..
theorem keeps_legal {s : State} {ok : Bool} {k : Ir} (h : k.Keeps s) : (legal s ok k).Keeps s := by
  cases ok
  · exact Keeps.refl s
  · exact h
theorem keeps_privileged {s : State} {x : Core} {ok : Bool} {k : Ir} (h : k.Keeps s) : (privileged s x ok k).Keeps s := by
  refine keeps_legal ?_
  split
  · exact h
  · exact Keeps.refl s

end Sys2Proof.Machine
end

