-- ==== Sys2Proof/Laws/Lanes.lean ====
section
/-! SUPPORT. Byte strings as numbers, and the elements of a vector after it is packed or written under a predicate (R16, R51, R52). -/

namespace Sys2Proof.Machine

theorem ofLe_lt (l : Bytes) : ofLe l < 256 ^ l.length := by
  induction l with
  | nil => simp [ofLe]
  | cons b t ih =>
    simp only [ofLe, List.length_cons, Nat.pow_succ]
    have := b.isLt
    omega

/-- Byte `k` of the number of a byte string. -/
theorem ofLe_byte (l : Bytes) : ∀ k, ofLe l / 256 ^ k % 256 = (l.getD k 0).toNat := by
  induction l with
  | nil => intro k; simp [ofLe]
  | cons b t ih =>
    intro k
    have hb : b.toNat < 256 := b.isLt
    cases k with
    | zero => simp [ofLe, Nat.add_mul_mod_self_left, Nat.mod_eq_of_lt hb]
    | succ k =>
      rw [Nat.pow_succ', ← Nat.div_div_eq_div_mul]
      have : ofLe (b :: t) / 256 = ofLe t := by simp only [ofLe]; omega
      rw [this, ih]
      rfl

@[simp] theorem leBytes_length (n : Nat) : ∀ x, (leBytes n x).length = n := by
  induction n with
  | zero => intro x; rfl
  | succ n ih => intro x; simp [leBytes, ih]

/-- Writing a number as bytes and reading it back. -/
theorem ofLe_leBytes (n : Nat) : ∀ x, ofLe (leBytes n x) = x % 256 ^ n := by
  induction n with
  | zero => intro x; simp [leBytes, ofLe, Nat.mod_one]
  | succ n ih =>
    intro x
    simp only [leBytes, ofLe, ih, BitVec.toNat_ofNat]
    rw [show 256 ^ (n + 1) = 256 * 256 ^ n from Nat.pow_succ', Nat.mod_mul]
    omega

theorem leBytes_getD (n : Nat) : ∀ (x k : Nat), k < n → (leBytes n x).getD k 0 = BitVec.ofNat 8 (x / 256 ^ k % 256) := by
  induction n with
  | zero => intro x k h; omega
  | succ n ih =>
    intro x k h
    cases k with
    | zero => simp [leBytes]
    | succ k =>
      have := ih (x / 256) k (by omega)
      simp only [leBytes, List.getD_cons_succ, this, Nat.pow_succ', Nat.div_div_eq_div_mul]

/-- Element `k` as a number. -/
theorem lane_eq (w : Nat) (v : V512) (k : Nat) : lane w v k = v.toNat / 2 ^ (w * k) % 2 ^ w := by
  simp [lane, BitVec.extractLsb'_toNat, Nat.shiftRight_eq_div_pow]

theorem lane_lt (w : Nat) (v : V512) (k : Nat) : lane w v k < 2 ^ w := (v.extractLsb' (w * k) w).isLt

/-- The number that `packLanes` packs. -/
theorem foldr_pack (w : Nat) (l : List Nat) : ∀ k, k < l.length →
    l.foldr (fun x a => a * 2 ^ w + x % 2 ^ w) 0 / 2 ^ (w * k) % 2 ^ w = l.getD k 0 % 2 ^ w := by
  have hp : 0 < 2 ^ w := Nat.two_pow_pos w
  induction l with
  | nil => intro k h; simp at h
  | cons x l ih =>
    intro k h
    cases k with
    | zero => simp
    | succ k =>
      rw [Nat.mul_succ, Nat.pow_add, Nat.mul_comm (2 ^ (w * k)), ← Nat.div_div_eq_div_mul, List.foldr_cons, Nat.mul_comm _ (2 ^ w),
        Nat.mul_add_div hp, Nat.div_eq_of_lt (Nat.mod_lt _ hp), Nat.add_zero, ih k (by simpa using h)]
      rfl

/-- Element `k` of a packed vector is the list's element `k`, narrowed. -/
theorem lane_packLanes (w : Nat) (l : List Nat) (k : Nat) (hk : k < l.length) (hw : w * (k + 1) ≤ 512) :
    lane w (packLanes w l) k = l.getD k 0 % 2 ^ w := by
  rw [lane_eq, packLanes, BitVec.toNat_ofNat, ← foldr_pack w l k hk]
  generalize l.foldr _ 0 = n
  rw [← Nat.mod_mul_right_div_self, ← Nat.mod_mul_right_div_self n, ← Nat.pow_add, Nat.mod_mod_of_dvd]
  exact Nat.pow_dvd_pow 2 (by rw [Nat.mul_succ] at hw; omega)

/-- Byte `k` of a vector from its bytes. -/
theorem lane_vofBytes (l : Bytes) (k : Nat) (hk : k < 64) : lane 8 (vofBytes l) k = (l.getD k 0).toNat := by
  rw [lane_eq, vofBytes, BitVec.toNat_ofNat, ← ofLe_byte, show (2 : Nat) ^ (8 * k) = 256 ^ k from by rw [Nat.pow_mul]]
  rw [show (2 : Nat) ^ 8 = 256 from rfl, ← Nat.mod_mul_right_div_self, ← Nat.mod_mul_right_div_self (ofLe l), Nat.mod_mod_of_dvd]
  rw [← Nat.pow_succ, show (2 : Nat) ^ 512 = 256 ^ 64 from Nat.pow_mul 2 8 64]
  exact Nat.pow_dvd_pow 256 (by omega)

/-- R52: byte `b` of a vector written under a predicate. -/
theorem byte_blend (w : Nat) (pg : Word) (old new : V512) (b : Nat) (hb : b < 64) :
    lane 8 (blend w pg old new) b =
      if laneActive pg (max w 8) (b * 8 / max w 8) then lane 8 new b else lane 8 old b := by
  rw [blend, lane_vofBytes _ _ hb]
  have h1 := lane_lt 8 new b
  have h2 := lane_lt 8 old b
  simp only [List.getD_eq_getElem?_getD, List.getElem?_map, List.getElem?_range hb, Option.map_some, Option.getD_some]
  split <;> rw [BitVec.toNat_ofNat, Nat.mod_eq_of_lt (by assumption)]

/-- An element is its bytes. -/
theorem byte_of_lane (n : Nat) (v : V512) (k i : Nat) (hi : i < n) :
    lane 8 v (n * k + i) = lane (8 * n) v k / 256 ^ i % 256 := by
  rw [lane_eq, lane_eq, Nat.mul_add, Nat.pow_add, ← Nat.div_div_eq_div_mul, ← Nat.mul_assoc, show (2 : Nat) ^ (8 * i) = 256 ^ i from by rw [Nat.pow_mul],
    show (2 : Nat) ^ 8 = 256 from rfl]
  generalize v.toNat / 2 ^ (8 * n * k) = m
  rw [show (2 : Nat) ^ (8 * n) = 256 ^ n from by rw [Nat.pow_mul], ← Nat.mod_mul_right_div_self, ← Nat.mod_mul_right_div_self (m % 256 ^ n),
    Nat.mod_mod_of_dvd]
  rw [← Nat.pow_succ]
  exact Nat.pow_dvd_pow 256 hi

/-- An element that is a whole number of bytes is the number of its bytes. -/
theorem lane_bytes (n : Nat) (v : V512) (k : Nat) :
    lane (8 * n) v k = ofLe ((List.range n).map fun i => BitVec.ofNat 8 (lane 8 v (n * k + i))) := by
  have key : ∀ (m x : Nat), ofLe ((List.range m).map fun i => BitVec.ofNat 8 (x / 256 ^ i % 256)) = x % 256 ^ m := by
    intro m
    induction m with
    | zero => intro x; simp [ofLe, Nat.mod_one]
    | succ m ih =>
      intro x
      have := ih (x / 256)
      simp only [Nat.div_div_eq_div_mul, ← Nat.pow_succ'] at this
      rw [List.range_succ_eq_map, List.map_cons, List.map_map]
      simp only [ofLe, Function.comp_def, Nat.succ_eq_add_one, this, pow_zero, Nat.div_one, BitVec.toNat_ofNat]
      rw [show 256 ^ (m + 1) = 256 * 256 ^ m from Nat.pow_succ', Nat.mod_mul]
      omega
  have h : ((List.range n).map fun i => BitVec.ofNat 8 (lane 8 v (n * k + i))) =
      (List.range n).map fun i => BitVec.ofNat 8 (lane (8 * n) v k / 256 ^ i % 256) := by
    refine List.map_congr_left fun i hi => ?_
    rw [byte_of_lane n v k i (List.mem_range.mp hi)]
  rw [h, key, Nat.mod_eq_of_lt]
  have := lane_lt (8 * n) v k
  rwa [Nat.pow_mul] at this

/-- R52: an element written under a predicate takes the new value where the bit of its lowest byte is 1. -/
theorem lane_blend (n : Nat) (hn : 0 < n) (pg : Word) (old new : V512) (k : Nat) (hk : n * (k + 1) ≤ 64) :
    lane (8 * n) (blend (8 * n) pg old new) k =
      if laneActive pg (8 * n) k then lane (8 * n) new k else lane (8 * n) old k := by
  have hb : ∀ i, i < n → (n * k + i) * 8 / max (8 * n) 8 = k ∧ n * k + i < 64 := by
    intro i hi
    rw [Nat.max_eq_left (by omega : 8 ≤ 8 * n)]
    refine ⟨?_, by rw [Nat.mul_succ] at hk; omega⟩
    rw [Nat.mul_comm, Nat.mul_div_mul_left _ _ (by norm_num : 0 < 8), Nat.mul_add_div hn, Nat.div_eq_of_lt hi, Nat.add_zero]
  have hw : max (8 * n) 8 = 8 * n := by omega
  rw [lane_bytes]
  have : ((List.range n).map fun i => BitVec.ofNat 8 (lane 8 (blend (8 * n) pg old new) (n * k + i))) =
      (List.range n).map fun i => BitVec.ofNat 8 (lane 8 (if laneActive pg (8 * n) k then new else old) (n * k + i)) := by
    refine List.map_congr_left fun i hi => ?_
    obtain ⟨h1, h2⟩ := hb i (List.mem_range.mp hi)
    rw [byte_blend _ _ _ _ _ h2, h1, hw]
    split <;> rfl
  rw [this, ← lane_bytes]
  split <;> rfl

end Sys2Proof.Machine
end

