-- ==== Sys2Proof/Laws/Registers.lean ====
section
/-! SUPPORT. The registers of a core: reads after writes, and what a write of one leaves unchanged (R51). -/

namespace Sys2Proof.Machine

variable (x : Core)


/-! `Core.setS` -/

@[simp] theorem Core.setS_run (n : Nat) (w : Word) : (x.setS n w).run = x.run := by by_cases h : n = 0 <;> simp [Core.setS, h]
@[simp] theorem Core.setS_fw (n : Nat) (w : Word) : (x.setS n w).fw = x.fw := by by_cases h : n = 0 <;> simp [Core.setS, h]
@[simp] theorem Core.setS_ctx (n : Nat) (w : Word) : (x.setS n w).ctx = x.ctx := by by_cases h : n = 0 <;> simp [Core.setS, h]
@[simp] theorem Core.setS_epoch (n : Nat) (w : Word) : (x.setS n w).epoch = x.epoch := by by_cases h : n = 0 <;> simp [Core.setS, h]
@[simp] theorem Core.setS_pc (n : Nat) (w : Word) : (x.setS n w).pc = x.pc := by by_cases h : n = 0 <;> simp [Core.setS, h]
@[simp] theorem Core.setS_v (n : Nat) (w : Word) : (x.setS n w).v = x.v := by by_cases h : n = 0 <;> simp [Core.setS, h]
@[simp] theorem Core.setS_p (n : Nat) (w : Word) : (x.setS n w).p = x.p := by by_cases h : n = 0 <;> simp [Core.setS, h]
@[simp] theorem Core.setS_a (n : Nat) (w : Word) : (x.setS n w).a = x.a := by by_cases h : n = 0 <;> simp [Core.setS, h]
@[simp] theorem Core.setS_q (n : Nat) (w : Word) : (x.setS n w).q = x.q := by by_cases h : n = 0 <;> simp [Core.setS, h]
@[simp] theorem Core.setS_m (n : Nat) (w : Word) : (x.setS n w).m = x.m := by by_cases h : n = 0 <;> simp [Core.setS, h]
@[simp] theorem Core.setS_exc (n : Nat) (w : Word) : (x.setS n w).exc = x.exc := by by_cases h : n = 0 <;> simp [Core.setS, h]
@[simp] theorem Core.setS_sys (n : Nat) (w : Word) : (x.setS n w).sys = x.sys := by by_cases h : n = 0 <;> simp [Core.setS, h]
@[simp] theorem Core.setS_blk (n : Nat) (w : Word) : (x.setS n w).blk = x.blk := by by_cases h : n = 0 <;> simp [Core.setS, h]
@[simp] theorem Core.setS_blkOld (n : Nat) (w : Word) : (x.setS n w).blkOld = x.blkOld := by by_cases h : n = 0 <;> simp [Core.setS, h]
@[simp] theorem Core.setS_arr (n : Nat) (w : Word) : (x.setS n w).arr = x.arr := by by_cases h : n = 0 <;> simp [Core.setS, h]
@[simp] theorem Core.setS_badTiles (n : Nat) (w : Word) : (x.setS n w).badTiles = x.badTiles := by by_cases h : n = 0 <;> simp [Core.setS, h]
@[simp] theorem Core.setS_badStreams (n : Nat) (w : Word) : (x.setS n w).badStreams = x.badStreams := by by_cases h : n = 0 <;> simp [Core.setS, h]
@[simp] theorem Core.setS_issue (n : Nat) (w : Word) : (x.setS n w).issue = x.issue := by by_cases h : n = 0 <;> simp [Core.setS, h]
@[simp] theorem Core.setS_tickets (n : Nat) (w : Word) : (x.setS n w).tickets = x.tickets := by by_cases h : n = 0 <;> simp [Core.setS, h]
@[simp] theorem Core.setS_sbuf (n : Nat) (w : Word) : (x.setS n w).sbuf = x.sbuf := by by_cases h : n = 0 <;> simp [Core.setS, h]
@[simp] theorem Core.setS_icache (n : Nat) (w : Word) : (x.setS n w).icache = x.icache := by by_cases h : n = 0 <;> simp [Core.setS, h]
@[simp] theorem Core.setS_ifill (n : Nat) (w : Word) : (x.setS n w).ifill = x.ifill := by by_cases h : n = 0 <;> simp [Core.setS, h]
@[simp] theorem Core.setS_wait (n : Nat) (w : Word) : (x.setS n w).wait = x.wait := by by_cases h : n = 0 <;> simp [Core.setS, h]
@[simp] theorem Core.setS_outst (n : Nat) (w : Word) : (x.setS n w).outst = x.outst := by by_cases h : n = 0 <;> simp [Core.setS, h]
@[simp] theorem Core.setS_hostDirty (n : Nat) (w : Word) : (x.setS n w).hostDirty = x.hostDirty := by by_cases h : n = 0 <;> simp [Core.setS, h]
@[simp] theorem Core.setS_readBack (n : Nat) (w : Word) : (x.setS n w).readBack = x.readBack := by by_cases h : n = 0 <;> simp [Core.setS, h]
@[simp] theorem Core.setS_impr (n : Nat) (w : Word) : (x.setS n w).impr = x.impr := by by_cases h : n = 0 <;> simp [Core.setS, h]
@[simp] theorem Core.setS_job (n : Nat) (w : Word) : (x.setS n w).job = x.job := by by_cases h : n = 0 <;> simp [Core.setS, h]
@[simp] theorem Core.setS_stage (n : Nat) (w : Word) : (x.setS n w).stage = x.stage := by by_cases h : n = 0 <;> simp [Core.setS, h]
@[simp] theorem Core.setS_stat (n : Nat) (w : Word) : (x.setS n w).stat = x.stat := by by_cases h : n = 0 <;> simp [Core.setS, h]

/-! `Core.setV` -/

@[simp] theorem Core.setV_run (n : Nat) (w : V512) : (x.setV n w).run = x.run := rfl
@[simp] theorem Core.setV_fw (n : Nat) (w : V512) : (x.setV n w).fw = x.fw := rfl
@[simp] theorem Core.setV_ctx (n : Nat) (w : V512) : (x.setV n w).ctx = x.ctx := rfl
@[simp] theorem Core.setV_epoch (n : Nat) (w : V512) : (x.setV n w).epoch = x.epoch := rfl
@[simp] theorem Core.setV_pc (n : Nat) (w : V512) : (x.setV n w).pc = x.pc := rfl
@[simp] theorem Core.setV_s (n : Nat) (w : V512) : (x.setV n w).s = x.s := rfl
@[simp] theorem Core.setV_p (n : Nat) (w : V512) : (x.setV n w).p = x.p := rfl
@[simp] theorem Core.setV_a (n : Nat) (w : V512) : (x.setV n w).a = x.a := rfl
@[simp] theorem Core.setV_q (n : Nat) (w : V512) : (x.setV n w).q = x.q := rfl
@[simp] theorem Core.setV_m (n : Nat) (w : V512) : (x.setV n w).m = x.m := rfl
@[simp] theorem Core.setV_exc (n : Nat) (w : V512) : (x.setV n w).exc = x.exc := rfl
@[simp] theorem Core.setV_sys (n : Nat) (w : V512) : (x.setV n w).sys = x.sys := rfl
@[simp] theorem Core.setV_blk (n : Nat) (w : V512) : (x.setV n w).blk = x.blk := rfl
@[simp] theorem Core.setV_blkOld (n : Nat) (w : V512) : (x.setV n w).blkOld = x.blkOld := rfl
@[simp] theorem Core.setV_arr (n : Nat) (w : V512) : (x.setV n w).arr = x.arr := rfl
@[simp] theorem Core.setV_badTiles (n : Nat) (w : V512) : (x.setV n w).badTiles = x.badTiles := rfl
@[simp] theorem Core.setV_badStreams (n : Nat) (w : V512) : (x.setV n w).badStreams = x.badStreams := rfl
@[simp] theorem Core.setV_issue (n : Nat) (w : V512) : (x.setV n w).issue = x.issue := rfl
@[simp] theorem Core.setV_tickets (n : Nat) (w : V512) : (x.setV n w).tickets = x.tickets := rfl
@[simp] theorem Core.setV_sbuf (n : Nat) (w : V512) : (x.setV n w).sbuf = x.sbuf := rfl
@[simp] theorem Core.setV_icache (n : Nat) (w : V512) : (x.setV n w).icache = x.icache := rfl
@[simp] theorem Core.setV_ifill (n : Nat) (w : V512) : (x.setV n w).ifill = x.ifill := rfl
@[simp] theorem Core.setV_wait (n : Nat) (w : V512) : (x.setV n w).wait = x.wait := rfl
@[simp] theorem Core.setV_outst (n : Nat) (w : V512) : (x.setV n w).outst = x.outst := rfl
@[simp] theorem Core.setV_hostDirty (n : Nat) (w : V512) : (x.setV n w).hostDirty = x.hostDirty := rfl
@[simp] theorem Core.setV_readBack (n : Nat) (w : V512) : (x.setV n w).readBack = x.readBack := rfl
@[simp] theorem Core.setV_impr (n : Nat) (w : V512) : (x.setV n w).impr = x.impr := rfl
@[simp] theorem Core.setV_job (n : Nat) (w : V512) : (x.setV n w).job = x.job := rfl
@[simp] theorem Core.setV_stage (n : Nat) (w : V512) : (x.setV n w).stage = x.stage := rfl
@[simp] theorem Core.setV_stat (n : Nat) (w : V512) : (x.setV n w).stat = x.stat := rfl

/-! `Core.setP` -/

@[simp] theorem Core.setP_run (n : Nat) (w : Word) : (x.setP n w).run = x.run := by by_cases h : n = 0 <;> simp [Core.setP, h]
@[simp] theorem Core.setP_fw (n : Nat) (w : Word) : (x.setP n w).fw = x.fw := by by_cases h : n = 0 <;> simp [Core.setP, h]
@[simp] theorem Core.setP_ctx (n : Nat) (w : Word) : (x.setP n w).ctx = x.ctx := by by_cases h : n = 0 <;> simp [Core.setP, h]
@[simp] theorem Core.setP_epoch (n : Nat) (w : Word) : (x.setP n w).epoch = x.epoch := by by_cases h : n = 0 <;> simp [Core.setP, h]
@[simp] theorem Core.setP_pc (n : Nat) (w : Word) : (x.setP n w).pc = x.pc := by by_cases h : n = 0 <;> simp [Core.setP, h]
@[simp] theorem Core.setP_s (n : Nat) (w : Word) : (x.setP n w).s = x.s := by by_cases h : n = 0 <;> simp [Core.setP, h]
@[simp] theorem Core.setP_v (n : Nat) (w : Word) : (x.setP n w).v = x.v := by by_cases h : n = 0 <;> simp [Core.setP, h]
@[simp] theorem Core.setP_a (n : Nat) (w : Word) : (x.setP n w).a = x.a := by by_cases h : n = 0 <;> simp [Core.setP, h]
@[simp] theorem Core.setP_q (n : Nat) (w : Word) : (x.setP n w).q = x.q := by by_cases h : n = 0 <;> simp [Core.setP, h]
@[simp] theorem Core.setP_m (n : Nat) (w : Word) : (x.setP n w).m = x.m := by by_cases h : n = 0 <;> simp [Core.setP, h]
@[simp] theorem Core.setP_exc (n : Nat) (w : Word) : (x.setP n w).exc = x.exc := by by_cases h : n = 0 <;> simp [Core.setP, h]
@[simp] theorem Core.setP_sys (n : Nat) (w : Word) : (x.setP n w).sys = x.sys := by by_cases h : n = 0 <;> simp [Core.setP, h]
@[simp] theorem Core.setP_blk (n : Nat) (w : Word) : (x.setP n w).blk = x.blk := by by_cases h : n = 0 <;> simp [Core.setP, h]
@[simp] theorem Core.setP_blkOld (n : Nat) (w : Word) : (x.setP n w).blkOld = x.blkOld := by by_cases h : n = 0 <;> simp [Core.setP, h]
@[simp] theorem Core.setP_arr (n : Nat) (w : Word) : (x.setP n w).arr = x.arr := by by_cases h : n = 0 <;> simp [Core.setP, h]
@[simp] theorem Core.setP_badTiles (n : Nat) (w : Word) : (x.setP n w).badTiles = x.badTiles := by by_cases h : n = 0 <;> simp [Core.setP, h]
@[simp] theorem Core.setP_badStreams (n : Nat) (w : Word) : (x.setP n w).badStreams = x.badStreams := by by_cases h : n = 0 <;> simp [Core.setP, h]
@[simp] theorem Core.setP_issue (n : Nat) (w : Word) : (x.setP n w).issue = x.issue := by by_cases h : n = 0 <;> simp [Core.setP, h]
@[simp] theorem Core.setP_tickets (n : Nat) (w : Word) : (x.setP n w).tickets = x.tickets := by by_cases h : n = 0 <;> simp [Core.setP, h]
@[simp] theorem Core.setP_sbuf (n : Nat) (w : Word) : (x.setP n w).sbuf = x.sbuf := by by_cases h : n = 0 <;> simp [Core.setP, h]
@[simp] theorem Core.setP_icache (n : Nat) (w : Word) : (x.setP n w).icache = x.icache := by by_cases h : n = 0 <;> simp [Core.setP, h]
@[simp] theorem Core.setP_ifill (n : Nat) (w : Word) : (x.setP n w).ifill = x.ifill := by by_cases h : n = 0 <;> simp [Core.setP, h]
@[simp] theorem Core.setP_wait (n : Nat) (w : Word) : (x.setP n w).wait = x.wait := by by_cases h : n = 0 <;> simp [Core.setP, h]
@[simp] theorem Core.setP_outst (n : Nat) (w : Word) : (x.setP n w).outst = x.outst := by by_cases h : n = 0 <;> simp [Core.setP, h]
@[simp] theorem Core.setP_hostDirty (n : Nat) (w : Word) : (x.setP n w).hostDirty = x.hostDirty := by by_cases h : n = 0 <;> simp [Core.setP, h]
@[simp] theorem Core.setP_readBack (n : Nat) (w : Word) : (x.setP n w).readBack = x.readBack := by by_cases h : n = 0 <;> simp [Core.setP, h]
@[simp] theorem Core.setP_impr (n : Nat) (w : Word) : (x.setP n w).impr = x.impr := by by_cases h : n = 0 <;> simp [Core.setP, h]
@[simp] theorem Core.setP_job (n : Nat) (w : Word) : (x.setP n w).job = x.job := by by_cases h : n = 0 <;> simp [Core.setP, h]
@[simp] theorem Core.setP_stage (n : Nat) (w : Word) : (x.setP n w).stage = x.stage := by by_cases h : n = 0 <;> simp [Core.setP, h]
@[simp] theorem Core.setP_stat (n : Nat) (w : Word) : (x.setP n w).stat = x.stat := by by_cases h : n = 0 <;> simp [Core.setP, h]
@[simp] theorem Core.setTile_run (k r : Nat) (w : V512) : (x.setTile k r w).run = x.run := rfl
@[simp] theorem Core.setTile_fw (k r : Nat) (w : V512) : (x.setTile k r w).fw = x.fw := rfl
@[simp] theorem Core.setTile_ctx (k r : Nat) (w : V512) : (x.setTile k r w).ctx = x.ctx := rfl
@[simp] theorem Core.setTile_epoch (k r : Nat) (w : V512) : (x.setTile k r w).epoch = x.epoch := rfl
@[simp] theorem Core.setTile_pc (k r : Nat) (w : V512) : (x.setTile k r w).pc = x.pc := rfl
@[simp] theorem Core.setTile_s (k r : Nat) (w : V512) : (x.setTile k r w).s = x.s := rfl
@[simp] theorem Core.setTile_v (k r : Nat) (w : V512) : (x.setTile k r w).v = x.v := rfl
@[simp] theorem Core.setTile_p (k r : Nat) (w : V512) : (x.setTile k r w).p = x.p := rfl
@[simp] theorem Core.setTile_q (k r : Nat) (w : V512) : (x.setTile k r w).q = x.q := rfl
@[simp] theorem Core.setTile_m (k r : Nat) (w : V512) : (x.setTile k r w).m = x.m := rfl
@[simp] theorem Core.setTile_exc (k r : Nat) (w : V512) : (x.setTile k r w).exc = x.exc := rfl
@[simp] theorem Core.setTile_sys (k r : Nat) (w : V512) : (x.setTile k r w).sys = x.sys := rfl
@[simp] theorem Core.setTile_blk (k r : Nat) (w : V512) : (x.setTile k r w).blk = x.blk := rfl
@[simp] theorem Core.setTile_blkOld (k r : Nat) (w : V512) : (x.setTile k r w).blkOld = x.blkOld := rfl
@[simp] theorem Core.setTile_arr (k r : Nat) (w : V512) : (x.setTile k r w).arr = x.arr := rfl
@[simp] theorem Core.setTile_badTiles (k r : Nat) (w : V512) : (x.setTile k r w).badTiles = x.badTiles := rfl
@[simp] theorem Core.setTile_badStreams (k r : Nat) (w : V512) : (x.setTile k r w).badStreams = x.badStreams := rfl
@[simp] theorem Core.setTile_issue (k r : Nat) (w : V512) : (x.setTile k r w).issue = x.issue := rfl
@[simp] theorem Core.setTile_tickets (k r : Nat) (w : V512) : (x.setTile k r w).tickets = x.tickets := rfl
@[simp] theorem Core.setTile_sbuf (k r : Nat) (w : V512) : (x.setTile k r w).sbuf = x.sbuf := rfl
@[simp] theorem Core.setTile_icache (k r : Nat) (w : V512) : (x.setTile k r w).icache = x.icache := rfl
@[simp] theorem Core.setTile_ifill (k r : Nat) (w : V512) : (x.setTile k r w).ifill = x.ifill := rfl
@[simp] theorem Core.setTile_wait (k r : Nat) (w : V512) : (x.setTile k r w).wait = x.wait := rfl
@[simp] theorem Core.setTile_outst (k r : Nat) (w : V512) : (x.setTile k r w).outst = x.outst := rfl
@[simp] theorem Core.setTile_hostDirty (k r : Nat) (w : V512) : (x.setTile k r w).hostDirty = x.hostDirty := rfl
@[simp] theorem Core.setTile_readBack (k r : Nat) (w : V512) : (x.setTile k r w).readBack = x.readBack := rfl
@[simp] theorem Core.setTile_impr (k r : Nat) (w : V512) : (x.setTile k r w).impr = x.impr := rfl
@[simp] theorem Core.setTile_job (k r : Nat) (w : V512) : (x.setTile k r w).job = x.job := rfl
@[simp] theorem Core.setTile_stage (k r : Nat) (w : V512) : (x.setTile k r w).stage = x.stage := rfl
@[simp] theorem Core.setTile_stat (k r : Nat) (w : V512) : (x.setTile k r w).stat = x.stat := rfl

/-! Reads after writes -/

@[simp] theorem Core.sreg_zero : x.sreg 0 = 0 := rfl
@[simp] theorem Core.preg_zero : x.preg 0 = BitVec.allOnes 64 := rfl

/-- A write to s0 is discarded. -/
@[simp] theorem Core.setS_zero (w : Word) : x.setS 0 w = x := rfl
/-- A write to p0 is discarded. -/
@[simp] theorem Core.setP_zero (w : Word) : x.setP 0 w = x := rfl

@[simp] theorem Core.sreg_setS_self {n : Nat} (w : Word) (h : n ≠ 0) : (x.setS n w).sreg n = w := by simp [Core.sreg, Core.setS, h]
@[simp] theorem Core.sreg_setS_ne {n r : Nat} (w : Word) (h : r ≠ n) : (x.setS n w).sreg r = x.sreg r := by
  by_cases hn : n = 0 <;> simp [Core.sreg, Core.setS, hn, h]
@[simp] theorem Core.preg_setP_self {n : Nat} (w : Word) (h : n ≠ 0) : (x.setP n w).preg n = w := by simp [Core.preg, Core.setP, h]
@[simp] theorem Core.preg_setP_ne {n r : Nat} (w : Word) (h : r ≠ n) : (x.setP n w).preg r = x.preg r := by
  by_cases hn : n = 0 <;> simp [Core.preg, Core.setP, hn, h]
@[simp] theorem Core.vreg_setV_self (n : Nat) (w : V512) : (x.setV n w).vreg n = w := by simp [Core.vreg, Core.setV]
@[simp] theorem Core.vreg_setV_ne {n r : Nat} (w : V512) (h : r ≠ n) : (x.setV n w).vreg r = x.vreg r := by simp [Core.vreg, Core.setV, h]
@[simp] theorem Core.tile_setTile_self (k r : Nat) (w : V512) : (x.setTile k r w).tile k r = w := by simp [Core.tile, Core.setTile]

@[simp] theorem Core.vreg_setS (n r : Nat) (w : Word) : (x.setS n w).vreg r = x.vreg r := by simp [Core.vreg]
@[simp] theorem Core.preg_setS (n r : Nat) (w : Word) : (x.setS n w).preg r = x.preg r := by simp [Core.preg]
@[simp] theorem Core.sreg_setV (n r : Nat) (w : V512) : (x.setV n w).sreg r = x.sreg r := rfl
@[simp] theorem Core.preg_setV (n r : Nat) (w : V512) : (x.setV n w).preg r = x.preg r := rfl
@[simp] theorem Core.sreg_setP (n r : Nat) (w : Word) : (x.setP n w).sreg r = x.sreg r := by simp [Core.sreg]
@[simp] theorem Core.vreg_setP (n r : Nat) (w : Word) : (x.setP n w).vreg r = x.vreg r := by simp [Core.vreg]

end Sys2Proof.Machine
end

