-- ==== Sys2Proof/Machine/Sideband.lean ====
section
/-! DEFINITION. The sideband (R379, R432, R438): which MCTP messages the management core takes, and what PLDM reads. The table of commands
has no row for an MCTP or PLDM message: the SPDM rows stand for messages of types 5 and 6, and these definitions say the rest (log
entry 104). -/

namespace Sys2Proof.Machine

/-- Message types of the endpoint: MCTP control, PLDM, SPDM, secured messages; and the PLDM types it knows. -/
def mctpTypes : List Nat := [0x00, 0x01, 0x05, 0x06]
def pldmTypes : List Nat := [0, 2]

/-- R379, R438: the endpoint takes a message: from step 1 of bring-up on, in half-mast and in D3hot, not while the module is struck; on SMBus
at its own address and with a right PEC; in recovery MCTP control messages only. -/
def State.mctpTakes (s : State) (b : MctpBinding) (typ : Nat) : Bool :=
  s.hubRuns && mctpTypes.contains typ && (decide (s.boot.state ≠ 4) || decide (typ = 0)) &&
    (match b with
     | .vdm => true
     | .smbus addr pec => decide (addr = s.host.addr) && pec)

/-- R379, R432: the reading of a sensor, at full resolution: temperatures in 0.25 °C, the rest in the units of the registers that show it. -/
def State.pldmRead (s : State) (k : PldmSensor) : Nat :=
  match k with
  | .dram i => (s.sens i).temp
  | .logic i => (s.sens (2000 + i)).temp
  | .hub i => (s.sens (3000 + i)).temp
  | .inlet => s.thm.inlet
  | .outlet => s.thm.outlet
  | .guest => s.guest.temp
  | .volt => s.pwr.volt
  | .current => s.pwr.current
  | .draw => s.pwr.avg
  | .energy => s.mtr.energy
  | .meterPower => s.mtr.power
  | .alertCause => s.alert.word.toNat
  | .rows n => (s.ctx n).rows
  | .lines n => (s.ctx n).lines
  | .steps n => (s.ctx n).steps
  | .units n => (s.ctx n).units
  | .dmaBytes n => (s.ctx n).dmaBytes

/-- PLDM's answer to a sensor read of type 2. -/
def State.pldmAnswer (s : State) (b : MctpBinding) (k : PldmSensor) : Option Nat := if s.mctpTakes b 1 then some (s.pldmRead k) else none

end Sys2Proof.Machine
end

