-- ==== Sys2Proof/Tests/Fixture.lean ====
section
/-! SUPPORT. Small states and instruction words for the tests. -/

namespace Sys2Proof.Tests

open Sys2Proof.Machine

/-- Operand bits of an instruction word: each field as its lowest bit and its value. -/
def ins (l : List (Nat × Nat)) : BitVec 56 := BitVec.ofNat 56 ((l.map fun e => e.2 * 2 ^ e.1).sum)

/-- A module after bring-up with one backed core, logical core 0, which is `x` and owns bank 0 of its slice. -/
def up (x : Core) : State :=
  { State.reset with
    perstOut := true
    boot := { State.reset.boot with state := 1 }
    map := [(0, 1)]
    dies := [(0, { (default : Die) with up := true, locked := true, count := 21605, lockSeq := 3 })]
    own := [(0, { (default : Owner) with owned := true })]
    cores := [(0, x)] }

/-- A core that runs user code, with the lines at DA 0 and at slice 1 in its instruction cache. -/
def user : Core :=
  { (default : Core) with run := 3, icache := [(0, 15), (2097152, 15)], s := [(2, 7), (3, BitVec.ofInt 64 (-3))], p := [(1, 0xF0), (2, 0x3C)] }

/-- A core in firmware mode. -/
def firm : Core := { user with run := 6, fw := true }

theorem user_issues : Issues (up user) 0 := ⟨by decide, by decide, by decide, by decide⟩
theorem firm_issues : Issues (up firm) 0 := ⟨by decide, by decide, by decide, by decide⟩

end Sys2Proof.Tests
end

