-- ==== Sys2Proof/Tests/Slice0.lean ====
section
/-! SUPPORT. Small tests of the model against worked examples of the spec, and ill-formed commands. -/

namespace Sys2Proof.Tests

open Sys2Proof.Machine

/-! Words of chapters 05 and 06 -/

/-- R119's example: `ld.d s5, 0x40(s7)`. -/
theorem test_decode_ld : decodeGarno 3 0x100539C000000040 = .ld 3 (ins [(48, 5), (43, 7), (39, 3), (38, 1), (0, 0x40)]) := by decide
/-- R119's example: `vfma.f32 v4, v1, v2, v3`. -/
theorem test_decode_vfma : decodeGarno 3 0x2404088700000000 = .vfma 3 (ins [(48, 4), (43, 1), (38, 2), (33, 3), (29, 8)]) := by decide
/-- Chapter 06: `mldw v8, e4m3, trans, s20`. -/
theorem test_decode_mldw : decodeGarno 3 0x4014502080000000 ≠ decodeGarno 3 0x4014502000000000 ∧
    decodeGarno 3 0x4014502000000000 = .mldw 3 (ins [(52, 1), (47, 8), (42, 20), (37, 1)]) := by decide
/-- Chapter 06: `mop 0, a0, q3, 16, 0, acc, e4m3`. -/
theorem test_decode_mop : decodeGarno 3 0x4100610080000000 = .mop 3 (ins [(45, 3), (36, 16), (31, 1)]) := by decide
theorem test_decode_unassigned : decodeGarno 3 0xFF00000000000000 = .illegalOpcode 3 0xFF00000000000000 := by decide
theorem test_encode_ld : encodeGarno (.ld 3 (ins [(48, 5), (43, 7), (39, 3), (38, 1), (0, 0x40)])) = some (3, 0x100539C000000040) := by decide

/-! Instructions -/

/-- What core 0 holds after an instruction of the fixture's user core. -/
def after (i : Instr) : Core := match exec i (up user) with | .next t => t.core 0 | _ => default

theorem test_sub_wraps : (after (.alu 0 (ins [(48, 1), (43, 3), (38, 2), (28, 1)]))).sreg 1 = BitVec.ofInt 64 (-10) := by decide
theorem test_sra_sign : (after (.shi 0 (ins [(48, 3), (43, 3), (6, 2), (0, 1)]))).sreg 3 = BitVec.ofInt 64 (-2) := by decide
theorem test_mulhsu : (after (.mul 0 (ins [(48, 1), (43, 3), (38, 2), (28, 3)]))).sreg 1 = BitVec.ofInt 64 (-1) := by decide
theorem test_div_truncates : (after (.divide 0 (ins [(48, 1), (43, 2), (38, 3)]))).sreg 1 = BitVec.ofInt 64 (-2) := by decide
theorem test_s0_discards : (after (.addi 0 (ins [(48, 0), (43, 2), (0, 5)]))).sreg 0 = 0 := by decide
theorem test_lih_keeps_low : (after (.lih 0 (ins [(48, 2), (0, 0xABCD)]))).sreg 2 = 0xABCD000000000007 := by decide
theorem test_pred_andnot : (after (.pred 0 (ins [(48, 3), (43, 1), (38, 2), (28, 3)]))).preg 3 = 0xC0 := by decide
theorem test_p0_all_ones : (after (.pred 0 (ins [(48, 0), (43, 1), (38, 2), (28, 3)]))).preg 0 = BitVec.allOnes 64 := by decide
theorem test_jal_links : (after (.jal 0 (ins [(48, 1), (0, 2)]))).pc = 16 ∧ (after (.jal 0 (ins [(48, 1), (0, 2)]))).sreg 1 = 8 := by decide
theorem test_jalr_align : (after (.jalr 0 (ins [(48, 1), (43, 2)]))).exc.cause = 0x03 ∧ (after (.jalr 0 (ins [(48, 1), (43, 2)]))).sreg 1 = 0 := by decide
theorem test_rdctr_coarse : (after (.rdctr 0 (ins [(48, 1)]))).sreg 1 = 20480 := by decide
theorem test_privileged : (after (.sysr 0 (ins [(48, 1), (0, 8)]))).exc.cause = 0x02 ∧ (after (.sysr 0 (ins [(48, 1), (0, 8)]))).run = 5 := by decide
/-- s2 = 7 is stored to scratch byte 0 and read back as a byte. -/
theorem test_store_load : (match exec (.st 0 (ins [(48, 2), (41, 2)])) (up user) with
    | .next t => (match exec (.ld 0 (ins [(48, 9), (41, 2)])) t with | .next v => (v.core 0).sreg 9 | _ => 0)
    | _ => 0) = 7 := by decide
theorem test_load_misaligned : (after (.ld 0 (ins [(48, 1), (43, 2), (41, 2), (39, 3)]))).exc.cause = 0x03 := by decide

/-! Number formats: the table of chapter 04, its sum, and R112 with the example of chapter 05 -/

theorem test_conv_e4m3 : EType.e4m3.conv false false (f32 0x43960000) = 0x79 ∧ EType.e4m3.conv false false (f32 0x43FA0000) = 0x7E := by decide
theorem test_conv_e5m2 : EType.e5m2.conv false false (f32 0x43FA0000) = 0x60 ∧ EType.e5m2.conv false true (f32 0x43FA0000) = 0x60 := by decide
theorem test_conv_e2m1 : EType.e2m1.conv false false (f32 0x40200000) = 0x4 ∧ EType.e2m1.conv false false (f32 0x40E00000) = 0x7 ∧
    EType.e2m1.conv false false (f32 0xBE4CCCCD) = 0x8 := by decide
theorem test_sum_order : fadd32 (fadd32 0x4B800000 0x3F800000) 0x3F800000 = 0x4B800000 ∧
    fadd32 (fadd32 0x3F800000 0x3F800000) 0x4B800000 = 0x4B800001 := by decide
theorem test_quant_group : quantGroup .e4m3 false ([0x40400000, 0x3DCCCCCD, 0xBA83126F, 0].map f32) = (0x78, [0x7C, 0x55, 0xA0, 0]) := by decide

/-! Memory, check values, windows -/

/-- Chapter 08: the residue of the example's word before and after the write. -/
theorem test_residue : residue (leBytes 4 0xFFFF0000 ++ leBytes 4 0x00010001 ++ List.replicate 24 0) = 2 ∧
    residue (leBytes 4 0xFFFF0000 ++ leBytes 4 0x00010001 ++ leBytes 4 3 ++ List.replicate 20 0) = 5 := by decide

/-- The bytes of "123456789". -/
def digits : Bytes := (List.range 9).map fun i => BitVec.ofNat 8 (0x31 + i)
def checkValue (alg : Nat) : Nat := crcFeed alg (crcInit alg) digits ^^^ crcFinal alg
/-- R360: the check values of its table. -/
theorem test_crc32c : checkValue 0 = 0xE3069283 := by decide +kernel
theorem test_crc32 : checkValue 1 = 0xCBF43926 := by decide +kernel
theorem test_crc64 : checkValue 2 = 0x6C40DF5F0B497347 := by decide +kernel
theorem test_crc16 : checkValue 3 = 0x29B1 := by decide +kernel

/-- R399's example: where a core's store to 0x0311_3010_0040 leads, and the bank of the target offset. -/
theorem test_remote_address : (up user).decodeDA 0x031130100040 = some (.remote 17 0x30100040) ∧ bankOf 0x04100040 = 32 := by decide

/-! Ill-formed commands: one for each check -/

theorem test_ill_core : (Instr.nop 1280 0).wellFormed = false ∧ (Instr.scrubLine 1280 []).wellFormed = false := by decide
theorem test_ill_array : (Instr.arrayRowEnter 0 4 .none).wellFormed = false := by decide
theorem test_ill_stream : (Instr.streamPrefetch 0 16).wellFormed = false := by decide
theorem test_ill_bank : (Instr.earith 0 128).wellFormed = false ∧ (Instr.testModeEnable 0 3 default).wellFormed = false := by decide
theorem test_ill_cluster : (Instr.ccAccess 20 .none).wellFormed = false ∧ (Instr.ccContextInvalidate 0 256).wellFormed = false := by decide
theorem test_ill_job : (Instr.jobRetire 256).wellFormed = false ∧ (Instr.payloadRotation 256).wellFormed = false := by decide
theorem test_ill_record : (Instr.faultRecordFree 6 0).wellFormed = false ∧ (Instr.faultRecordFree 0 256).wellFormed = false := by decide
theorem test_ill_window : (Instr.windowEpochNotice 256 0 0).wellFormed = false ∧ (Instr.windowEpochNotice 0 16 0).wellFormed = false := by decide
theorem test_ill_queue : (Instr.intDelayExpire 65536).wellFormed = false ∧ (Instr.msixVectorUnmask 2048).wellFormed = false := by decide
theorem test_ill_channel : (Instr.dmaCopy 576 .ur).wellFormed = false ∧ (Instr.dmaProdWrite 256 ⟨true, 4⟩ 0).wellFormed = false ∧
    (Instr.crcValueWrite 16 0).wellFormed = false := by decide
theorem test_ill_port : (Instr.portSignalLoss 8).wellFormed = false ∧ (Instr.frameIdle 8 default).wellFormed = false := by decide
theorem test_ill_pair : (Instr.pairLost 8).wellFormed = false ∧ (Instr.d2dCrcFail 0 2 0 0).wellFormed = false ∧
    (Instr.d2dCrcFail 0 0 64 0).wellFormed = false ∧ (Instr.d2dModuleFail 0 2).wellFormed = false := by decide
theorem test_ill_die : (Instr.diePllLoss 5).wellFormed = false ∧ (Instr.thermalTrip 22 true 0).wellFormed = false ∧
    (Instr.buntingRerequest 1440 0 true).wellFormed = false ∧ (Instr.traceIdle 4).wellFormed = false := by decide
theorem test_ill_fault : exec (.nop 1280 0) (up user) = .fault .noUnit := rfl

end Sys2Proof.Tests
end

