-- ==== Sys2Proof/Tests/WitnessCore.lean ====
section
/-! SUPPORT. States and operands that meet the hypotheses of the statements about core instructions. -/

namespace Sys2Proof.Tests

open Sys2Proof.Machine

/-- A core whose s2 is -2^63, s3 is -1 and s4 is 2^48. -/
def edge : Core := { user with s := [(2, BitVec.ofInt 64 (-2 ^ 63)), (3, -1), (4, BitVec.ofNat 64 (2 ^ 48))], pc := 8 }
theorem edge_issues : Issues (up edge) 0 := ⟨by decide, by decide, by decide, by decide⟩

/-- R127, each clause: divisor 0, and -2^63 by -1, for the first and the last FN of each. -/
theorem witness_division : Issues (up edge) 0 ∧
    (∀ fn ∈ [0, 1, 2, 3], rOk (ins [(48, 1), (43, 2), (38, 0), (28, fn)]) = true ∧ rFN (ins [(48, 1), (43, 2), (38, 0), (28, fn)]) = fn ∧
      ((up edge).seen 0).sreg (fRB (ins [(48, 1), (43, 2), (38, 0), (28, fn)])) = 0) ∧
    (∀ fn ∈ [0, 2], rFN (ins [(48, 1), (43, 2), (38, 3), (28, fn)]) = fn ∧
      (((up edge).seen 0).sreg (fRA (ins [(48, 1), (43, 2), (38, 3), (28, fn)]))).toInt = -2 ^ 63 ∧
      (((up edge).seen 0).sreg (fRB (ins [(48, 1), (43, 2), (38, 3), (28, fn)]))).toInt = -1) :=
  ⟨edge_issues, by decide, by decide⟩

/-- R126: every FN of ALU, MUL and DIV with a divisor that is not zero. -/
theorem witness_scalar : Issues (up user) 0 ∧
    (∀ fn ∈ List.range 14, rOk (ins [(48, 1), (43, 2), (38, 3), (28, fn)]) = true ∧ rFN (ins [(48, 1), (43, 2), (38, 3), (28, fn)]) = fn) ∧
    ((up user).seen 0).sreg (fRB (ins [(38, 3)])) ≠ 0 :=
  ⟨user_issues, by decide, by decide⟩

/-- The immediate instructions: SHI of every kind at count 0 and 63, LIH, at the ends of the immediate's range. -/
theorem witness_immediate : Issues (up user) 0 ∧
    (∀ k ∈ [0, 1, 2], ∀ n ∈ [0, 63], fPG (ins [(48, 1), (43, 2), (6, k), (0, n)]) = 0 ∧ fld (ins [(48, 1), (43, 2), (6, k), (0, n)]) 6 37 = k ∧
      fld (ins [(48, 1), (43, 2), (6, k), (0, n)]) 0 6 = n) ∧
    (∀ m ∈ [0, 2 ^ 43 - 1], fPG (ins [(48, 1), (43, 2), (0, m)]) = 0) ∧
    fld (ins [(48, 1), (0, 65535)]) 16 32 = 0 :=
  ⟨user_issues, by decide, by decide, by decide⟩

/-- PRED, each FN, with a destination p7 and the discarded p0, and an RB that FN 4 and 5 do not allow. -/
theorem witness_pred : Issues (up user) 0 ∧
    (∀ fn ∈ [0, 1, 2, 3], ∀ d ∈ [0, 7], rOk (ins [(48, d), (43, 1), (38, 2), (28, fn)]) = true ∧ fRD (ins [(48, d), (43, 1), (38, 2), (28, fn)]) < 8 ∧
      fRA (ins [(48, d), (43, 1), (38, 2), (28, fn)]) < 8 ∧ fRB (ins [(48, d), (43, 1), (38, 2), (28, fn)]) < 8 ∧
      rFN (ins [(48, d), (43, 1), (38, 2), (28, fn)]) = fn) ∧
    (∀ fn ∈ [4, 5], ∀ b ∈ [0, 31], rOk (ins [(48, 5), (43, 2), (38, b), (28, fn)]) = true ∧
      fRB (ins [(48, 5), (43, 2), (38, b), (28, fn)]) = b ∧ rFN (ins [(48, 5), (43, 2), (38, b), (28, fn)]) = fn) :=
  ⟨user_issues, by decide, by decide⟩

/-- Branches: taken and not taken, inside 48 bits and below 0; JALR aligned, not aligned, and from 2^48. -/
theorem witness_branch : Issues (up edge) 0 ∧
    (let f := ins [(53, 0), (0, 2 ^ 40 - 1)]; fld f 40 3 = 0 ∧ (edge.pc : Int) + 8 * (f.extractLsb' 0 40).toInt = 0) ∧
    (let f := ins [(53, 0), (0, 2 ^ 40 - 2)]; (edge.pc : Int) + 8 * (f.extractLsb' 0 40).toInt < 0) ∧
    (let f := ins [(53, 1)]; fld f 53 3 = 1 ∧ ((up edge).seen 0).sreg 0 = 0) ∧
    (let f := ins [(53, 7), (48, 7)]; fld f 43 5 = 0 ∧ fld f 48 5 < 8) ∧
    (let f := ins [(48, 1), (0, 2 ^ 48 - 2)]; fPG f = 0 ∧ (edge.pc : Int) + 8 * (f.extractLsb' 0 48).toInt < 0) ∧
    (∀ n ∈ [(0, 16), (4, 0), (4, 4)], let f := ins [(43, n.1), (0, n.2)]
      (((up edge).seen 0).sreg (fRA f) + (f.extractLsb' 0 43).signExtend 64).toNat = (if n.1 = 4 then 2 ^ 48 else 0) + n.2) :=
  ⟨edge_issues, by decide, by decide, by decide, by decide, by decide, by decide⟩

/-- VINT on each of its types with every FN, and with SAT for FN 0 and 1; VFP, VFMA and VFN on FP32. -/
theorem witness_vector : Issues (up user) 0 ∧
    (∀ n ∈ [2, 3, 9, 10], ∃ t, etypeOf n = some t ∧ t.isVInt = true) ∧
    (∀ n ∈ [2, 3, 9, 10], ∀ fn ∈ List.range 12, let f := ins [(53, 1), (48, 1), (43, 2), (38, 3), (29, n), (8, fn)]
      vET f = n ∧ vFN f = fn ∧ vSAT f = 0 ∧ zeros f [vfVC, vfET2, vfRND, vfPART, vfIMM, vfZ] = true) ∧
    (let f := ins [(29, 2), (19, 1), (8, 1)]; vFN f < 2 ∧ vSAT f = 1 ∧ zeros f [vfVC, vfET2, vfRND, vfPART, vfIMM, vfZ] = true) ∧
    (∀ fn ∈ [0, 6], let f := ins [(29, 8), (8, fn)]
      vET f = 8 ∧ vFN f = fn ∧ fRB f = 0 ∧ zeros f [vfVC, vfET2, vfRND, vfPART, vfSAT, vfIMM, vfZ] = true) ∧
    (let f := ins [(29, 8), (33, 4), (8, 2)]; vET f = 8 ∧ vFN f = 2 ∧ zeros f [vfET2, vfRND, vfPART, vfSAT, vfIMM, vfZ] = true) ∧
    (let f := ins [(29, 8), (8, 2)]; vFN f = 2 ∧ zeros f [vfVB, vfVC, vfET2, vfRND, vfPART, vfSAT, vfIMM, vfZ] = true) :=
  ⟨user_issues, by simp [etypeOf, EType.isVInt], by decide, by decide, by decide, by decide, by decide⟩

/-- VCMP on INT8 with FN 0 and on FP32 with FN 5, into p0 and p7. -/
theorem witness_compare : Issues (up user) 0 ∧ etypeOf 2 = some .int8 ∧ etypeOf 8 = some .fp32 ∧
    (∀ e ∈ [(2, 0, 0), (8, 5, 7)], let f := ins [(53, 1), (48, e.2.2), (43, 2), (38, 3), (29, e.1), (8, e.2.1)]
      vET f = e.1 ∧ vFN f < 6 ∧ fRD f < 8 ∧ zeros f [vfVC, vfET2, vfRND, vfPART, vfSAT, vfIMM, vfZ] = true) :=
  ⟨user_issues, rfl, rfl, by decide⟩

/-- VRED, VPERM of FN 0 to 5, VBCAST of both kinds and VMOVS, with IMM6 at 0 and at the last element. -/
theorem witness_moves : Issues (up user) 0 ∧ EType.int8.isVInt = true ∧
    (∀ fn ∈ [0, 2], let f := ins [(53, 1), (29, 2), (8, fn)]
      vFN f < 3 ∧ zeros f [vfVB, vfVC, vfET2, vfRND, vfPART, vfSAT, vfIMM, vfZ] = true) ∧
    (∀ e ∈ [(0, 0, 3, 0), (5, 0, 0, 63), (1, 2, 3, 0), (4, 8, 3, 0)],
      let f := ins [(53, 1), (38, e.2.2.1), (29, e.2.1), (13, e.2.2.2), (8, e.1)]
      vFN f = e.1 ∧ vET f = e.2.1 ∧ fRB f = e.2.2.1 ∧ vIMM f = e.2.2.2 ∧ zeros f [vfVC, vfET2, vfRND, vfPART, vfSAT, vfZ] = true) ∧
    (∀ e ∈ [(0, 0), (1, 63)], let f := ins [(29, 2), (13, e.2), (8, e.1)]
      vFN f = e.1 ∧ vIMM f = e.2 ∧ vIMM f < 512 / EType.int8.width ∧ zeros f [vfPG, vfVB, vfVC, vfET2, vfRND, vfPART, vfSAT, vfZ] = true) ∧
    (let f := ins [(29, 8), (13, 15)]; vIMM f < 512 / EType.fp32.width ∧ zeros f [vfPG, vfVB, vfVC, vfET2, vfRND, vfPART, vfSAT, vfFN, vfZ] = true) :=
  ⟨user_issues, rfl, by decide, by decide, by decide, by decide⟩

/-- VCVT between FP32 and BF16 at its last part, VQUANT to E4M3 and E2M1, VPLANE of FN 0 to 2. -/
theorem witness_conversions : Issues (up user) 0 ∧
    (let f := ins [(29, 8), (25, 6), (23, 1), (20, 1)]
     etypeOf (vET f) = some .fp32 ∧ etypeOf (vET2 f) = some .bf16 ∧ zeros f [vfVB, vfVC, vfIMM, vfFN, vfZ] = true ∧ vRND f < 2 ∧
       vSAT f = 0 ∧ vPART f < vcvtParts EType.fp32.width EType.bf16.width) ∧
    (let f := ins [(29, 8), (25, 1), (19, 1)]; etypeOf (vET2 f) = some .e5m2 ∧ vSAT f = 1) ∧
    (∀ e ∈ [(0, 0), (4, 3)], ∀ fn ∈ [0, 1], let f := ins [(29, 8), (25, e.1), (20, e.2), (8, fn)]
      vET f = 8 ∧ vFN f = fn ∧ zeros f [vfRND, vfZ] = true ∧ fRB f = 0 ∧ vSAT f = 0 ∧ vPART f < 4) ∧
    (let f := ins [(29, 8)]; zeros f [vfVC, vfET2, vfRND, vfSAT, vfIMM, vfZ] = true ∧ vPART f = 0 ∧ vFN f = 0) ∧
    (∀ e ∈ [(1, 0, 0), (2, 1, 4)], let f := ins [(38, e.2.2), (29, 6), (20, e.2.1), (8, e.1)]
      vET f = 6 ∧ fPG f = 0 ∧ vPART f < 2 ∧ vFN f = e.1 ∧ fRB f = e.2.2 ∧ zeros f [vfVC, vfET2, vfRND, vfSAT, vfIMM, vfZ] = true) :=
  ⟨user_issues, by decide, by decide, by decide, by decide, by decide⟩

/-- Words that raise ILLEGAL_OP, and privileged words, in user mode. -/
theorem witness_illegal : Issues (up user) 0 ∧ (up user |>.seen 0).fw = false ∧
    rOk (ins [(0, 1)]) = false ∧ rFN (ins [(28, 14)]) = 14 ∧ rFN (ins [(28, 4)]) = 4 ∧ rFN (ins [(28, 6)]) = 6 ∧ ins [(0, 1)] ≠ 0 ∧
    cOk (ins [(48, 1), (0, 8)]) true false = true ∧ cOk (ins [(43, 1), (0, 8)]) false true = true ∧ cImm (ins [(43, 1), (0, 8)]) = 8 ∧
    cOk (ins [(0, 127)]) false false = true ∧ cImm (ins [(0, 127)]) < 128 ∧
    cOk (ins [(43, 1)]) false true = true ∧ cImm (ins [(43, 1)]) = 0 :=
  ⟨user_issues, by decide⟩

/-- RDCTR of count and LOCK_SEQ in both modes, and a reserved number. -/
theorem witness_rdctr : Issues (up user) 0 ∧ Issues (up firm) 0 ∧ (up user |>.seen 0).fw = false ∧ (up firm |>.seen 0).fw = true ∧
    ∀ n ∈ [0, 1, 2, 65535], cOk (ins [(48, 1), (0, n)]) true false = true ∧ cImm (ins [(48, 1), (0, n)]) = n :=
  ⟨user_issues, firm_issues, by decide⟩

/-- Firmware that may leave to user mode, with s2 = 255 and s3 = 256. -/
def ready : Core := { firm with s := [(2, 255), (3, 256)], sys := { firm.sys with clean := true, cold := true } }
theorem ready_issues : Issues (up ready) 0 := ⟨by decide, by decide, by decide, by decide⟩

/-- SYSR of a known and of an unknown register, SYSW, SCLR with and without DRAIN, CTXSET at both sides of 256, UENTER with
CLEAN and without, END. -/
theorem witness_system : Issues (up ready) 0 ∧ Issues (up user) 0 ∧ (up ready |>.seen 0).fw = true ∧
    ((up ready |>.seen 0).sysReg 8).isSome = true ∧ (up ready |>.seen 0).sysReg 65535 = none ∧
    (∀ n ∈ [0, 2, 127], cOk (ins [(0, n)]) false false = true ∧ cImm (ins [(0, n)]) = n) ∧ ((up ready).drained 0).2 = true ∧
    cOk (ins [(43, 2)]) false true = true ∧ cImm (ins [(43, 2)]) = 0 ∧
    ((up ready |>.seen 0).sreg (fRA (ins [(43, 2)]))).toNat = 255 ∧ ((up ready |>.seen 0).sreg (fRA (ins [(43, 3)]))).toNat = 256 ∧
    (up ready |>.seen 0).quiet = true ∧ (up ready |>.seen 0).sys.clean = true ∧ (up ready |>.seen 0).sys.cold = true ∧
    (((up ready).goOn 0).clearRegs 0 |>.core 0).quiet = true ∧
    (((up { ready with tickets := [(0, { (default : Ticket) with state := 1 })] }).goOn 0).clearRegs 0 |>.core 0).quiet = false ∧
    (up firm |>.seen 0).sys.clean = false ∧ (up user |>.seen 0).fw = false ∧ ((up user).fence 0 63).2 = true :=
  ⟨ready_issues, user_issues, by decide⟩

/-- FENCE with kinds that are complete, with every kind, with none, and one that waits for a ticket. -/
theorem witness_fence : Issues (up user) 0 ∧
    (∀ n ∈ [0, 1, 30, 63], cOk (ins [(0, n)]) false false = true ∧ cImm (ins [(0, n)]) = n ∧ cImm (ins [(0, n)]) < 64) ∧
    ((up user).fence 0 63).2 = true ∧
    (up user |>.seen 0).arrDone = true ∧ (up user |>.seen 0).ticketMask = 0 ∧ (up user |>.seen 0).sActive = 0 ∧
    (up user |>.seen 0).msgDone = true ∧ (up user |>.seen 0).impr = [] ∧
    ((up { user with tickets := [(0, { (default : Ticket) with state := 1 })] }).fence 0 4).2 = false :=
  ⟨user_issues, by decide⟩

/-- A core with a fault on its way, and the conditions of a management request. -/
theorem witness_coreEvents :
    (let s := up { user with impr := [⟨5, 64, 1, 0⟩] }
     (s.core 0).impr = [⟨5, 64, 1, 0⟩] ∧ s.backed 0 = true ∧ s.dieRuns 0 = true ∧ (s.core 0).wait = none ∧ (s.core 0).fw = false) ∧
    (up user).canIssue 0 = true ∧ ((up user).core 0).fw = false ∧ ((up firm).core 0).fw = true ∧ (up user).canIssue 1279 = false := by decide

end Sys2Proof.Tests
end

