-- ==== Sys2Proof/Tests/WitnessHub.lean ====
section
/-! SUPPORT. States and operands that meet the hypotheses of the statements about halyards, caches, jobs, security and the host. -/

namespace Sys2Proof.Tests

open Sys2Proof.Machine

/-- A module in service with no core at work. -/
def base : State := up user

/-- A halyard controller with a corrected word, a scrubbed word, a merge-buffer entry and two requests, one of which waits. -/
def busyHal : State :=
  { base with hals := [(0, { (default : Hal) with
      fix := [3], scrubFix := [4], merge := [⟨7, List.replicate 32 1, 1, true⟩]
      reqs := [⟨.ownCore, 0, false, 1, 64, false, [], 0, 32, false, false, false⟩] })] }

theorem witness_halyard :
    (busyHal.phys 0 = some 0 ∧ busyHal.dieRuns 0 = true) ∧
    (let l := eligible (busyHal.bankFree 0) (busyHal.hal 0).reqs []
     grantClass (busyHal.hal 0) l = some 1 ∧ (l.find? fun r : HReq => r.cls = 1).isSome = true) ∧
    (base.hal 0).reqs = [] ∧ grantClass (base.hal 0) (eligible (base.bankFree 0) (base.hal 0).reqs []) = none ∧
    ((busyHal.hal 0).fix = [3] ∧ (busyHal.hal 0).scrubFix = [4] ∧ (busyHal.hal 0).merge.length = 1) ∧
    (let r : HReq := ⟨.ownCore, 0, true, 2, 64, true, [], 1, 32, true, false, false⟩
     confirmable (fun r => base.invals.any fun e => decide (e.2.1 = lineOf 0 r.off)) [r] [] = some r) := by decide

/-- A cache with a load, a store and an AMO in turn at its home, a line that hits, a fill and an invalidation. -/
theorem witness_cache :
    (let r : CReq := ⟨0, .load, 64, 8, 255, [], 0, 0, 64, none, none, false⟩
     let s := { base with caches := [(0, { (default : Cache) with q := [r], fills := [r], lines := [(0, ⟨true, List.replicate 128 0, 0, 1⟩)] })]
                          invals := [(0, 0, 0)] }
     s.dieRuns 0 = true ∧ s.nextAccess 0 = none ∧
       ({ s.setCache 0 { s.cache 0 with fills := [] } with invals := [] } : State).nextAccess 0 = some r ∧ homeOf (r.da / 128) = 0 ∧
       ((s.cache 0).line 0).valid = true ∧ ((s.cache 0).line 0).ctx = r.ctx ∧ s.cachedRefusal r = none ∧
       s.cachedRefusal { r with da := 2 ^ 27, ctx := 1 } = some causeRegion ∧ s.phys (r.da / 2 ^ 28) = some 0 ∧ s.invals[0]? = some (0, 0, 0) ∧
       (s.cache 0).fills.find? (s.cacheReached 0) = some r ∧ s.bothWays (homeOf 0 / 4) (0 / 4) = true) ∧
    homeOf (64 * 2 ^ 21) ≠ 0 ∧ (∃ d, (base.readSlice 0 0 128 (base.cacheBy ⟨0, .load, 64, 8, 255, [], 0, 0, 64, none, none, false⟩ 0)).2 = .ok d) := by
  refine ⟨by decide, by decide, ⟨_, rfl⟩⟩

/-- A running job with and without a pending fault, one restarted 16 times, a held one, and a job number without a job. -/
theorem witness_jobs :
    (base.manages = true ∧ base.hubRuns = true ∧ base.sleeping = false ∧ base.placeBusy 1 0 = false ∧ (base.job 5).state = 0 ∧
      ({ base with place := { base.place with cmd := some (BitVec.ofNat 64 (2 * 2 ^ 62)) } }).placeBusy 1 0 = true) ∧
    (let s := { base with jobs := [(5, { (default : Job) with state := 1, faults := [(1, 2)] })] }
     (s.job 5).state = 1 ∧ (s.job 5).faults = [(1, 2)] ∧ s.recentRestarts 5 < 16 ∧ (s.beginRestart 5).jobRunsOn 5 = false ∧
       (s.beginRestart 5).jobDiesRun 5 = true) ∧
    (let s := { base with jobs := [(5, { (default : Job) with state := 1, faults := [(1, 2)], times := List.replicate 16 0 })] }
     16 ≤ s.recentRestarts 5) ∧
    (let s := { base with jobs := [(255, { (default : Job) with state := 3 })] }
     (s.job 255).state = 3 ∧ s.jobRunsOn 255 = false ∧ s.jobDiesRun 255 = true) := by decide

/-- A PLACE of a record that cannot be read is refused. -/
theorem witness_place : (base.place1 .ur).2.2.1 ≠ 0 := by decide

/-- A report of a job fault and one of another class, records that are old enough and too young, a segmented job. -/
theorem witness_faults :
    (let r : Report := ⟨1, 0x01, 0, 5, 0, 0, 4, 0⟩
     let s := { base with reports := [r, { r with cls := 0x0D, job := 0 }], jobs := [(5, { (default : Job) with state := 1 })] }
     s.reports[0]? = some r ∧ jobFaultClass r.cls = true ∧ (s.job r.job).state = 1 ∧ jobFaultClass 0x0D = false) ∧
    (let x : FltRec := { (default : FltRec) with valid := true }
     let s := { base with hubCount := 10800000, flt := [(5, { (default : Collector) with recs := [(255, x), (0, { x with job := 9 })] })] }
     (tget (tget s.flt 5).recs 255).valid = true ∧ x.job = 0 ∧ x.updated + 10800000 ≤ s.hubCount ∧ (s.job 9).state = 0 ∧
       base.hubCount < x.updated + 10800000) := by decide

/-- SEC commands: the word of each operation with its unused fields zero, and the states that let it end with OK. -/
def secWord (op ctx job : Nat) : Word := BitVec.ofNat 64 (op * 2 ^ 59 + job * 2 ^ 8 + ctx)
def withCtx : State := { base with ctxs := [(3, { (default : Ctx) with defined := true })], own := [(0, { (default : Owner) with owned := true, ctx := 3 })] }

theorem witness_security :
    (∀ op ∈ [1, 2, 3, 4, 5, 6, 7, 8, 9], bits (secWord op 3 5) 59 5 = op ∧ bits (secWord op 3 5) 0 8 = 3 ∧ bits (secWord op 3 5) 8 8 = 5 ∧
      bits (secWord op 3 5) 16 43 = 0) ∧
    (withCtx.manages = true ∧ withCtx.sec.cmd = none ∧ withCtx.serves = true ∧
      (∀ op ∈ [1, 2, 3, 4, 5, 6, 7, 8, 9], argOk op (secWord op 3 (if op = 7 ∨ op = 8 then 5 else 0)) withCtx.sec.arg = true) ∧ (withCtx.ctx 3).defined = true ∧
      (base.ctx 3).defined = false) ∧
    (withCtx.backed (bits withCtx.sec.arg 32 11) = true ∧ withCtx.dieRuns 0 = true ∧ bits withCtx.sec.arg 62 2 ≠ 3 ∧
      (∀ k ∈ argBanks withCtx.sec.arg, withCtx.ownedBy 3 k = true ∧ bits withCtx.sec.arg 62 2 ≤ (withCtx.ownAt k).host)) ∧
    (let s := { withCtx with own := [] }; ∀ k ∈ argBanks s.sec.arg, (s.ownAt k).owned = false ∧ (s.ownAt k).hub = false) ∧
    (withCtx.live.any fun e => decide (e.2.rc.ctx = 3)) = false ∧
    ((withCtx.ctx 3).kvPrev = none ∧ ({ withCtx with ctxs := [(3, { (default : Ctx) with defined := true, kvPrev := some [] })] }.ctx 3).kvPrev ≠ none) ∧
    (let j : Job := { (default : Job) with state := 1, rc := { (default : PlaceRec) with ctx := 3, cores := [{ (default : CoreEntry) with lcore := 0 }] } }
     let s := { withCtx with jobs := [(5, j)] }
     (s.job 5).state = 1 ∧ (s.job 5).faults = [] ∧ (s.job 5).rc.ctx = 3 ∧
       ((clustersOf [0]).any fun h => (withCtx.claims h).any fun k => decide (k ≠ 3)) = false) ∧
    withCtx.bankSealed 0 = true ∧ withCtx.ownedBy 3 0 = true := by decide

/-- A held job of the context, whose clusters no other context claims; and a certificate chain that has bytes. -/
theorem witness_release :
    (let j : Job := { (default : Job) with state := 2, rc := { (default : PlaceRec) with ctx := 3, cores := [{ (default : CoreEntry) with lcore := 0 }] } }
     let s := { withCtx with jobs := [(5, j)] }
     (s.job 5).state = 2 ∧ (s.job 5).rc.ctx = 3 ∧ ((clustersOf (s.job 5).cores).any fun h => (s.claims h).any fun k => decide (k ≠ 3)) = false) ∧
    0 < ensignChain.length := by
  refine ⟨by decide, ?_⟩
  unfold ensignChain
  rw [List.append_assoc, List.length_append]
  exact Nat.lt_of_lt_of_le (by decide : 0 < 4) (Nat.le_add_right 4 _)

/-- A pending payload key with no open request, a context with a counter page, and no defined context. -/
theorem witness_contexts :
    (let c : Ctx := { (default : Ctx) with defined := true, payPend := some [1], page := some 0 }
     let s := { base with ctxs := [(3, c)] }
     s.hubRuns = true ∧ (s.ctx 3).payPend = some [1] ∧ (s.live.any fun e => decide (e.2.rc.ctx = 3) && decide (e.2.openSerials ≠ 0)) = false ∧
       s.ctxs.filter (fun e => e.2.defined) = [(3, s.ctx 3)] ∧ (s.ctx 3).page = some 0 ∧ s.dieRuns 0 = true) ∧
    (∀ e ∈ base.ctxs, e.2.defined = false) ∧ (base.ctx 255).payPend = none := by decide

/-- Sessions: a bound one, one that is not bound yet, a root-port one, and none; a range of banks to measure. -/
theorem witness_sessions :
    (let s := { withCtx with sess := [(0, { (default : Sess) with active := true }), (1, { (default : Sess) with active := true, ctx := some 3 }),
       (7, { (default : Sess) with active := true, rootPort := true })] }
     s.manages = true ∧ (s.sessOf 0).active = true ∧ (s.sessOf 0).ctx = none ∧ (s.sessOf 0).rootPort = false ∧ (s.sessOf 1).ctx = some 3 ∧
       (s.ctx 3).defined = true ∧ (s.ctx 3).creation = 0 ∧ (s.ctx 3).bound = false ∧ (s.ctx 3).payCur = none ∧ (s.ctx 3).payPrev = none ∧
       (s.ctx 3).payPend = none ∧ (s.sessOf 7).rootPort = true ∧ (s.sessOf 2).active = false ∧
       (List.range 8).find? (fun i => !(s.sessOf i).active) = some 2) ∧
    (withCtx.phys 0 = some 0 ∧ withCtx.dieRuns 0 = true ∧ withCtx.bothWays 5 0 = true ∧
      ((List.range ((0 + 4096 + 2 ^ 21 - 1) / 2 ^ 21 - 0)).any fun k => !withCtx.ownedBy 3 (0 + k)) = false) ∧
    (let l := (List.range 8).map fun i => (i, { (default : Sess) with active := true })
     (List.range 8).find? (fun i => !({ base with sess := l }.sessOf i).active) = none) ∧
    ({ base with boot := { base.boot with step := 4 } }.linkEnabled = true ∧ (∃ k, k < 6 ∧ tget base.host.ideKeys (3 * 8 + k) = []) ∧
      ∀ k < 6, tget { base.host with ideKeys := (List.range 6).map fun k => (3 * 8 + k, ([1] : Bytes)) }.ideKeys (3 * 8 + k) ≠ []) ∧
    { base with boot := { base.boot with state := 4 } }.boot.state = 4 := by decide

theorem witness_measure : ∃ t d, withCtx.readSlice 0 0 4096 byHub = (t, .ok d) := by
  cases h : withCtx.readSlice 0 0 4096 byHub with
  | mk t r =>
    cases r with
    | ok d => exact ⟨t, d, rfl⟩
    | error e =>
      have : (withCtx.readSlice 0 0 4096 byHub).2.isOk = true := by decide +kernel
      rw [h] at this
      exact absurd this (by simp [Except.isOk, Except.toBool])

/-- Requests of the host: a BAR2 access that is served, one that ownership refuses, one past the last slice, one to an active bank. -/
theorem witness_host :
    (let s := { base with own := [] }
     s.hubRuns = true ∧ s.takes true = true ∧ s.bar2At (2 ^ 28 - 4) 4 = some (0, 0, 2 ^ 28 - 4) ∧ s.bar2At (2 ^ 28 - 4) 8 = none ∧
       s.bar2At (2 ^ 28) 4 = none ∧ s.hostRefused 0 0 64 4 false = false ∧ s.bankFree 0 0 = true ∧ base.hostRefused 0 0 64 4 false = true ∧
       base.hostRefused 0 0 64 4 true = true ∧ s.blockAnswers 0x20 = true ∧ s.cfgFn 1 = false ∧
       (let s := { s with boot := { s.boot with step := 4 } }
        s.linkEnabled = true ∧ s.cfgFn 1 = true ∧ s.cfgFn 2 = false ∧ ({ s with host := { s.host with bifur := true } }.cfgFn 2) = true) ∧ ({ s with sec := { s.sec with ideRequired := true } }.takes true) = false) ∧
    ({ base with nbus := [(0, { (default : Nbu) with units := [(0, { (default : NbUnit) with active := true })] })] }.bankFree 0 0 = false) ∧
    (∃ t d, base.readSlice 0 64 4 byHub = (t, .ok d)) ∧ ({ base with host := { base.host with d3hot := true } }.takes true = false) := by
  refine ⟨by decide, by decide, ⟨_, _, rfl⟩, by decide⟩

/-- Queues: a submission queue with room, a completion queue, an index in and out of range, interrupts, and the queue commands. -/
def queues : State :=
  { base with que := { (default : Que) with
      q := [(2, { (default : QEntry) with kind := 1, log2 := 4, job := 5 }), (3, { (default : QEntry) with kind := 2, log2 := 4, midx := 3, interval := true })]
      midx := [(2, 0), (2, 9)], cfg0 := BitVec.ofNat 64 (4 * 2 ^ 27 + 1), cfg1 := BitVec.ofNat 64 (2 * 2 ^ 40 + 2 ^ 14),
      cfg2 := BitVec.ofNat 64 (2 * 2 ^ 40 + 2 ^ 13) } }

theorem witness_queues :
    (queues.hubRuns = true ∧ queues.takes true = true ∧ queues.serves = true ∧ queues.manages = true ∧ queues.que.cmd = none) ∧
    ((queues.qe 0).kind = 0 ∧ (queues.qe 2).kind = 1 ∧ (queues.qe 2).doorbellOk 1 = true ∧ (queues.qe 2).doorbellOk 17 = false ∧
      (queues.qe 2).hidx = 0 ∧ 2 ≤ (queues.qe 3).kind ∧ (queues.qe 3).doorbellOk 1 = true ∧ (queues.qe 3).interval = true) ∧
    (queues.que.midx[0]? = some (2, 0) ∧ (∀ e ∈ queues.que.midx.take 0, e.1 ≠ 2) ∧ (queues.qe 2).midxOk 0 = true ∧ (queues.qe 2).midxOk 9 = false) ∧
    (queues.que.newEntry.paramOk = true ∧ base.que.newEntry.paramOk = false ∧ queues.queInJob 2 = false ∧
      ({ queues with jobs := [(5, { (default : Job) with state := 1, rc := { (default : PlaceRec) with qFirst := 2, qCount := 1 } })] }.queInJob 2 = true)) ∧
    (∀ op ∈ [1, 2, 3], bits (BitVec.ofNat 64 (op * 2 ^ 62 + 2)) 62 2 = op ∧ bits (BitVec.ofNat 64 (op * 2 ^ 62 + 2)) 16 46 = 0) := by decide

/-- Host states: D3hot in and out of half-mast, a guest that is up, an access that waits, a read of host memory, the waiters of a tag. -/
theorem witness_hostStates :
    (let s := { base with host := { base.host with d3hot := true } }
     s.hubRuns = true ∧ s.host.d3hot = true ∧ (s.heatRuns && s.inHalfMast) = false ∧ ({ s with halfMast := true }.heatRuns && { s with halfMast := true }.inHalfMast) = true) ∧
    (let s := { base with guestUp := true, guest := { (default : Guest) with csr := 1, waiting := [(4, false), (8, true)] } }
     s.takes true = true ∧ 2 ^ 20 - 4 < s.guest.csr * 2 ^ 20 ∧ ¬ 2 ^ 20 < s.guest.csr * 2 ^ 20 ∧ s.guest.waiting = (4, false) :: [(8, true)] ∧
       s.guestRefusal (2 * 2 ^ 40) 8 .read = none ∧ s.guestRefusal (2 * 2 ^ 40) 8 .write = none ∧ (s.guestRefusal (2 ^ 45) 8 .write).isSome = true ∧ s.hostOk (2 * 2 ^ 20) 8 = true ∧
       s.readsFull 1 = false ∧ s.targetRuns 64 = true ∧ ({ s with sec := { s.sec with ideRequired := true } }.hostOk 8 8) = false) ∧
    (let w : LdWait := ⟨[(7, 0, 8)], 1, false, 8, false, 0, 64, 0, none, List.replicate 8 0, 1⟩
     (up { user with wait := some w }).loadWaiter 7 = some 0 ∧ base.loadWaiter 7 = none ∧
       (up { user with readBack := some 7 }).backWaiter 7 = some 0 ∧ base.backWaiter 7 = none) ∧
    (let d : DRun := { (default : DRun) with tags := [14] }
     ({ base with dma := { (default : Dma) with ch := [(9, { (default : Chan) with run := some d })] } }.runWaiter 7).isSome = true) := by decide

end Sys2Proof.Tests
end

