-- ==== Sys2Proof/Tests/WitnessMemory.lean ====
section
/-! SUPPORT. States and operands that meet the hypotheses of the statements about memory, stream, matrix, message and near-bank
instructions and events. -/

namespace Sys2Proof.Tests

open Sys2Proof.Machine

/-- Firmware with the bases of the device-address spaces in s4 to s7: scratch of core 1, host, module 1, control space. -/
def reach : Core :=
  { firm with s := [(4, BitVec.ofNat 64 (2 ^ 40 + 2 ^ 20)), (5, BitVec.ofNat 64 (2 * 2 ^ 40)), (6, BitVec.ofNat 64 (3 * 2 ^ 40 + 2 ^ 32)),
    (7, BitVec.ofNat 64 (0xFF * 2 ^ 40)), (8, BitVec.ofNat 64 (2 ^ 28))] }

/-- Two backed cores and a port to module 1. -/
def wide (x : Core) : State :=
  { up x with map := [(0, 1), (1, 2)], lnk := { (default : Link) with ports := [(0, { (default : LPort) with state := 2, peer := 1 })] } }

theorem reach_issues : Issues (wide reach) 0 := ⟨by decide, by decide, by decide, by decide⟩

/-- An 8-byte access by LD and ST: base register, PATH and OFF. -/
def memWord (ra path off : Nat) : BitVec 56 := ins [(48, 1), (43, ra), (41, path), (39, 3), (0, off)]

/-- The last 8 bytes of the own scratch, the first of core 1's, host memory, another module, control space, and a slice on both paths:
no cause, not held, and the place that the clause names. -/
theorem witness_access : Issues (wide reach) 0 ∧
    (∀ e ∈ [(0, 2, 2 ^ 20 - 8), (4, 0, 0), (5, 0, 8), (6, 0, 16), (7, 0, 0x20), (0, 1, 64), (0, 0, 64), (8, 0, 0)],
      let f := memWord e.1 e.2.1 e.2.2
      let x := (wide reach).seen 0
      let u := (wide reach).goOn 0
      zeros f [(53, 3), (32, 6)] = true ∧ u.accCause x (accS f x) = none ∧ (accS f x).lines ≠ [] ∧ u.accHeld 0 x (accS f x) = none ∧
        (accS f x).path = e.2.1 ∧ (accS f x).len = 8) ∧
    (let u := wide reach
     let a := fun (ra path off : Nat) => accS (memWord ra path off) reach
     (u.partPlace 0 (a 0 2 (2 ^ 20 - 8)) (2 ^ 20 - 8, 8) = some (.scratch 0 (2 ^ 20 - 8)) ∧ (a 0 2 (2 ^ 20 - 8)).lines = [(2 ^ 20 - 8, 8)] ∧
       u.scratchUe 0 (2 ^ 20 - 8) 8 = false ∧ u.scratchRefuses 0 (2 ^ 20 - 8) (fun _ => true) 8 = none) ∧
     u.partPlace 0 (a 4 0 0) (2 ^ 40 + 2 ^ 20, 8) = some (.scratch 1 0) ∧
     (u.partPlace 0 (a 5 0 8) (2 * 2 ^ 40 + 8, 8) = some (.host 8) ∧ u.hostOk 8 8 = true ∧ u.hostFull (a 5 0 8) = false) ∧
     (u.partPlace 0 (a 6 0 16) (3 * 2 ^ 40 + 2 ^ 32 + 16, 8) = some (.remote 1 16) ∧ u.portsTo 1 = [0]) ∧
     (u.toControl 0 (a 7 0 0x20) = some 0x20 ∧ u.toControl 0 (a 0 0 64) = none) ∧
     (u.partPlace 0 (a 0 0 64) (64, 8) = some (.slice 0 64) ∧ u.partPlace 0 (a 8 0 0) (2 ^ 28, 8) = some (.slice 1 0) ∧ u.phys 0 = some 0 ∧
       u.bankFree 0 (bankOf 64) = true)) :=
  ⟨reach_issues, by decide, by decide⟩

/-- A DIRECT load of a good word completes; over a bank that runs a program it waits. -/
theorem witness_load :
    (let s := wide reach
     let w : LdWait := ⟨[], 1, false, 8, false, 0, 64, 64, none, List.replicate 8 0, 0⟩
     let a := accS (memWord 0 0 64) reach
     let r := a.lines.foldl (State.loadPart 0 reach a) (s, w, none)
     firstCause (a.lines.filterMap (s.loadCause 0 reach a)) = none ∧ r.2.2 = none ∧ r.2.1.left = 0) ∧
    (let s := { wide reach with nbus := [(0, { (default : Nbu) with units := [(0, { (default : NbUnit) with active := true })] })] }
     let w : LdWait := ⟨[], 1, false, 8, false, 0, 64, 64, none, List.replicate 8 0, 0⟩
     let a := accS (memWord 0 0 64) reach
     let r := a.lines.foldl (State.loadPart 0 reach a) (s, w, none)
     r.2.2 = none ∧ r.2.1.left = 1) := by decide

/-- Accesses that are refused: a bad word of scratch, a bank that another context owns, in the own slice and in another one. -/
def guest : Core := { reach with run := 3, fw := false, ctx := 1 }
def guestState : State :=
  { wide guest with own := [(0, { (default : Owner) with owned := true, ctx := 1 }), (1, { (default : Owner) with owned := true })] }
theorem witness_refusedAccess : Issues guestState 0 ∧
    ({ wide reach with scratchBad := [131071] } : State).scratchUe 0 (2 ^ 20 - 8) 8 = true ∧
    (let u : State := { wide reach with scratchBad := [131071] }
     let f := ins [(53, 3), (48, 1), (41, 2), (39, 2), (0, 2 ^ 20 - 4)]
     (accS f reach).lines.findSome? (u.ownCause 0 reach (accS f reach) [0, 0, 0, 0]) = some causeScratch) ∧
    (let a := accS (memWord 0 0 (2 ^ 21)) guest
     firstCause (a.lines.filterMap (guestState.loadCause 0 guest a)) = some causeRegion ∧
       firstCause (a.lines.filterMap (guestState.ownCause 0 guest a [])) = some causeRegion) ∧
    (let a := accS (memWord 0 1 (2 ^ 21)) guest
     firstCause (a.lines.filterMap (guestState.ownCause 0 guest a [])) = some causeRegion) ∧
    (let a := accS (memWord 8 0 0) guest
     firstCause (a.lines.filterMap (guestState.ownCause 0 guest a [])) = none ∧
       firstCause (a.lines.filterMap (guestState.homeCause 0 guest a)) = some causeRegion) :=
  ⟨⟨by decide, by decide, by decide, by decide⟩, by decide, by decide, by decide, by decide, by decide⟩

/-- A vector access with no active byte, and one of 64 bytes at an offset that is not a multiple of 64. -/
theorem witness_vectorAccess :
    (let f := ins [(53, 1), (48, 1), (41, 2), (39, 2), (0, 4)]
     zeros f [(32, 7)] = true ∧ (accV f { reach with p := [] }).lines = [] ∧
       ((wide reach).goOn 0).accCause { reach with p := [] } (accV f { reach with p := [] }) = none) ∧
    (let f := ins [(53, 0), (48, 1), (41, 2), (39, 2), (0, 68)]
     (accV f reach).lines = [(68, 60), (128, 4)] ∧ (wide reach).partPlace 0 (accV f reach) (128, 4) = some (.scratch 0 128)) := by decide

/-- AMO: in slice space with and without a destination, in scratch space, a compare-and-swap with RC. -/
theorem witness_amo : Issues (wide reach) 0 ∧
    (∀ e ∈ [(0, 1, 0, 0), (0, 0, 0, 0), (4, 1, 6, 0), (0, 1, 4, 3)],
      let f := ins [(48, e.2.1), (43, e.1), (33, e.2.2.2), (29, e.2.2.1)]
      let a := accAmo f ((wide reach).seen 0)
      zeros f [(53, 3), (0, 29)] = true ∧ fld f 29 4 < 7 ∧ (fld f 29 4 = 4 ∨ fRC f = 0) ∧ ((wide reach).goOn 0).accCause reach a = none ∧
        ((wide reach).goOn 0).accHeld 0 reach a = none ∧ (a.space = 0 ↔ e.1 = 0) ∧ fRD f = e.2.1) :=
  ⟨reach_issues, by decide⟩

/-- A store outside control space that retires, and the byte that it may change. -/
theorem witness_storeFrame : Issues (wide reach) 0 ∧ (accS (memWord 0 0 64) reach).space ≠ 0xFF ∧
    (∃ t, exec (.st 0 (memWord 0 0 64)) (wide reach) = .next t) ∧
    (wide reach).storesByte 0 (accS (memWord 0 0 64) reach) 64 ∧ ¬ (wide reach).mergeHolds 0 := by
  refine ⟨reach_issues, by decide, ⟨_, rfl⟩, ?_, ?_⟩
  · exact ⟨(64, 8), by decide, 0, 64, 0, by decide, by decide, 0, by decide, by decide, by decide⟩
  · rintro ⟨p, e, he, -⟩
    have h : ((wide reach).hal p).merge = [] := rfl
    rw [h] at he
    exact absurd he (List.not_mem_nil)

/-! Streams -/

/-- A descriptor of two runs of 16 units, 32 units apart; `w0` and `w1` as R153 packs them. -/
def desc (dir cls base stride count runLen st : Nat) : QDesc :=
  { (default : QDesc) with
    w0 := BitVec.ofNat 64 (dir * 2 ^ 62 + cls * 2 ^ 60 + 4 * 2 ^ 52 + base * 16)
    w1 := BitVec.ofNat 64 (stride * 2 ^ 40 + count * 2 ^ 20 + runLen), state := st }

/-- QSTART: a bad direction, an empty pattern, one that runs past 2^28, one below 0, and one that ends exactly at 2^28. -/
theorem witness_streamStart :
    (let f := ins [(44, 15)]; qOk f = true ∧ qR1 f = 0 ∧ qW f = 0 ∧ qN f = 15) ∧
    (2 ≤ (desc 2 0 0 0 1 1 0).dir ∧ (desc 0 3 0 0 1 1 0).cls = 3 ∧ (desc 1 1 0 0 1 1 0).dir = 1 ∧ (desc 1 1 0 0 1 1 0).cls ≠ 2) ∧
    ((desc 0 1 0 0 0 16 0).count = 0 ∧ (desc 0 1 0 0 2 0 0).runLen = 0) ∧
    (let d := desc 0 1 (2 ^ 24 - 15) 0 1 16 0; (2 : Int) ^ 24 < (d.base : Int) + 0 * d.stride + d.runLen) ∧
    (let d := desc 0 1 0 (2 ^ 24 - 1) 2 1 0; (d.base : Int) + 1 * d.stride < 0) ∧
    (let d := desc 0 1 (2 ^ 24 - 16) 0 1 16 0; d.state ≠ 1 ∧ d.runLen ≠ 0 ∧ d.count ≠ 0 ∧
      ∀ r < d.count, ¬((d.base : Int) + r * d.stride < 0 ∨ (2 : Int) ^ 24 < (d.base : Int) + r * d.stride + d.runLen)) := by decide

/-- A core with an active read stream 0, an active write stream 1 with its bound at 4, an ended read stream 2. -/
def streams : Core := { user with q := [(0, desc 0 1 0 32 2 16 1), (1, desc 1 2 64 0 1 4 1), (2, desc 0 1 0 0 1 4 2)] }

theorem witness_streams : Issues (up streams) 0 ∧
    (∀ e ∈ [(0, 0), (1, 0), (3, 1), (3, 2), (3, 3)], let f := ins [(48, 2), (44, e.1), (42, e.2)]; qOk f = true ∧ qN f = e.1 ∧ qW f = e.2) ∧
    ((streams.desc 3).state ≠ 1 ∧ (streams.desc 3).state ≠ 2 ∧ (streams.desc 0).state = 1 ∧ (streams.desc 0).dir = 0 ∧
      (streams.desc 0).pos + 4 ≤ (streams.desc 0).bound ∧ (up streams).phys 0 = some 0 ∧ (up streams).unitsWait 0 0 0 0 4 = false ∧
      streams.ticketUnits (streams.desc 0) 0 4 = false ∧ streams.badStreams.contains 0 = false) ∧
    (∃ t data, (up streams).readUnits 0 0 0 0 4 = (t, .ok data)) ∧
    ((streams.desc 1).dir = 1 ∧ (streams.desc 1).pos + 4 ≤ (streams.desc 1).bound ∧
      streams.ticketUnits (streams.desc 1) 0 4 = false ∧ (streams.desc 2).state = 2 ∧ (streams.desc 2).dir = 0 ∧
      streams.reserved 0 = false) :=
  ⟨⟨by decide, by decide, by decide, by decide⟩, by decide, by decide, ⟨_, _, rfl⟩, by decide⟩

/-- A run-ahead read, an arrival of a good and of a bad line, and a put to write. -/
theorem witness_streamEvents :
    (let s := up streams
     s.phys 0 = some 0 ∧ s.dieRuns 0 = true ∧ (s.core 0).sbuf.length < 512 ∧
       nextPrefetch (s.core 0) 0 (streams.desc 0) (streams.desc 0).depth (streams.desc 0).low = some 0 ∧
       (s.core 0).ticketHolds ((streams.desc 0).unitOff 0) (16 * (streams.desc 0).inLine 0) = false ∧ s.refused (.ctx 0) 0 0 ((streams.desc 0).unitOff 0) false = false) ∧
    (let r : HReq := ⟨.ownCore, 0, false, 1, 384, false, [], 2 ^ (16 * 8) - 1, 16 * 8, false, false, true⟩
     let b : By := ⟨.ownCore, 1, streams.job, some streams.ctx, 0, true⟩
     let s := { up streams with hals := [(0, { (default : Hal) with reqs := [r] })] }
     let o := { up streams with hals := [(0, { (default : Hal) with region := BitVec.allOnes 128 })] }
     (s.hal 0).reqs = [r] ∧ s.bankFree 0 (bankOf 384) = true ∧ s.lateRefusal 0 r = false ∧
       (∃ d, ((s.setHal 0 { s.hal 0 with reqs := [] }).readLine 0 384 (16 * 8) (2 ^ (16 * 8) - 1).testBit b).2 = .ok d) ∧
       ∃ e, ((o.upsets 0 3 [⟨0, 0, 1⟩]).readLine 0 384 (16 * 8) (2 ^ (16 * 8) - 1).testBit b).2 = .error e) ∧
    (let x := { streams with q := [(1, { desc 1 2 64 0 1 4 1 with pos := 4, puts := [List.replicate 64 1] })] }
     (x.desc 1).puts = [List.replicate 64 1] ∧ x.ticketUnits (x.desc 1) (x.desc 1).got 4 = false) := by
  refine ⟨by decide, ⟨by decide, by decide, by decide, ⟨_, rfl⟩, ⟨_, rfl⟩⟩, by decide⟩

/-! Matrix arrays -/

/-- A core with an INT8 block in use and a stream of 16 units. -/
def arrays : Core := { streams with blk := { (default : Blk) with held := true, shifted := true, typ := 2 } }

theorem witness_matrix : Issues (up arrays) 0 ∧ arrays.blockBusy = false ∧ arrays.blk.held = true ∧ user.blk.held = false ∧
    (∀ e ∈ [(1, 28), (0, 0)], let f := ins [(52, e.1), (47, e.2), (42, 1), (38, 5)]
      zeros f [(53, 3), (0, 37)] = true ∧ fld f 38 4 < 6 ∧ fld f 52 1 = e.1 ∧ fld f 47 5 = e.2) ∧
    ((arrays.desc 0).state = 1 ∧ (arrays.desc 0).dir = 0 ∧ (arrays.desc 0).pos + 16 ≤ (arrays.desc 0).bound) ∧
    arrayType 2 = some .int8 ∧ arrayType arrays.blk.typ = some .int8 ∧ typesMatch .int8 .int8 = true ∧
    (∀ e ∈ [(0, 1, 0), (16, 1, 28), (32, 0, 0)], let f := ins [(54, 3), (51, 7), (50, e.2.1), (45, e.2.2), (36, e.1), (27, 2), (25, 2)]
      zeros f [(0, 18)] = true ∧ fld f 51 3 / 2 = fld f 54 2 ∧ fld f 36 9 = e.1 ∧ fld f 25 2 < 3 ∧ fld f 23 1 = 0 ∧ fld f 18 5 = 0 ∧
        srcOk (fld f 50 1) (fld f 45 5) = true ∧ (arrays.queue 3).length < 8 ∧ (arrays.desc 0).pos + fld f 36 9 ≤ (arrays.desc 0).bound) ∧
    (let f := ins [(48, 31), (45, 7), (41, 15)]; zeros f [(53, 3), (0, 41)] = true ∧ arrays.tileHeld (fld f 45 3) = false) ∧
    (let f := ins [(45, 7)]; zeros f [(53, 3), (48, 5), (41, 4), (0, 41)] = true) :=
  ⟨⟨by decide, by decide, by decide, by decide⟩, by decide, by decide, by decide, by decide, by decide, by decide, by decide, by decide, by decide, by decide,
    by decide⟩

/-- A row of registers over a usable block, an MCLR at the head of a queue, and a block that waits for its stream bytes. -/
theorem witness_arrayEvents :
    (let op : ArrOp := ⟨false, 7, none, [], 16, 0, false, 2, 0, false, none, 0, 15⟩
     let x := { arrays with arr := [(2, [{ op with clear := true }]), (3, [op])] }
     x.queue 3 = [op] ∧ (x.queue 2).map (·.clear) = [true] ∧ op.clear = false ∧ op.src = none ∧ x.blk.shifted = true ∧ x.blk.invalid = false ∧
       arrayType op.xtype = some .int8 ∧ op.rows ≤ op.next + 1 ∧ (up x).phys 0 = some 0 ∧ (up x).dieRuns 0 = true) ∧
    (let x := { arrays with blk := { arrays.blk with shifted := false, src := some (0, 0) } }
     x.blk.held = true ∧ x.blk.shifted = false ∧ (up x).unitsWait 0 0 0 0 16 = false ∧
       ∃ t data, (up x).readUnits 0 0 0 0 16 = (t, .ok data)) ∧
    (let v := EType.int8.val 0
     checkRow (List.replicate 16 v) (fun _ _ => v) ((List.range 16).map (colSum (List.replicate 16 v) fun _ _ => v)) = none) := by
  refine ⟨by decide, ⟨by decide, by decide, by decide, ⟨_, _, rfl⟩⟩, by decide⟩

/-! Messages -/

/-- A core with a send port 0 with 2 credits, a send port 1 that is NACKED, a receive port 2 with one message of one unit, and a port
that waits for nothing. -/
def ports : Core :=
  { user with
    s := [(2, 64), (3, 4096), (4, BitVec.ofNat 64 (2 ^ 62 + 5 * 2 ^ 51)), (5, BitVec.ofNat 64 (2 * 2 ^ 62 + 64)),
      (6, BitVec.ofNat 64 (2 * 2 ^ 62 + 64 * 2 ^ 32 + (2 ^ 20 - 64)))]
    m := [(0, { (default : Port) with kind := 1, dst := 5, epoch := 9, maxlen := 32, credits := 2 }),
      (1, { (default : Port) with kind := 1, dst := 5, epoch := 9, nacked := true }),
      (2, { (default : Port) with kind := 2, base := 4096, size := 4096, ring := [⟨5, 0, 1, 0, false, 0, 1⟩] })] }

theorem witness_messages : Issues (up ports) 0 ∧
    (∀ e ∈ [(0, 0, 0), (7, 0, 4), (7, 0, 5), (0, 2, 3), (2, 0, 2), (2, 1, 0)], gOk (ins [(48, e.2.1), (43, e.2.2), (40, e.1)]) = true ∧
      gPort (ins [(48, e.2.1), (43, e.2.2), (40, e.1)]) = e.1) ∧
    ((ports.port 7).pending = 0 ∧ bits (ports.sreg 4) 62 2 = 1 ∧ bits (ports.sreg 4) 0 32 = 0 ∧ bits (ports.sreg 5) 62 2 = 2 ∧
      bits (ports.sreg 5) 0 20 = 64 ∧ bits (ports.sreg 5) 32 20 = 0 ∧ (up ports).ringOf 0 7 = none ∧ bits (ports.sreg 6) 0 20 > 524288) ∧
    ((ports.port 0).kind = 1 ∧ (ports.port 0).nacked = false ∧ (ports.port 0).epoch ≠ 0 ∧ 1 ≤ (ports.port 0).credits ∧ (ports.port 1).nacked = true) ∧
    ((ports.sreg 2).toNat = 64 ∧ (ports.sreg 3).toNat % 64 = 0 ∧ 64 ≤ (ports.port 0).maxlen * 64 ∧ (up ports).scratchUe 0 4096 64 = false) ∧
    ((ports.port 2).kind = 2 ∧ ((ports.port 2).head).isSome = true ∧ (ports.port 2).ring.map (·.units) = [1]) :=
  ⟨⟨by decide, by decide, by decide, by decide⟩, by decide⟩

/-- A message that is delivered and one to an unbacked core, a return, a grant to release, and credits to a port. -/
theorem witness_messageEvents :
    (let m : Msg := ⟨0, 0, 0, 0, 2, 0, 0, List.replicate 64 1⟩
     let l : List Msg := [m, { m with dst := 1279, epoch := 4 }]
     let s := { up ports with net := { (default : Net) with msgs := l } }
     s.net.msgs[0]? = some m ∧ (∀ i < 2, ∀ k, l[i]? = some k → oldestOfChannel l i k = true) ∧ s.backed 0 = true ∧ s.dieRuns 0 = true ∧
       s.routeUp 0 0 = true ∧ s.routeUp 0 4 = true ∧ m.epoch = (s.core 0).epoch ∧ m.ctx = (s.core 0).ctx ∧ ((s.core 0).port 2).kind = 2 ∧
       s.backed 1279 = false) ∧
    (let n : Nack := ⟨0, 0, 0, 5, 0, 9, 4, 1, []⟩
     (up ports).mayReturn Nack.ends [n] 0 n = true ∧ (up ports).mayReturn Nack.ends [n, n] 1 n = false ∧ n.core ≠ hubCore ∧ (ports.port 0).kind = 1 ∧ (ports.port 0).dst = n.dst ∧ (ports.port 0).dport = n.dport ∧ (ports.port 0).epoch = n.tag) ∧
    (let g : Grant := ⟨5, 0, 0, 2, 0, 32, 4, 4096, 64, false, 1⟩
     g.released = false ∧ ports.epoch = g.epoch ∧ (ports.port g.dport).base = g.base ∧ (ports.port g.dport).size = g.units * 64) ∧
    (let e : Cred := ⟨0, 0, 5, 0, 9, 1⟩; (up ports).mayReturn Cred.ends [e] 0 e = true ∧ (up ports).mayReturn Cred.ends [e, e] 1 e = false ∧ e.core ≠ hubCore ∧ (ports.port e.port).epoch = e.epoch ∧ (ports.port 1).dport = e.dport) := by decide

/-! Near-bank units -/

/-- An open slice and a core that issues an image of one END word from scratch. -/
def bank (u : NbUnit) (q : List NbPair) : State :=
  { up { user with s := [(2, 0), (3, 1)] } with
    hals := [(0, { (default : Hal) with region := BitVec.allOnes 128, owed := [(0, 4), (1, 3)] })]
    nbus := [(0, { (default : Nbu) with units := [(0, u)], queue := q })]
    own := [(0, { (default : Owner) with owned := true }), (128, { (default : Owner) with owned := true })]
    scratch := [(7, 0xFC)]
    map := [(0, 1), (1, 2)], cores := [(0, { user with fw := true, run := 6, pc := 2 ^ 28, s := [(2, 0), (3, 1)] })] }

/-- The word END, and a LOOP over it. -/
def endWord : Word := BitVec.ofNat 64 (0x3F * 2 ^ 58)

theorem witness_nearBankIssue : Issues (bank default []) 0 ∧
    (let f := ins [(48, 1), (43, 2), (38, 3)]
     zeros f [(53, 3), (0, 27)] = true ∧ bits ((bank default [] |>.seen 0).sreg (fRB f)) 24 40 = 0 ∧ fRC f % 2 = 0 ∧
       ((bank default [] |>.seen 0).sreg (fRA f)).toNat = 0 ∧ (bank default []).phys 0 = some 0 ∧
       (∀ b ∈ bankSet ((bank default [] |>.seen 0).sreg (fRB f)), ((bank default []).hal 0).isOpen b = true ∧
         (bank default []).refused (.ctx 0) 0 0 (b * 2 ^ 21) true = false) ∧
       (bank default []).scratchUe 0 0 8 = false ∧
       (List.range 16).find? (fun t => !(bank default [] |>.seen 0).ticketOpen t) = some 0) ∧
    (let f := ins [(43, 3)]; zeros f [(53, 3), (48, 5), (38, 5), (33, 5), (27, 6), (0, 27)] = true) ∧
    ({ user with tickets := [(15, { (default : Ticket) with state := 1 })] } : Core).ticketOpen 15 = true ∧
    (∀ t < 16, user.ticketOpen t = false) :=
  ⟨⟨by decide, by decide, by decide, by decide⟩, by decide⟩

/-- A unit at an END word, a waiting pair with a legal and with an illegal image, a unit that was asked to pause, and a paused one. -/
theorem witness_nearBank :
    (let u : NbUnit := { (default : NbUnit) with active := true, image := [endWord] }
     let s := bank u []
     (tget (s.nbu 0).units 0).active = true ∧ u.paused = false ∧ u.ip < u.image.length ∧ nbOp (u.image.getD u.ip 0) = 0x3F ∧
       (∃ u' wr last nans, stepWord s 0 0 u endWord = .done u' wr last nans)) ∧
    (let e : NbPair := ⟨0, 0, 1, 0, [endWord], 0, 0⟩
     let n := (bank default [e]).nbu 0
     n.admitted < n.limitNow ∧ n.queue.find? (fun e => !(tget n.units e.bank).active) = some e ∧ imageLegal e.image = true ∧
       imageLegal [0] = false) ∧
    (let n := (bank { (default : NbUnit) with active := true, pauseReq := true } []).nbu 0
     (tget n.units 0).active = true ∧ (tget n.units 0).pauseReq = true ∧ (tget n.units 0).paused = false) ∧
    ((bank { (default : NbUnit) with active := true, paused := true } []).pwr.emergency = false) := by
  refine ⟨⟨by decide, by decide, by decide, by decide, ⟨_, _, _, _, rfl⟩⟩, by decide, by decide, by decide⟩

/-- Recalibration: a halyard whose band has changed, one with a via that is due, and one with neither. -/
theorem witness_recal :
    (let band := fun (x : Hal) => x.bands.foldl (fun m e => max m e.2) 0
     let x : Hal := { (default : Hal) with bands := [(0, 1)] }
     band x ≠ x.bandSet ∧ band { x with bandSet := 1, via := { x.via with due := [3] } } = 1 ∧ band { x with bandSet := 1 } = 1 ∧ x.via.due = []) ∧
    (up user).dieRuns (287 / 288) = true := by decide

/-- A free bank, a bank that owes 4 refreshes and one that owes 3, the scrubber, the region map and test mode. -/
theorem witness_refresh :
    (let s := bank { (default : NbUnit) with active := true } []
     s.bankFree 0 0 = false ∧ 4 ≤ tget (s.hal 0).owed 0 ∧ tget (s.hal 0).owed 1 < 4 ∧ s.bankFree 0 1 = true) ∧
    (let s := bank default []
     let x : Hal := { s.hal 0 with scrub := { (default : HalScrub) with enabled := true, limit := some 21604 } }
     x.test.mode = 0 ∧ s.bankFree 0 (bankOf (x.scrub.line * 128)) = true ∧ eligible (s.bankFree 0) x.reqs [] = [] ∧
       x.scrub.limitNow < (s.die 0).count - x.scrub.lapStart) ∧
    ((up { (default : Core) with run := 0 }).core 0).run = 0 ∧ ((up user).core 0).run ≠ 0 ∧ ((up user).core 0).run ≠ 2 := by decide

end Sys2Proof.Tests
end

