-- ==== Sys2Proof/Tests/WitnessModule.lean ====
section
/-! SUPPORT. States and operands that meet the hypotheses of the statements about DMA, links, power, meter, trace and serving, and of
the frames and invariants. -/

namespace Sys2Proof.Tests

open Sys2Proof.Machine

/-- A host-owned HUB channel with one descriptor of opcode 2 at address 0 of the slice. -/
def dmaState : State :=
  { up user with
    mem := [(0, 2)]
    own := []
    dma := { (default : Dma) with ch := [(9, { (default : Chan) with enable := true, host := true, prod := 1 })] } }

theorem witness_dmaStart : dmaState.engineRuns 9 = true ∧ (dmaState.chan 9).run = none ∧ dmaState.chanReady 9 = true ∧ dmaState.sleeping = false ∧
    dmaState.readsFull 1 = false ∧ (dmaState.takeSlot 9).isSome = true ∧ dmaState.peekOp 9 .ur = some 2 ∧ dmaState.cutRange 9 (0, 64) = false ∧ (dmaState.takeSlot 8).isSome = false := by decide

/-- A descriptor that waited and need wait no longer, for each operation that may wait. -/
theorem witness_dmaParked : ∀ op ∈ [1, 2, 3, 4, 5, 6, 7, 0x10, 0x11, 0x18, 0x19, 0x1A, 0x1B],
    let r : DRun := { (default : DRun) with parked := true, desc := [BitVec.ofNat 8 op] }
    let s := { dmaState with dma := { dmaState.dma with ch := [(255, { (default : Chan) with run := some r })] } }
    (s.chan 255).run = some r ∧ r.parkedNow = true ∧ r.stop = false ∧ s.readsFull 1 = false ∧ s.mustPark (descOf r.desc) = false ∧ (descOf r.desc).op = op := by decide

/-- Descriptors that fail at each check and one that passes: `op`, `flags`, `len`, `source`, `destination`, bounds. -/
def plain (op len src dst lim : Nat) : Desc := descOf ((([op, 0, 0, 0].map (BitVec.ofNat 8)) ++ leBytes 4 len) ++ leBytes 8 src ++ leBytes 8 dst ++
  leBytes 4 lim ++ leBytes 4 lim ++ leBytes 32 0)

theorem witness_plainChecks :
    (let x := dmaState.chan 9
     (plain 0x3F 64 0 64 64).opOk true x = false ∧ (plain 1 64 0 64 64).opOk true x = true ∧
       (plain 1 64 0 64 64).paramOk false false true = true ∧ (plain 1 0 0 64 64).len = 0 ∧ (plain 1 64 0 64 63).boundOk = false ∧
       (plain 1 64 0 64 64).boundOk = true ∧ dmaState.reachAll (x.who 9) (plain 1 64 0 64 64).reads (plain 1 64 0 64 64).dests = none ∧
       (dmaState.reachAll (x.who 9) (plain 1 64 0 (2 ^ 28) 64).reads (plain 1 64 0 (2 ^ 28) 64).dests).isSome = true ∧
       ((up user).reachAll (x.who 9) (plain 1 64 0 64 64).reads (plain 1 64 0 64 64).dests).isSome = true) := by decide

/-- A body of one 4-KiB unit, and a picture of 2 pixels, 3 bands, 2 bytes. -/
theorem witness_transforms : (∃ body pd : Bytes, body.length = pdSize pd * 4096) ∧
    (let x : Bytes := (List.range 12).map (BitVec.ofNat 8); x.length = 2 * 3 * 2 ∧ planarToBand (bandToPlanar x 3 2) 3 2 = x) :=
  ⟨⟨List.replicate (pdSize [] * 4096) 0, [], by simp⟩, by decide⟩

/-- Running descriptors: a read outstanding, all in, moved, stated, pre-empted; and the two modes of the check-value unit. -/
theorem witness_dmaControl :
    (let r : DRun := { (default : DRun) with desc := [BitVec.ofNat 8 3] }
     let s := { dmaState with dma := { dmaState.dma with ch := [(9, { (default : Chan) with run := some r })] } }
     (s.chan 9).run = some r ∧ s.engineRuns 9 = true ∧ r.preempted = false ∧ r.parked = false ∧ r.reads = 0 ∧ r.tags = [] ∧ r.moved = false ∧ r.stop = false ∧ r.unread = false ∧ { r with desc := [] }.unread = true ∧ s.writeCut 9 r = false ∧
       s.readsFull 2 = false ∧ s.takes true = true ∧ s.blockAnswers (0x200000 + 0x40 * 9 + 0x10) = true ∧
       s.blockAnswers (0x280100 + 8) = true ∧
       { r with reads := 1 }.reads ≠ 0 ∧ (descOf r.desc).op < 0x10 ∧ (((s.dmaMove 9 (s.chan 9) r).chan 9).run).isSome = true) ∧
    (let r : DRun := { (default : DRun) with preempted := true, order := 4 }
     let s := { dmaState with dma := { dmaState.dma with ch := [(9, { (default : Chan) with run := some r })] } }
     s.firstPreempted = some (9, 4) ∧ s.slotsUsed 9 < engineSlots 9 ∧ s.hubRuns = true) ∧
    (dmaState.chan 575).run = none ∧ dmaState.dma.mode0 = false ∧ dmaState.engineRuns 256 = true := by decide

/-- Mailbox and window commands: words of each command at the ends of their range, slots that fail each check of COMMIT, staged windows. -/
def linked : State :=
  { up user with
    boot := { (up user).boot with slot := 1 }
    flash := { (default : Flash) with slots := [(0, { (default : SlotInfo) with present := true }),
      (1, { (default : SlotInfo) with present := true, signature := true, image := true, markerValid := true, svn := Config.svnFloor })] }
    lnk := { (default : Link) with ports := [(0, { (default : LPort) with state := 2, peer := 1 })],
                                    rem := [⟨3, 0, .core 0, false, 0, 8⟩] } }

theorem witness_mailbox :
    (linked.hubRuns = true ∧ linked.linksRun = true ∧ linked.mbox.cmd = none ∧ linked.lnk.cmd = none ∧
      ({ linked with mbox := { linked.mbox with cmd := some 1 } }.mbox.cmd = some 1)) ∧
    (∀ e ∈ [(1, 511), (1, 512), (2, 0), (2, 6143), (2, 6144), (2, 1), (3, 0), (4, 0)], bits (BitVec.ofNat 64 (e.1 * 2 ^ 60 + e.2)) 60 4 = e.1 ∧
      bits (BitVec.ofNat 64 (e.1 * 2 ^ 60 + e.2)) 0 13 = e.2) ∧
    ((linked.slot 1).signature = true ∧ (linked.slot 1).image = true ∧ (linked.slot 0).signature = false ∧ linked.inactiveSlot = 1) ∧
    (∀ op ∈ [1, 2], let w : Word := BitVec.ofNat 64 (op * 2 ^ 62 + 1 * 2 ^ 8 + 15)
      bits w 62 2 = op ∧ bits w 8 8 = 1 ∧ bits w 0 4 = 15 ∧ bits w 24 38 = 0 ∧ bits w 4 4 = 0) ∧
    (linked.portsTo 1 = [0] ∧ linked.portsTo 2 = [] ∧ (linked.windowErr linked.lnk.stage0 linked.lnk.stage1).isSome = true) := by decide

/-- A slot whose SVN is the floor itself, so that the ROM accepts it. -/
theorem witness_slot : linked.svnFloor ≤ (linked.slot 1).svn ∧ linked.romAccepts 1 = true := by
  have h : linked.svnFloor = (linked.slot 1).svn := Nat.max_zero _
  refine ⟨Nat.le_of_eq h, ?_⟩
  simp only [State.romAccepts, h, Nat.le_refl, decide_true, Bool.and_true]
  rfl

/-- A staged window that passes its checks. -/
theorem witness_window : ∃ a b : Word, linked.windowErr a b = none :=
  ⟨0, BitVec.ofNat 64 (2 ^ 28), by decide⟩

/-- Frames: the expected one, one below, one above, one with a bad tag; a request without an answer; a port on both sides of the
key-update bounds. -/
theorem witness_frames :
    (∀ typ ∈ [1, 2, 3, 4, 5, 6, 7], (linked.lport 0).carries (vcOf typ) = true) ∧
    (let x := { linked.lport 0 with rx := 4 }
     let f : Frame := { (default : Frame) with ctr := 5 }
     f.ctr = x.expects f ∧ { f with ctr := 4 }.ctr < x.expects f ∧ x.expects f < { f with ctr := 6 }.ctr ∧
       { x with rxNew := true }.expects { f with phase := true, ctr := 1 } = 1 ∧ linked.forMe f = true ∧ linked.forMe { f with dst := 9 } = false) ∧
    (linked.lnk.rem[0]?).isSome = true ∧ (linked.lport 0).state = 2 ∧ (linked.lport 7).state = 0 ∧ linked.sleeping = false := by decide

/-- A frame with its tag, and one with another tag. -/
theorem witness_tags (x : LPort) (typ : Nat) (f : Frame) : x.tagOk typ { f with sealed := frameSeal (x.keyOf f.phase) typ f } = true ∧
    x.tagOk typ { f with sealed := frameSeal (x.keyOf f.phase) typ f ++ [0] } = false := by
  constructor
  · exact decide_eq_true rfl
  · exact decide_eq_false fun h => absurd (congrArg List.length h) (by rw [List.length_append]; exact Nat.ne_of_gt (Nat.lt_succ_self _))

/-- A request that no window admits, and one that a window into an unowned bank admits. -/
theorem witness_windowTarget :
    (∃ e, linked.windowTarget 0 { (default : Frame) with len := 8 } true = .error e) ∧ linked.targetRuns 64 = true :=
  ⟨⟨_, rfl⟩, by decide⟩

/-- Pairs with two modules and with one, a lane beyond its retries, a die that is locked and one that is not. -/
theorem witness_pairs :
    (let s := { up user with pairs := [(0, { (default : Pair) with state := 1, modules := 3, base := 128, narrow := 1 }), (7, { (default : Pair) with state := 1, modules := 1, base := 64 })] }
     s.pairUp 0 = true ∧ s.pairUp 7 = true ∧ (s.pairOf 0).modules.testBit 1 = true ∧ (s.pairOf 0).modules ≠ 2 ^ 1 ∧ (s.pairOf 7).modules = 2 ^ 0 ∧
       tget (s.pairOf 0).round 127 + 64 ≤ 64 ∧ 64 < tget (s.pairOf 0).round 127 + 65) ∧
    ((up user).heatRuns = true ∧ (up user).boot.bring = none ∧ (up user).halfMast = false ∧ ((up user).die 0).locked = true ∧ ((up user).die 4).locked = false ∧
      ({ up user with dies := [(4, { (default : Die) with up := true })] }.die 4).up = true) := by decide

/-- Heat: a die that is up, HUB out of half-mast, an ordered clock, the bounds of the trip, of the flow edge and of the tach factor. -/
theorem witness_heat :
    ((up user).heatRuns = true ∧ ((up user).die 0).up = true ∧ (up user).pwr.emergency = false ∧ (up user).pwr.clamp = false ∧
      (up user).boot.state ≠ 4 ∧ (up user).pwr.rounds < 50 ∧
      (let a := (((up user).readWater default).readInput default).readAll ((List.range 4).map fun i => (3000 + i, (none : Option Nat)))
       a.halfMast = false ∧ a.pwr.shutdown = false) ∧ (((up user).endViaRound 0).upsetScratch 0 []).routeUp 0 5 = true ∧
      (({ up user with pairs := [(5, { (default : Pair) with state := 2 })] }.endViaRound 0).upsetScratch 0 []).routeUp 0 5 = false) ∧
    (let s := { up user with clus := [(0, { (default : Clu) with mhz := 500, target := 550 })], pwr := { (up user).pwr with rounds := 50, emergency := true, cool := 50 } }
     (s.die (0 / 4)).locked = true ∧ (s.clu 0).mhz ≠ (s.clu 0).target ∧ (s.clu 19).mhz = (s.clu 19).target ∧ 50 ≤ s.pwr.rounds ∧ s.pwr.emergency = true ∧
       50 ≤ s.pwr.cool) := by decide

/-- Power states: the input there and gone, PERST_N asserted, a bring-up that waits for a block, half-mast on its way and entered. -/
theorem witness_power :
    (State.reset.struck = false ∧ State.reset.perstOut = false ∧ { State.reset with struck := true }.struck = true ∧
      ({ State.reset with flash := { linked.flash with slots := [(0, linked.slot 0), (1, linked.slot 0)] } }).chooseSlot = none) ∧
    (let s := { up user with boot := { (up user).boot with bring := some (default, default), lacks := [(0, 1, 0)] } }
     s.boot.bring = some (default, default) ∧ s.hubRuns = true) ∧
    (let s := { up user with pwr := { (up user).pwr with state := 3 } }
     s.heatRuns = true ∧ s.pwr.state = 3 ∧ s.restful = true ∧ s.inHalfMast = true ∧ s.host.d3hot = false ∧ (up user).inHalfMast = false ∧
       (up user).jobActive = false ∧ (up user).pwr.state ≠ 3) := by decide

/-- The meter board with and without supply, with none fitted, a record that it holds, a DEMAND that waits. -/
theorem witness_meter :
    ((up user).meter.off = false ∧ (up user).meterMute = false ∧ (up user).mtrPres = true ∧ { up user with mtrPres := false }.meterMute = true ∧ { (up user).meter with off := true }.off = true ∧ (up user).manages = true ∧ (up user).mtr.demand = none ∧
      (up user).mtr.lost = false ∧ (up user).meter.record 0 = none ∧
      ({ (up user).meter with records := [(1, [1])], log := [[2]] }.record 1).isSome = true ∧
      { (up user).mtr with demand := some [1] }.demand = some [1]) ∧
    (let s : State := { up user with struck := true, mtrPres := false, meter := { (up user).meter with id := 4 } }
     s.struck = true ∧ s.mtrPres = false ∧ ({ (default : Board) with id := 4 }).id = s.meter.id ∧ (default : Board).id ≠ s.meter.id) ∧
    ((up user).dieRuns 0 = true ∧ (up user).bothWays 5 0 = true) := by decide

/-- A job whose guidon runs on core 0, with one request of each kind and the events of its port 7; its one KV unit holds a pennant
that is swapped out. -/
def request (kind : Nat) : SReq := { (default : SReq) with entry := [BitVec.ofNat 8 kind] ++ List.replicate 63 0, ready := true }
def served (event : Nat) : State :=
  { up { user with job := 5, m := [(7, { (default : Port) with kind := 2, ring := [⟨hubCore, 0, 1, 0, false, 0, 0⟩] })] } with
    scratch := [(0, BitVec.ofNat 8 event)]
    mem := [(4096 + 0x13, 3)]
    jobs := [(5, { (default : Job) with state := 1, rc := { (default : PlaceRec) with cores := [{ (default : CoreEntry) with lcore := 0 }] } })]
    serve := [(5, { (default : Serve) with
      reqs := [request 1, request 2, request 3, request 4, { request 1 with ready := false, log := [[1]] }], copies := [0, 256]
      replies := [⟨0, [2], none⟩] })]
    que := { (default : Que) with q := [(0, { (default : QEntry) with kind := 2, log2 := 4 })] } }

theorem witness_serving :
    (∀ k ∈ [1, 2, 3], ((served k).guidonRuns 5).isSome = true ∧ ((served k).takeEvent 5 k).isSome = true) ∧ ((served 2).takeEvent 5 1).isNone = true ∧
    (((served 1).serving 5).stale = false ∧ ((served 1).serving 5).copies ≠ [] ∧ ((up user).serving 5).copies = []) ∧
    (∀ e ∈ [(0, 1), (1, 2), (2, 3), (3, 4), (0, 0)], ((served 1).openOf 5 e.1 e.2).isSome = true) ∧
    ((request 1).cancel = false ∧ (request 1).hist < 2 ^ 20 ∧ 2 ^ 20 ≤ { request 1 with input := leBytes 4 (2 ^ 20) }.hist) ∧
    ((served 1).openOf 5 4 1 = some { request 1 with ready := false, log := [[1]] }) := by decide

/-- A chunk of a prefill where the pool has room and where it has none. -/
theorem witness_prefill :
    (((served 1).tidyPennants 5).prefillChunk 5 4 { request 1 with ready := false } default).isSome = true ∧
    (let x : SReq := { request 1 with ready := false, input := leBytes 4 1 }
     let u : State := { served 1 with serve := [(5, { (served 1).serving 5 with units := [default] })] }
     (u.tidyPennants 5).prefillChunk 5 4 x default = none ∧ ((u.tidyPennants 5).serving 5).evictable = none) := by decide

/-- A step that waits for a pennant that is swapped out, and one that waits for none. -/
theorem witness_verificationStep :
    (let d : SpecStep := { (default : SpecStep) with logits := [[0]] }
     let x : SReq := { request 1 with lists := [[4096]] }
     let u : State := { served 1 with serve := [(5, { (served 1).serving 5 with units := [default] })] }
     u.stepReady x d = true ∧ u.stagesRun 5 = true ∧ u.unitsStopped 5 = false ∧ (u.tidyPennants 5).awaited 5 x.lists x.done (x.hist - x.done + x.draftsOf d) ≠ [] ∧
       (u.tidyPennants 5).awaited 5 [[]] x.done (x.hist - x.done + x.draftsOf d) = [] ∧
       ((u.tidyPennants 5).tentSeq 5 0 [[]] x.done (x.hist - x.done + x.draftsOf d) d.kv d.queries).isSome = true) := by decide

/-- An entry to post, a completion of an earlier generation, and one without a SERIAL. -/
theorem witness_posts :
    (let x : SReq := { request 1 with log := [[1]] }
     x.due = some (0, false, [1]) ∧ x.wait = none ∧ (x.ended || x.ready) = true ∧ (served 1).postable 0 = true) ∧
    (let x : SReq := { request 3 with log := [[1]], ended := true, gen := 1 }
     x.due = some (0, true, [1]) ∧ x.gen ≠ ((served 1).ctx ((served 1).job 5).rc.ctx).payGen) ∧
    ((served 1).serving 5).replies[0]? = some ⟨0, [2], none⟩ := by decide

/-- A queue with one command in front of another, and a state in which the invariants hold. -/
theorem witness_step : step { up user with pending := [.nop 0 0, .nop 0 1] } = exec (.nop 0 0) { up user with pending := [.nop 0 1] } ∧
    (up user).memOk = true ∧ (up user).queueOk ∧ (Instr.nop 1279 0).wellFormed = true ∧ (Instr.nop 1280 0).wellFormed = false :=
  ⟨rfl, by decide, fun _ h => absurd h (List.not_mem_nil), by decide, by decide⟩

/-- The frames of register instructions: an instruction that retires, and one that raises an exception. -/
theorem witness_frame : Issues (up user) 0 ∧ (∃ t, exec (.alu 0 (ins [(48, 1), (43, 2), (38, 3)])) (up user) = .next t ∧ (t.core 0).run ≠ 5) ∧
    (∃ t, exec (.alu 0 (ins [(28, 31)])) (up user) = .next t ∧ (t.core 0).run = 5) :=
  ⟨user_issues, ⟨_, rfl, by decide⟩, ⟨_, rfl, by decide⟩⟩

end Sys2Proof.Tests
end

/-! The requests of the host that are no doorbells (R18, R20, R26, R259, R366, R368): one lemma per answer, and O41 from them. -/

namespace Sys2Proof.Machine

section HostRequests

variable {s : State}

/-! Configuration requests (R366, R367) -/

/-- R365, R444: which functions answer. -/
theorem State.cfgFn_iff (s : State) (fn : Nat) :
    s.cfgFn fn = true ↔ fn = 0 ∨ (s.linkEnabled = true ∧ (fn = 1 ∨ (fn = 2 ∧ s.host.bifur = true))) := by
  simp [State.cfgFn]

theorem execConfigRequest_read (hub : s.hubRuns = true) {fn off : Nat} (hfn : s.cfgFn fn = true) (hoff : off < 4096) (v : Nat) :
    execConfigRequest fn false off v s = .next (s.send (.cfgCpl (s.cfgWord fn (off / 4 * 4)))) := by
  simp [execConfigRequest, hub, hfn, Nat.not_le.mpr hoff]

theorem execConfigRequest_write (hub : s.hubRuns = true) {fn off : Nat} (hfn : s.cfgFn fn = true) (hoff : off < 4096) (v : Nat) :
    execConfigRequest fn true off v s = .next ((s.cfgWrite fn (off / 4 * 4) v).send (.cfgCpl 0)) := by
  simp [execConfigRequest, hub, hfn, Nat.not_le.mpr hoff]

theorem execConfigRequest_unsupported (hub : s.hubRuns = true) {fn off : Nat} (h : s.cfgFn fn = false ∨ 4096 ≤ off) (wr : Bool) (v : Nat) :
    execConfigRequest fn wr off v s = .next (s.send .hostUr) := by
  simp [execConfigRequest, hub, h]

/-- R367: device and vendor of functions 0 and 1, and of function 1 on link B. -/
theorem State.cfgWord_identity (s : State) :
    s.cfgWord 0 0 = 0x0520 * 2 ^ 16 + Config.vendorId.toNat ∧ s.cfgWord 1 0 = 0x0521 * 2 ^ 16 + Config.vendorId.toNat ∧
      s.cfgWord 2 0 = 0x0521 * 2 ^ 16 + Config.vendorId.toNat :=
  ⟨rfl, rfl, rfl⟩

/-! Accesses of BAR2 (R26, R209, R410, R411) -/

theorem execBar2Read_unsupported (hub : s.hubRuns = true) {off len : Nat} {secure : Bool}
    (h : s.takes secure = false ∨ len = 0 ∨ 4096 < len ∨ s.bar2At off len = none) :
    execBar2Read off len secure s = .next (s.send .hostUr) := by
  by_cases early : s.takes secure = false ∨ len = 0 ∨ 4096 < len
  · simp [execBar2Read, hub, early]
  · have unbacked : s.bar2At off len = none := by tauto
    simp [execBar2Read, hub, early, unbacked]

section Read
variable {off len c p o : Nat} {secure : Bool}
  (hub : s.hubRuns = true) (takes : s.takes secure = true) (pos : 0 < len) (fits : len ≤ 4096) (place : s.bar2At off len = some (c, p, o))
include hub takes pos fits place

theorem execBar2Read_refused (h : s.hostRefused c p o len false = true) :
    execBar2Read off len secure s = .next ((s.denyHost c o len false).send .hostUr) := by
  simp [execBar2Read, hub, takes, Nat.ne_of_gt pos, Nat.not_lt.mpr fits, place, h]

theorem execBar2Read_data (h : s.hostRefused c p o len false = false) {t : State} {d : Bytes} (hr : s.readSlice p o len byHub = (t, .ok d)) :
    execBar2Read off len secure s = .next (t.send (.hostCpl d)) := by
  simp [execBar2Read, hub, takes, Nat.ne_of_gt pos, Nat.not_lt.mpr fits, place, h, hr]

theorem execBar2Read_poison (h : s.hostRefused c p o len false = false) {t : State} {e : Nat × Nat}
    (hr : s.readSlice p o len byHub = (t, .error e)) :
    execBar2Read off len secure s = .next (t.send (.hostPoison len)) := by
  simp [execBar2Read, hub, takes, Nat.ne_of_gt pos, Nat.not_lt.mpr fits, place, h, hr]

end Read

theorem execBar2Write_unsupported (hub : s.hubRuns = true) {off : Nat} {d : Bytes} {secure : Bool} (nonempty : d ≠ [])
    (h : s.takes secure = false ∨ 512 < d.length ∨ s.bar2At off d.length = none) :
    execBar2Write off d secure s = .next (s.send .hostUrPosted) := by
  by_cases early : s.takes secure = false ∨ 512 < d.length
  · simp [execBar2Write, hub, nonempty, early]
  · have unbacked : s.bar2At off d.length = none := by tauto
    simp [execBar2Write, hub, nonempty, early, unbacked]

section Write
variable {off c p o : Nat} {d : Bytes} {secure : Bool}
  (hub : s.hubRuns = true) (takes : s.takes secure = true) (nonempty : d ≠ []) (fits : d.length ≤ 512)
  (place : s.bar2At off d.length = some (c, p, o))
include hub takes nonempty fits place

theorem execBar2Write_refused (h : s.hostRefused c p o d.length true = true) :
    execBar2Write off d secure s = .next ((s.denyHost c o d.length true).send .hostUrPosted) := by
  simp [execBar2Write, hub, takes, nonempty, Nat.not_lt.mpr fits, place, h]

theorem execBar2Write_performed (h : s.hostRefused c p o d.length true = false) :
    execBar2Write off d secure s = .next (s.writeNow p o d (fun _ => true) false byHub) := by
  simp [execBar2Write, hub, takes, nonempty, Nat.not_lt.mpr fits, place, h]

end Write

/-! Registers of the host (R18, R20, R378) -/

/-- R20: an aligned read of 4 or 8 bytes is served. -/
theorem State.admitRead_aligned {off : Nat} {a : HostAcc} (width : a.width = 4 ∨ a.width = 8) (aligned : off % a.width = 0)
    (serve : State → State × Option Bytes) : s.admitRead off a serve = serve s := by
  simp only [State.admitRead, aligned]
  exact if_neg (by omega)

section RegisterRead
variable {off : Nat} {a : HostAcc} (width : a.width = 4 ∨ a.width = 8) (aligned : off % a.width = 0) (takes : s.takes a.secure = true)
include width aligned takes

theorem State.bar0Read_register (answers : s.blockAnswers off = true) :
    s.bar0Read off a = ((s.loadReg off a.width false).1, some (leBytes a.width (s.loadReg off a.width false).2.toNat)) := by
  simp [State.bar0Read, takes, State.admitRead_aligned width aligned, answers, regBytes]

theorem State.bar0Read_silent (silent : s.blockAnswers off = false) : s.bar0Read off a = (s, some (List.replicate a.width 0)) := by
  simp [State.bar0Read, takes, State.admitRead_aligned width aligned, silent]

end RegisterRead

theorem State.bar4Read_taken {a : HostAcc} (takes : s.takes a.secure = true) (off : Nat) :
    s.bar4Read off a = some (List.replicate a.width 0) := by
  simp [State.bar4Read, takes]

theorem State.hostStore_untaken {off : Nat} {a : HostAcc} (untaken : s.takes a.secure = false) (v : Nat) :
    s.hostStore off a v = s.send .hostUrPosted := by
  simp [State.hostStore, untaken]

theorem State.hostStore_aligned {off : Nat} {a : HostAcc} (takes : s.takes a.secure = true) (width : a.width = 4 ∨ a.width = 8)
    (aligned : off % a.width = 0) (v : Nat) :
    s.hostStore off a v = if s.blockAnswers off then s.storeReg off a.width v false else s := by
  have admitted : ¬((a.width ≠ 4 ∧ a.width ≠ 8) ∨ off % a.width ≠ 0) := by omega
  cases h : s.blockAnswers off <;> simp [State.hostStore, takes, if_neg admitted, h]

theorem State.hostStore_misaligned {off : Nat} {a : HostAcc} (takes : s.takes a.secure = true)
    (misaligned : (a.width ≠ 4 ∧ a.width ≠ 8) ∨ off % a.width ≠ 0) (v : Nat) :
    s.hostStore off a v = (s.accessFault 0 0 off).send .hostUrPosted := by
  simp [State.hostStore, takes, if_pos misaligned]

/-- R376: what a register write leaves behind the store itself, a pending message where the MSI-X table was written. -/
theorem execRegisterWrite_below (hub : s.hubRuns = true) {off : Nat} (below : off < 0x3800000) {a : HostAcc} {v : Nat} {t : State}
    (stored : s.hostStore off a v = t) :
    execRegisterWrite off a v s =
      .next (if 0xF0000 ≤ off ∧ off < 0xF8000 then t.sendPending ((off - 0xF0000) / 16) else t) := by
  simp [execRegisterWrite, hub, Nat.not_le.mpr below, stored]

/-! Requests that nothing serves (R259, R368) -/

theorem execFunction1Write_unsupported (hub : s.hubRuns = true) (off v : Nat) :
    execFunction1Write off v s = .next (s.send .hostUrPosted) := by
  simp [execFunction1Write, hub]

theorem execAtomicopRequest_unsupported (hub : s.hubRuns = true) (bar off : Nat) :
    execAtomicopRequest bar off s = .next (s.send .hostUr) := by
  simp [execAtomicopRequest, hub]

end HostRequests

/-- Settles O41: each clause is the lemma of its answer. -/
theorem hostRequests : Obligations.hostRequests := by
  intro s hub
  refine ⟨?configuration, ?noFunction, s.cfgFn_iff, s.cfgWord_identity, ?bar2Read, ?bar2ReadUnsupported, ?bar2Write, ?bar2WriteUnsupported,
    ?registerRead, ?registerWrite, ?unserved⟩
  case configuration =>
    intro fn off v hfn hoff
    exact ⟨execConfigRequest_read hub hfn hoff v, execConfigRequest_write hub hfn hoff v⟩
  case noFunction =>
    intro fn wr off v h
    exact execConfigRequest_unsupported hub h wr v
  case bar2Read =>
    intro off len secure c p o takes pos fits place
    exact ⟨execBar2Read_refused hub takes pos fits place, fun granted =>
      ⟨fun _ _ => execBar2Read_data hub takes pos fits place granted, fun _ _ => execBar2Read_poison hub takes pos fits place granted⟩⟩
  case bar2ReadUnsupported =>
    intro off len secure h
    exact execBar2Read_unsupported hub h
  case bar2Write =>
    intro off d secure c p o takes nonempty fits place
    exact ⟨execBar2Write_refused hub takes nonempty fits place, execBar2Write_performed hub takes nonempty fits place⟩
  case bar2WriteUnsupported =>
    intro off d secure nonempty h
    exact execBar2Write_unsupported hub nonempty h
  case registerRead =>
    intro off a width aligned takes
    exact ⟨State.bar4Read_taken takes off, State.bar0Read_register width aligned takes, State.bar0Read_silent width aligned takes⟩
  case registerWrite =>
    intro off a v below
    exact ⟨fun untaken => execRegisterWrite_below hub below (State.hostStore_untaken untaken v),
      fun takes width aligned => execRegisterWrite_below hub below (State.hostStore_aligned takes width aligned v),
      fun takes misaligned => execRegisterWrite_below hub below (State.hostStore_misaligned takes misaligned v)⟩
  case unserved =>
    intro a b
    exact ⟨execFunction1Write_unsupported hub a b, execAtomicopRequest_unsupported hub a b⟩

end Sys2Proof.Machine

/-! Effects of accepted frames and the events of a port (R281, R282, R386 to R398): one lemma per event, and O50 from them. -/

namespace Sys2Proof.Machine

@[simp] theorem State.lport_setLport_self (s : State) (p : Nat) (x : LPort) : (s.setLport p x).lport p = x := by
  simp [State.lport, State.setLport]

@[simp] theorem State.lport_send (s : State) (p : Nat) (m : Tx) : (s.send m).lport p = s.lport p := rfl

@[simp] theorem State.forMe_setLport (s : State) (p : Nat) (x : LPort) (f : Frame) : (s.setLport p x).forMe f = s.forMe f := rfl

/-! Accepted frames (R391, R396) -/

/-- R391: an accepted frame for this module has the effect of its body, and held frames follow. -/
theorem receive_performs {s : State} {p typ : Nat} {f : Frame} (ctr : f.ctr = (s.lport p).expects f) (mine : s.forMe f = true)
    (h : Hears s p typ ∧ (s.lport p).tagOk typ f = true) (body : State → State) :
    receive p typ f s body = .next ((body (s.setLport p ((s.lport p).accept typ { f with vc := vcOf typ }))).drainPort p) := by
  rw [receive_accepts h.1 ctr h.2]
  simp [mine]

section Accepted

variable {s : State} {p : Nat} {fr : Frame} (ctr : fr.ctr = (s.lport p).expects fr) (mine : s.forMe fr = true)
include ctr mine

section Write
variable (comes : Hears s p 1 ∧ (s.lport p).tagOk 1 fr = true) {got : State} (hgot : s.setLport p ((s.lport p).accept 1 { fr with vc := vcOf 1 }) = got)
include comes hgot

theorem execFrameWrite_refused {e : Nat} (he : got.windowTarget p fr true = .error e) :
    execFrameWrite p fr s = .next ((got.sendFrame p 4 (answerFrame fr e [])).drainPort p) := by
  rw [execFrameWrite, receive_performs ctr mine comes, hgot, he]

theorem execFrameWrite_performed {da ctx : Nat} (ht : got.windowTarget p fr true = .ok (da, ctx)) (runs : got.targetRuns da = true) :
    execFrameWrite p fr s = .next (((got.remoteWrite ctx da (fr.data.take fr.len)).1.sendFrame p 4
      (answerFrame fr (got.remoteWrite ctx da (fr.data.take fr.len)).2 [])).drainPort p) := by
  rw [execFrameWrite, receive_performs ctr mine comes, hgot, ht]
  simp [runs]

end Write

section Read
variable (comes : Hears s p 2 ∧ (s.lport p).tagOk 2 fr = true) {got : State} (hgot : s.setLport p ((s.lport p).accept 2 { fr with vc := vcOf 2 }) = got)
include comes hgot

theorem execFrameRead_refused {e : Nat} (he : got.windowTarget p fr false = .error e) :
    execFrameRead p fr s = .next ((got.sendFrame p 3 (answerFrame fr e [])).drainPort p) := by
  rw [execFrameRead, receive_performs ctr mine comes, hgot, he]

theorem execFrameRead_performed {da ctx : Nat} (ht : got.windowTarget p fr false = .ok (da, ctx)) (runs : got.targetRuns da = true) :
    execFrameRead p fr s = .next (((got.remoteRead ctx da fr.len).1.sendFrame p 3
      (answerFrame fr (got.remoteRead ctx da fr.len).2.2 (got.remoteRead ctx da fr.len).2.1)).drainPort p) := by
  rw [execFrameRead, receive_performs ctr mine comes, hgot, ht]
  simp [runs]

end Read

end Accepted

/-! Time-outs and training (R386, R393, R398) -/

theorem execRemoteTimeout_outstanding {s : State} {i : Nat} {q : RemReq} (hq : s.lnk.rem[i]? = some q) (hub : s.hubRuns = true) :
    execRemoteTimeout i s = .next ((s.dropHeld q).answerRemote q causeRange []) := by
  simp [execRemoteTimeout, hq, hub]

theorem LPort.hears_iff (x : LPort) : x.hears = true ↔ x.state = 1 ∨ x.state = 2 ∨ x.state = 4 := by
  simp [LPort.hears, or_assoc]

section Ports

variable {s : State} {p : Nat} (port : p < 8) (links : s.linksRun = true)
include port links

theorem execPortSignalLoss_hears (h : (s.lport p).hears = true) : execPortSignalLoss p s = .next (s.portDown p) := by
  simp [execPortSignalLoss, unit, port, links, h]

theorem execPortSignalLoss_deaf (h : (s.lport p).hears = false) : execPortSignalLoss p s = .next s := by
  simp [execPortSignalLoss, unit, port, links, h]

theorem execPortRetry_trains (awake : s.sleeping = false) (booted : s.boot.bring = none)
    (state : (s.lport p).state = 0 ∨ (s.lport p).state = 1 ∨ (s.lport p).state = 3) (r : PortFind) :
    execPortRetry p r s = .next (s.trainPort p r true) := by
  simp [execPortRetry, unit, port, links, awake, booted, state]

end Ports

/-- R393: a port on its way out of half-mast comes up at the width found, with its keys and counters. -/
theorem State.trainPort_wakes (s : State) (p : Nat) (r : PortFind) (width : 0 < linkWidth (goodLanes r) r.peerLanes)
    (waking : (s.lport p).state = 1) :
    s.trainPort p r true = (s.setLport p { s.lport p with
      retrain := wrap 16 ((s.lport p).retrain + 1), state := 2, width := linkWidth (goodLanes r) r.peerLanes
      narrow := decide (linkWidth (goodLanes r) r.peerLanes < 8) }).drainPort p := by
  simp [State.trainPort, waking, Nat.ne_of_gt width]

/-! Key updates (R392) -/

theorem startsUpdate_keyFrame : startsUpdate 6 keyFrame = true := by decide

/-- A frame that may be sent is sent at once where no frame is held. -/
theorem State.sendFrame_transmits {s : State} {p typ : Nat} {f : Frame} (held : (s.lport p).held = []) (can : (s.lport p).canSend typ f = true) :
    s.sendFrame p typ f = s.transmit p typ f := by
  simp [State.sendFrame, held, can]

/-- Behind the frame that starts a key update the phase, the counter and the key are new. -/
theorem State.transmit_update {s : State} {p typ : Nat} {f : Frame} (starts : startsUpdate typ f = true) :
    ((s.transmit p typ f).lport p).phase = !(s.lport p).phase ∧ ((s.transmit p typ f).lport p).tx = 0 ∧
      ((s.transmit p typ f).lport p).txKey = Config.nextKey (s.lport p).txKey := by
  have sent : ∀ g : Frame, g.data = f.data → startsUpdate typ g = true := fun g hg => by rwa [startsUpdate, hg]
  simp [State.transmit, sent]

section KeyUpdate

variable {s : State} {p : Nat} (port : p < 8) (links : s.linksRun = true) (active : (s.lport p).state = 2 ∨ (s.lport p).state = 4)
include port links active

/-- What an active port does, by the number of frames sent under its key. -/
theorem execPortKeyUpdate_active :
    execPortKeyUpdate p s = .next (if (s.lport p).tx < 2 ^ 47 then s else if 2 ^ 48 - 1 ≤ (s.lport p).tx then s.portDown p
      else if (s.lport p).held.any fun e => startsUpdate e.1 e.2 then s else s.sendFrame p 6 keyFrame) := by
  rcases active with h | h <;> simp only [execPortKeyUpdate, unit, port, links, h] <;> simp

theorem execPortKeyUpdate_early (few : (s.lport p).tx < 2 ^ 47) : execPortKeyUpdate p s = .next s := by
  rw [execPortKeyUpdate_active port links active, if_pos few]

theorem execPortKeyUpdate_starts (many : 2 ^ 47 ≤ (s.lport p).tx) (left : (s.lport p).tx < 2 ^ 48 - 1)
    (fresh : ((s.lport p).held.any fun e => startsUpdate e.1 e.2) = false) :
    execPortKeyUpdate p s = .next (s.sendFrame p 6 keyFrame) := by
  rw [execPortKeyUpdate_active port links active, if_neg (Nat.not_lt.mpr many), if_neg (Nat.not_le.mpr left), fresh]
  rfl

theorem execPortKeyUpdate_exhausted (spent : 2 ^ 48 - 1 ≤ (s.lport p).tx) : execPortKeyUpdate p s = .next (s.portDown p) := by
  rw [execPortKeyUpdate_active port links active, if_neg (by omega), if_pos spent]

end KeyUpdate

/-- Settles O50: the frames by `receive_performs`, the rest by the lemma of each event. -/
theorem frameEffects : Obligations.frameEffects := by
  refine ⟨?frames, ?timeout, ?ports⟩
  case frames =>
    intro s p fr ctr mine
    exact ⟨fun h => receive_performs ctr mine h id, fun h => receive_performs ctr mine h id,
      fun h => receive_performs ctr mine h (·.retransmit p), fun h => receive_performs ctr mine h (·.answered p fr false),
      fun h => receive_performs ctr mine h (·.answered p fr true),
      fun h _ => execFrameWrite_refused ctr mine h rfl, fun h _ _ => execFrameWrite_performed ctr mine h rfl,
      fun h _ => execFrameRead_refused ctr mine h rfl, fun h _ _ => execFrameRead_performed ctr mine h rfl⟩
  case timeout =>
    intro s i q hq hub
    exact execRemoteTimeout_outstanding hq hub
  case ports =>
    intro s p port links
    refine ⟨fun up => execPortSignalLoss_hears port links ((LPort.hears_iff _).mpr up), fun down => ?deaf,
      fun r awake booted state => execPortRetry_trains port links awake booted state r, fun r => s.trainPort_wakes p r, fun active => ?keys⟩
    case deaf =>
      refine execPortSignalLoss_deaf port links (Bool.eq_false_iff.mpr fun h => ?_)
      have up := (LPort.hears_iff _).mp h
      omega
    case keys =>
      refine ⟨execPortKeyUpdate_early port links active, fun many left held can => ?updated,
        execPortKeyUpdate_starts port links active, execPortKeyUpdate_exhausted port links active⟩
      have starts := execPortKeyUpdate_starts port links active many left (by simp [held])
      rw [State.sendFrame_transmits held can] at starts
      exact ⟨_, starts, State.transmit_update startsUpdate_keyFrame⟩

end Sys2Proof.Machine

/-! Messages, returns and credits on their way (R41, R161, R162, R274, R276, R279): one lemma per event, and O27 from them. -/

namespace Sys2Proof.Machine

/-! Delivery (R161, R274) -/

/-- R41: a backed core's interface compares with its own role epoch. -/
theorem State.epochOf_backed {s : State} {c : Nat} (backed : s.backed c = true) : s.epochOf c = (s.core c).epoch := if_pos backed

section Arrival

variable {s : State} {i : Nat} {m : Msg} (sent : s.net.msgs[i]? = some m) (oldest : oldestOfChannel s.net.msgs i m = true)
  (runs : s.backed m.dst = true → s.dieRuns (m.dst / 256) = true) (route : s.routeUp m.site (m.dst / 256) = true)
include sent oldest runs route

/-- A message whose way is open leaves the list: delivered where its destination takes it, else a drop and a return. -/
theorem execMsgArrive_open :
    let t : State := { s with net := { s.net with msgs := s.net.msgs.eraseIdx i } }
    let e := s.epochOf m.dst
    let d := if m.dst < 1280 then t.countDrop m e else t
    execMsgArrive i s =
      if s.backed m.dst = true ∧ m.epoch = e ∧ m.ctx = (s.core m.dst).ctx ∧ ((s.core m.dst).port m.dport).kind = 2 then .next (t.deliverMsg m)
      else .next { d with net := { d.net with nacks := d.net.nacks ++ [⟨m.src, m.role, m.sport, m.dst, m.dport, m.epoch, e,
        m.data.length / 64, if m.src = hubCore then m.data else []⟩] } } := by
  have reached : (s.backed m.dst && !s.dieRuns (m.dst / 256)) = false := by
    cases backed : s.backed m.dst
    · rfl
    · simp [runs backed]
  simp only [execMsgArrive, sent, oldest, reached, route, Bool.not_true, Bool.or_false, Bool.false_eq_true, if_false, Bool.and_eq_true,
    decide_eq_true_eq, and_assoc]
  rfl

theorem execMsgArrive_delivers (backed : s.backed m.dst = true) (epoch : m.epoch = (s.core m.dst).epoch)
    (ctx : m.ctx = (s.core m.dst).ctx) (port : ((s.core m.dst).port m.dport).kind = 2) :
    execMsgArrive i s = .next (({ s with net := { s.net with msgs := s.net.msgs.eraseIdx i } } : State).deliverMsg m) := by
  rw [execMsgArrive_open sent oldest runs route, if_pos ⟨backed, epoch.trans (State.epochOf_backed backed).symm, ctx, port⟩]

theorem execMsgArrive_drops (core : m.dst < 1280)
    (untaken : ¬(s.backed m.dst = true ∧ m.epoch = s.epochOf m.dst ∧ m.ctx = (s.core m.dst).ctx ∧ ((s.core m.dst).port m.dport).kind = 2)) :
    let d := ({ s with net := { s.net with msgs := s.net.msgs.eraseIdx i } } : State).countDrop m (s.epochOf m.dst)
    execMsgArrive i s = .next { d with net := { d.net with nacks := d.net.nacks ++ [⟨m.src, m.role, m.sport, m.dst, m.dport, m.epoch,
      s.epochOf m.dst, m.data.length / 64, if m.src = hubCore then m.data else []⟩] } } := by
  rw [execMsgArrive_open sent oldest runs route, if_neg untaken, if_pos core]

end Arrival

/-! Returns (R162, R279) -/

section Return

variable {s : State} {i : Nat} {n : Nack} (sent : s.net.nacks[i]? = some n)
include sent

theorem execNackEpoch_waits (waits : s.mayReturn Nack.ends s.net.nacks i n = false) : execNackEpoch i s = .next s := by
  simp [execNackEpoch, sent, waits]

variable (may : s.mayReturn Nack.ends s.net.nacks i n = true)
include may

theorem execNackEpoch_hub (hub : n.core = hubCore) :
    execNackEpoch i s = .next (({ s with net := { s.net with nacks := s.net.nacks.eraseIdx i } } : State).eventReturned n) := by
  simp [execNackEpoch, sent, may, if_pos hub]

/-- The return finds its send port bound as it was: the port reads NACKED and has its credits back. -/
theorem execNackEpoch_port (core : n.core ≠ hubCore) {x : Core} (hx : s.core n.core = x) {p : Port} (hp : x.port n.port = p)
    (bound : x.epoch = n.role ∧ p.kind = 1 ∧ p.dst = n.dst ∧ p.dport = n.dport ∧ p.epoch = n.tag) :
    execNackEpoch i s = .next (({ s with net := { s.net with nacks := s.net.nacks.eraseIdx i } } : State).setCore n.core
      (({ x with stat := { x.stat with nackRet := x.stat.nackRet + 1 } } : Core).setPort n.port
        { p with nacked := true, nackEpoch := n.epoch, credits := p.credits + n.units, pending := p.pending - 1 })) := by
  subst hx hp
  simp only [execNackEpoch, sent, may, Bool.not_true, Bool.false_eq_true, if_false, if_neg core]
  exact if_pos bound

end Return

/-! Credits (R276) -/

section Release

variable {s : State} {i : Nat} {g : Grant} (granted : s.net.grants[i]? = some g)
include granted

theorem execCreditRelease_bound {p : Port} (hp : (s.core g.dst).port g.dport = p) (fresh : g.released = false)
    (role : (s.core g.dst).epoch = g.epoch) (recv : p.kind = 2) (base : p.base = g.base) (size : p.size = g.units * 64) :
    execCreditRelease i s = .next { s with net := { s.net with
      grants := s.net.grants.set i { g with released := true }
      creds := s.net.creds ++ [⟨g.src, g.sport, g.dst, g.dport, g.epoch, g.credits - p.heldBy g.src g.sport⟩] } } := by
  subst hp
  simp only [execCreditRelease, granted, fresh, role, recv, base, size]
  rfl

theorem execCreditRelease_once (released : g.released = true) : execCreditRelease i s = .next s := by
  simp [execCreditRelease, granted, released]

end Release

section Credits

variable {s : State} {i : Nat} {e : Cred} (sent : s.net.creds[i]? = some e)
include sent

theorem execCreditArrive_waits (waits : s.mayReturn Cred.ends s.net.creds i e = false) : execCreditArrive i s = .next s := by
  simp [execCreditArrive, sent, waits]

variable (may : s.mayReturn Cred.ends s.net.creds i e = true) (core : e.core ≠ hubCore) {p : Port} (hp : (s.core e.core).port e.port = p)
include may core hp

theorem execCreditArrive_joins (bound : p.kind = 1 ∧ p.dst = e.dst ∧ p.dport = e.dport ∧ p.epoch = e.epoch) :
    execCreditArrive i s = .next (({ s with net := { s.net with creds := s.net.creds.eraseIdx i } } : State).setCore e.core
      ((s.core e.core).setPort e.port { p with credits := p.credits + e.units })) := by
  subst hp
  simp only [execCreditArrive, sent, may, Bool.not_true, Bool.false_eq_true, if_false, if_neg core]
  exact if_pos bound

theorem execCreditArrive_held (unbound : ¬(p.kind = 1 ∧ p.dst = e.dst ∧ p.dport = e.dport ∧ p.epoch = e.epoch)) :
    execCreditArrive i s = .next { s with net := { s.net with creds := s.net.creds.eraseIdx i, held := s.net.held ++ [e] } } := by
  subst hp
  simp only [execCreditArrive, sent, may, Bool.not_true, Bool.false_eq_true, if_false, if_neg core]
  exact if_neg unbound

end Credits

/-- Settles O27: a message, a return, a grant and credits, each by the lemma of what becomes of it. -/
theorem messageEvents : Obligations.messageEvents := by
  intro s i
  refine ⟨?message, ?returned, ?release, ?credits, fun n sent => execNackEpoch_waits sent, fun e sent => execCreditArrive_waits sent⟩
  case message =>
    intro m sent oldest runs route
    refine ⟨execMsgArrive_delivers sent oldest runs route, fun core untaken => ?_⟩
    refine execMsgArrive_drops sent oldest runs route core ?_
    rintro ⟨backed, epoch, ctx, port⟩
    rw [State.epochOf_backed backed] at epoch
    simp [backed, epoch, ctx, port] at untaken
  case returned =>
    intro n sent may
    exact ⟨execNackEpoch_hub sent may, fun core role kind dst dport tag =>
      execNackEpoch_port sent may core rfl rfl ⟨role, kind, dst, dport, tag⟩⟩
  case release =>
    intro g granted
    exact ⟨execCreditRelease_bound granted rfl, execCreditRelease_once granted⟩
  case credits =>
    intro e sent may core
    exact ⟨fun kind dst dport epoch => execCreditArrive_joins sent may core rfl ⟨kind, dst, dport, epoch⟩,
      execCreditArrive_held sent may core rfl⟩

end Sys2Proof.Machine

/-! Die-to-die pairs and clocks that lose lock (R37, R39, R401, R479): one lemma per event, and O51 from them. -/

namespace Sys2Proof.Machine

/-! What an alert and a list of reports leave unchanged (R477, R526) -/

@[simp] theorem State.raiseAlert_pairs (s : State) (k : Nat) : (s.raiseAlert k).pairs = s.pairs := by
  simp only [State.raiseAlert]
  split <;> rfl

/-- A field that one round of a fold leaves unchanged is unchanged after all of them. -/
theorem State.foldl_field {α β : Type} (field : State → β) (f : State → α → State) (step : ∀ s a, field (f s a) = field s) (l : List α)
    (s : State) : field (l.foldl f s) = field s :=
  List.foldlRecOn (motive := fun t => field t = field s) l f rfl fun t kept a _ => (step t a).trans kept

/-! Pairs (R401) -/

@[simp] theorem State.pairOf_setPair_self (s : State) (k : Nat) (x : Pair) : (s.setPair k x).pairOf k = x := by
  simp [State.pairOf, State.setPair]

/-- A lost pair reads LOST, without a module. -/
theorem State.losePair_pairOf (s : State) (k : Nat) :
    (s.losePair k).pairOf k = { s.pairOf k with state := 2, degraded := true, modules := 0, rate := 0 } := by
  have reports : ∀ (t : State) (l : List (Nat × Job)),
      (l.foldl (fun s e => s.report ⟨0, 0x09, srcOf 6 k, e.1, 20, 0, 0, 0⟩) t).pairs = t.pairs :=
    fun t l => State.foldl_field State.pairs _ (fun t _ => t.report_pairs _) l t
  have guest : ∀ t : State, (if k = 7 then { t with guestUp := false } else t).pairs = t.pairs := fun t => by split <;> rfl
  have lost : (s.losePair k).pairs = (s.setPair k { s.pairOf k with state := 2, degraded := true, modules := 0, rate := 0 }).pairs := by
    unfold State.losePair
    extract_lets x t u l
    have hu : u.pairs = (s.setPair k { s.pairOf k with state := 2, degraded := true, modules := 0, rate := 0 }).pairs :=
      (guest t).trans (State.raiseAlert_pairs _ 6)
    split
    · exact hu
    · exact (reports u l).trans hu
  rw [State.pairOf, lost]
  exact State.pairOf_setPair_self s k _

/-- Of two working modules the failure of one leaves the lanes of the other. -/
theorem Pair.lanes_failModule (x : Pair) {m : Nat} (hm : m < 2) (works : x.modules.testBit m = true) (other : x.modules ≠ 2 ^ m)
    (two : x.modules < 4) :
    ({ x with modules := x.modules - 2 ^ m, degraded := true } : Pair).lanes = x.lanesOf (1 - m) := by
  have three : ∀ m < 2, ∀ n < 4, n.testBit m = true → n ≠ 2 ^ m → n = 3 := by decide
  have both : x.modules = 3 := three m hm x.modules two works other
  interval_cases m <;> simp [Pair.lanes, Pair.lanesOf, both, Nat.testBit]

section Pairs

variable {s : State} {k : Nat} (pair : k < 8) (up : s.pairUp k = true)
include pair up

theorem execPairLost_up : execPairLost k s = .next (s.losePair k) := by
  simp [execPairLost, unit, pair, up]

section Module

variable {m : Nat} (hm : m < 2) (works : (s.pairOf k).modules.testBit m = true)
include hm works

theorem execD2dModuleFail_last (last : (s.pairOf k).modules = 2 ^ m) : execD2dModuleFail k m s = .next (s.losePair k) := by
  simp [execD2dModuleFail, unit, pair, up, hm, works, if_pos last]

theorem execD2dModuleFail_other (other : (s.pairOf k).modules ≠ 2 ^ m) : execD2dModuleFail k m s =
    .next (s.setPair k { s.pairOf k with modules := (s.pairOf k).modules - 2 ^ m, degraded := true }) := by
  simp [execD2dModuleFail, unit, pair, up, hm, works, if_neg other]

section Lane

variable {lane : Nat} (hlane : lane < 64) {n : Nat} {x : Pair} (hx : s.pairOf k = x) {y : Pair} {total : Nat}
  (htotal : tget x.round (m * 64 + lane) + n = total)
  (hy : { x with retries := wrap 32 (x.retries + n), degraded := true, round := tput x.round (m * 64 + lane) total } = y)
include hlane hx htotal hy

/-- Retries are counted; beyond 64 in a round the lane is repaired while repair lanes are left, and then its module is narrowed. -/
theorem execD2dCrcFail_counts :
    execD2dCrcFail k m lane n s = .next (s.setPair k
      (if total ≤ 64 then y
       else if tget x.repaired m < Config.repairLanes then
        { y with round := tput y.round (m * 64 + lane) 0, repaired := tput x.repaired m (tget x.repaired m + 1), repairs := wrap 16 (x.repairs + 1) }
       else { y with round := tput y.round (m * 64 + lane) 0, narrow := if x.narrow.testBit m then x.narrow else x.narrow + 2 ^ m })) := by
  subst hx htotal hy
  simp only [execD2dCrcFail, unit, pair, up, hm, works, hlane, decide_true, Bool.and_true, Bool.not_true, Bool.or_false,
    Bool.false_eq_true, if_true, if_false]
  split
  · rfl
  · split
    · rfl
    · split <;> rfl

theorem execD2dCrcFail_retries (few : total ≤ 64) : execD2dCrcFail k m lane n s = .next (s.setPair k y) := by
  rw [execD2dCrcFail_counts pair up hm works hlane hx htotal hy, if_pos few]

theorem execD2dCrcFail_repairs (many : 64 < total) (left : tget x.repaired m < Config.repairLanes) :
    execD2dCrcFail k m lane n s = .next (s.setPair k { y with
      round := tput y.round (m * 64 + lane) 0, repaired := tput x.repaired m (tget x.repaired m + 1), repairs := wrap 16 (x.repairs + 1) }) := by
  rw [execD2dCrcFail_counts pair up hm works hlane hx htotal hy, if_neg (Nat.not_le.mpr many), if_pos left]

theorem execD2dCrcFail_narrows (many : 64 < total) (spent : Config.repairLanes ≤ tget x.repaired m) :
    execD2dCrcFail k m lane n s = .next (s.setPair k { y with
      round := tput y.round (m * 64 + lane) 0, narrow := if x.narrow.testBit m then x.narrow else x.narrow + 2 ^ m }) := by
  rw [execD2dCrcFail_counts pair up hm works hlane hx htotal hy, if_neg (Nat.not_le.mpr many), if_neg (Nat.not_lt.mpr spent)]

end Lane

end Module

end Pairs

/-! Clocks (R37, R39) -/

@[simp] theorem State.setCoreClock_dies (s : State) (h : Nat) (on : Bool) : (s.setCoreClock h on).dies = s.dies := by
  cases on <;> rfl

@[simp] theorem State.setDieClocks_dies (s : State) (d : Nat) (on : Bool) : (s.setDieClocks d on).dies = s.dies :=
  State.foldl_field State.dies _ (fun t c => t.setCoreClock_dies (4 * d + c) on) _ s

/-- A relock starts the die's counter at 0 and counts in LOCK_SEQ. -/
theorem State.lockDie_die (s : State) (d : Nat) :
    (s.lockDie d).die d = { s.die d with locked := true, count := 0, lockSeq := wrap 16 ((s.die d).lockSeq + 1) } := by
  rw [State.die, State.lockDie, State.setDieClocks_dies]
  exact State.die_setDie_self s d _

section Clocks

variable {s : State} {d : Nat} (die : d < 5) (runs : s.heatRuns = true) (awake : s.halfMast = false) (booted : s.boot.bring = none)
include die runs awake booted

/-- In service the die's clocks stop, and each of its jobs is reported, or job 0 (log entry 108). -/
theorem execDiePllLoss_locked (locked : (s.die d).locked = true) :
    execDiePllLoss d s = .next ((if s.jobsOn d = [] then [0] else s.jobsOn d).foldl
      (fun t j => t.report ⟨d + 1, 0x08, srcOf 4 d, j, 20, 0, 0, 0⟩) (s.stopDie d)) := by
  have boot : ((if s.jobsOn d = [] then [0] else s.jobsOn d).foldl
      (fun t j => t.report ⟨d + 1, 0x08, srcOf 4 d, j, 20, 0, 0, 0⟩) (s.stopDie d)).boot.bring = none := by
    rw [State.foldl_field State.boot _ (fun t _ => t.report_boot _)]
    exact booted
  simp [execDiePllLoss, unit, die, runs, awake, locked, boot]

theorem execDiePllRelock_up (up : (s.die d).up = true) (unlocked : (s.die d).locked = false) :
    execDiePllRelock d s = .next (s.lockDie d) := by
  simp [execDiePllRelock, unit, die, runs, awake, up, unlocked, booted]

end Clocks

theorem execHubPllLoss_runs {s : State} (hub : s.hubRuns = true) : execHubPllLoss s =
    .next ((({ s with hubPllLost := true } : State).raiseAlert 8).report ⟨0, 0x0D, srcOf 8 2, 0, 20, 0, 0, 0⟩) := by
  simp [execHubPllLoss, hub]

/-- Settles O51: the events of a pair in service, then those of the clocks. -/
theorem diesAndPairs : Obligations.diesAndPairs := by
  refine ⟨?pairs, State.losePair_pairOf, ?clocks, fun s => execHubPllLoss_runs⟩
  case pairs =>
    intro s k pair up
    refine ⟨execPairLost_up pair up, fun m hm works => ?_, fun m lane n hm hlane works => ?_⟩
    · exact ⟨execD2dModuleFail_last pair up hm works, fun other =>
        ⟨execD2dModuleFail_other pair up hm works other, Pair.lanes_failModule _ hm works other⟩⟩
    · exact ⟨execD2dCrcFail_retries pair up hm works hlane rfl rfl rfl, execD2dCrcFail_repairs pair up hm works hlane rfl rfl rfl,
        execD2dCrcFail_narrows pair up hm works hlane rfl rfl rfl⟩
  case clocks =>
    intro s d die runs awake booted
    exact ⟨execDiePllLoss_locked die runs awake booted, fun unlocked up =>
      ⟨execDiePllRelock_up die runs awake booted up unlocked, State.lockDie_die s d⟩⟩

end Sys2Proof.Machine

/-! Rounds, clocks, the cap, the clamp and trips (R37, R455 to R471, R520): one lemma per event, and O52 from them. -/

namespace Sys2Proof.Machine

/-! Firmware runs (R434, R472) -/

theorem State.manages_of_heatRuns {s : State} (runs : s.heatRuns = true) : s.manages = true := (Bool.and_eq_true_iff.mp runs).1

theorem State.hubRuns_of_manages {s : State} (manages : s.manages = true) : s.hubRuns = true := (Bool.and_eq_true_iff.mp manages).1

section Heat

variable {s : State} (runs : s.heatRuns = true)
include runs

/-! A die's round (R185, R455, R471) -/

section DieRound

variable {d : Nat} (die : d < 5) (awake : s.halfMast = false) (up : (s.die d).up = true) {r : DieRound} {t : State}
  (ht : (s.endViaRound d).upsetScratch d r.scratch = t)
include die awake up ht

theorem execDieHousekeepingRound_reads (way : t.routeUp d 5 = true) : execDieHousekeepingRound d r s =
    .next (({ t with thm := { t.thm with seen := tput t.thm.seen d true } } : State).readAll (roundKeys d r)) := by
  simp [execDieHousekeepingRound, unit, die, runs, awake, up, ht, way]

theorem execDieHousekeepingRound_cut (cut : t.routeUp d 5 = false) :
    execDieHousekeepingRound d r s = .next (t.tripAny (roundKeys d r)) := by
  simp [execDieHousekeepingRound, unit, die, runs, awake, up, ht, cut]

end DieRound

/-! HUB's round (R455 to R459, R467) -/

section HubRound

variable {r : HubRound} {a : State}
  (ha : ((s.readWater r).readInput r).readAll ((List.range 4).map fun i => (3000 + i, r.hub.getD i none)) = a) (awake : a.halfMast = false)
include ha awake

theorem execHubRound_shutdown (shutdown : a.pwr.shutdown = true) : execHubRound r s = .next a := by
  simp only [execHubRound, runs, ha, awake, shutdown, Bool.not_true, Bool.false_eq_true, if_true, if_false]

theorem execHubRound_acts (on : a.pwr.shutdown = false) {b : State} (hb : a.noteMissing r = b) {e g : State}
    (he : b.spotKeys.foldl (fun u k => u.stepSpot r (u.deadHoist (spotHoist k)) k) b = e)
    (hg : (e.liveClusters.foldl State.setBands e).formFlow.formFlowLow = g) : execHubRound r s =
    .next (({ g with pairs := tmap (fun _ x => { x with round := [] }) g.pairs } : State).actOnHeat r b.spotKeys) := by
  simp only [execHubRound, runs, ha, awake, on, hb, he, hg, Bool.not_true, Bool.false_eq_true, if_false]

end HubRound

/-! Clocks (R464) -/

theorem execClockChange_takes {h : Nat} (cluster : h < 20) (locked : (s.die (h / 4)).locked = true) (awake : s.halfMast = false)
    {x : Clu} (hx : s.clu h = x) (ordered : x.mhz ≠ x.target) : execClockChange h s =
    .next ((s.setClu h { x with mhz := x.target, changes := wrap 16 (x.changes + 1) }).setLimits h (limitAt x.dip)) := by
  subst hx
  simp [execClockChange, State.takeClock, unit, cluster, runs, locked, awake, ordered]

omit runs in
theorem execClockChange_idle {h : Nat} (cluster : h < 20) (taken : (s.clu h).mhz = (s.clu h).target) : execClockChange h s = .next s := by
  simp [execClockChange, State.takeClock, unit, cluster, taken]

/-! The cap, the emergency and the clamp (R461, R466, R470) -/

theorem execCapUpdate_due (due : 50 ≤ s.pwr.rounds) : execCapUpdate s = .next s.updateCap := by
  simp [execCapUpdate, runs, due]

theorem execEmergencyEnd_cool (emergency : s.pwr.emergency = true) (cool : 50 ≤ s.pwr.cool) : execEmergencyEnd s =
    .next ({ s with pwr := { s.pwr with emergency := false } } : State).coolantAlert := by
  simp [execEmergencyEnd, runs, emergency, cool]

theorem execOvercurrentClamp_clamps (awake : s.halfMast = false) (free : s.pwr.clamp = false) {t : State}
    (ht : s.liveClusters.foldl (fun u h => (u.setDip h 15).takeClock h) s = t) : execOvercurrentClamp s = .next ({ t with
      pwr := { t.pwr with clamp := true, clamps := sat 16 (t.pwr.clamps + 1) } } : State).formPwrState := by
  simp [execOvercurrentClamp, runs, awake, free, ht]

/-! Trips and the tachometer (R471, R520) -/

theorem execThermalTrip_hot {site : Nat} (diode : site < 22) (serving : s.boot.state ≠ 4) {dram : Bool} {temp : Nat}
    (hot : (if dram then 440 else 460) ≤ temp) : execThermalTrip site dram temp s = .next (s.thermalShutdown dram site temp) := by
  have hub := State.hubRuns_of_manages (State.manages_of_heatRuns runs)
  simp [execThermalTrip, unit, diode, hub, serving, Nat.not_lt.mpr hot]

theorem execFlowTachEdge_counts {gap : Nat} (apart : 108 ≤ gap) : execFlowTachEdge gap s =
    .next ({ s with thm := { s.thm with edges := s.thm.edges ++ [s.hubCount] } } : State).formFlow := by
  have hub := State.hubRuns_of_manages (State.manages_of_heatRuns runs)
  simp [execFlowTachEdge, hub, Nat.not_lt.mpr apart]

theorem execTachFactorSet_sets {f : Nat} (low : 100 ≤ f) (high : f ≤ 10000) :
    execTachFactorSet f s = .next { s with thm := { s.thm with tach := some f } } := by
  simp [execTachFactorSet, State.manages_of_heatRuns runs, Nat.not_lt.mpr low, Nat.not_lt.mpr high]

end Heat

/-! Events whose condition does not hold -/

theorem execCapUpdate_early {s : State} (early : s.pwr.rounds < 50) : execCapUpdate s = .next s := by
  simp [execCapUpdate, Nat.not_le.mpr early]

theorem execEmergencyEnd_stays {s : State} (stays : s.pwr.emergency = false ∨ s.pwr.cool < 50) : execEmergencyEnd s = .next s := by
  have none : (s.pwr.emergency && decide (50 ≤ s.pwr.cool)) = false := by
    rcases stays with off | warm
    · rw [off, Bool.false_and]
    · rw [decide_eq_false (Nat.not_le.mpr warm), Bool.and_false]
  simp only [execEmergencyEnd, Bool.and_assoc, none, Bool.and_false, Bool.false_eq_true, if_false]

theorem execThermalTrip_below {s : State} {site : Nat} (diode : site < 22) {dram : Bool} {temp : Nat}
    (below : temp < (if dram then 440 else 460)) : execThermalTrip site dram temp s = .next s := by
  simp [execThermalTrip, unit, diode, below]

/-! Clocks of the dip levels (R464) -/

/-- The maximum is a whole number of steps of 50 MHz above 500 MHz, whatever the power code. -/
theorem maxMhz_steps : 500 + 50 * ((maxMhz - 500) / 50) = maxMhz := by
  unfold maxMhz
  split <;> rfl

theorem clockAt_zero : clockAt 0 = maxMhz := by
  rw [clockAt, Nat.sub_zero, Nat.mul_div_cancel _ (by decide), maxMhz_steps]

theorem clockAt_last : clockAt 15 = 500 := by simp [clockAt]

theorem clockAt_antitone : Antitone clockAt := fun _ _ le =>
  Nat.add_le_add_left (Nat.mul_le_mul_left _ (Nat.div_le_div_right (Nat.mul_le_mul_left _ (Nat.sub_le_sub_left le _)))) _

/-- Settles O52: the events while firmware runs, then the clocks and limits of the dip levels. -/
theorem thermalRounds : Obligations.thermalRounds := by
  refine ⟨fun s runs => ?events, clockAt_zero, clockAt_last, fun d _ => clockAt_antitone (Nat.le_succ d), rfl, rfl⟩
  refine ⟨fun d r die awake up => ?dieRound, fun r awake => ?hubRound, fun h cluster => ?clock, execCapUpdate_due runs, execCapUpdate_early,
    execEmergencyEnd_cool runs, execEmergencyEnd_stays, fun awake free => execOvercurrentClamp_clamps runs awake free rfl,
    fun site dram temp diode serving => ?trip, fun gap => execFlowTachEdge_counts runs, fun f => execTachFactorSet_sets runs⟩
  case dieRound => exact ⟨execDieHousekeepingRound_reads runs die awake up rfl, execDieHousekeepingRound_cut runs die awake up rfl⟩
  case hubRound => exact ⟨execHubRound_shutdown runs rfl awake, fun on => execHubRound_acts runs rfl awake on rfl rfl rfl⟩
  case clock =>
    exact ⟨fun locked awake => execClockChange_takes runs cluster locked awake rfl, execClockChange_idle cluster⟩
  case trip => exact ⟨execThermalTrip_hot runs diode serving, execThermalTrip_below diode⟩

end Sys2Proof.Machine

/-! The meter board, its mirror, trace records and sync records (R39, R489 to R502, R510): one lemma per event, and O54 from them. -/

namespace Sys2Proof.Machine

/-! What an event record leaves unchanged (R499) -/

section Board

variable (s : State)

@[simp] theorem State.meterEvent_off : s.meterEvent.meter.off = s.meter.off := rfl
@[simp] theorem State.meterEvent_owed : s.meterEvent.meter.owed = s.meter.owed := rfl

end Board

/-! The board (R495, R497, R499, R502) -/

section Powered

variable {s : State} (on : s.meter.off = false)
include on

theorem execIntervalRecord_on : execIntervalRecord s =
    .next ((s.setMeter { s.meter with seconds := (s.meter.seconds / 900 + 1) * 900 }).issueRecord 1 []) := by
  simp [execIntervalRecord, on]

theorem execEnergyStore_on (mwh : Nat) :
    execEnergyStore mwh s = .next (s.setMeter { s.meter with energy := wrap 64 (s.meter.energy + mwh) }) := by
  simp [execEnergyStore, on]

theorem execCoverOpening_on : execCoverOpening s = .next
    (s.setMeter { s.meter with tamper := true, tampers := wrap 32 (s.meter.tampers + 1), owed := 0 }).meterTime.meterEvent := by
  simp [execCoverOpening, on]

/-- The loss is counted and recorded, and the board stops. -/
theorem State.meterDown_on : s.meterDown.meter.off = true ∧ s.meterDown.meter.powerFails = wrap 32 (s.meter.powerFails + 1) ∧
    s.meterDown.meter.seq = s.meter.seq + 1 := by
  simp only [State.meterDown, on, Bool.false_eq_true, if_false]
  exact ⟨rfl, rfl, rfl⟩

theorem State.meterUp_on : s.meterUp = s := by
  simp [State.meterUp, on]

end Powered

section Unpowered

variable {s : State} (off : s.meter.off = true)
include off

theorem execIntervalRecord_off : execIntervalRecord s = .next s := by
  simp [execIntervalRecord, off]

theorem execEnergyStore_off (mwh : Nat) : execEnergyStore mwh s = .next s := by
  simp [execEnergyStore, off]

theorem execCoverOpening_off : execCoverOpening s = .next
    (s.setMeter { s.meter with tamper := true, tampers := wrap 32 (s.meter.tampers + 1), owed := s.meter.owed + 1 }) := by
  simp [execCoverOpening, off]

theorem State.meterDown_off : s.meterDown = s := by
  simp [State.meterDown, off]

/-- The board runs again, and owes no record of a cover opening. -/
theorem State.meterUp_off : s.meterUp.meter.off = false ∧ s.meterUp.meter.owed = 0 := by
  simp only [State.meterUp, off, if_true, State.meterEvent_off, State.meterEvent_owed]
  exact ⟨State.foldl_field (·.meter.off) _ (fun t _ => t.meterEvent_off) _ _,
    State.foldl_field (·.meter.owed) _ (fun t _ => t.meterEvent_owed) _ _⟩

end Unpowered

/-- Without supply after a loss, whatever it had before. -/
theorem State.meterDown_stops (s : State) : s.meterDown.meter.off = true := by
  cases h : s.meter.off
  · exact (State.meterDown_on h).1
  · rwa [State.meterDown_off h]

/-! Boards that are taken off and fitted (R503, R504; log entry 87) -/

/-- The board known last comes as it was. -/
theorem Meter.fitted_same {m : Meter} {b : Board} (same : b.id = m.id) : m.fitted b = m := if_pos same

/-- Another board comes with its own values, without supply. -/
theorem Meter.fitted_other {m : Meter} {b : Board} (other : b.id ≠ m.id) :
    (m.fitted b).id = b.id ∧ (m.fitted b).energy = b.energy ∧ (m.fitted b).tamper = b.tamper ∧ (m.fitted b).off = true := by
  simp only [Meter.fitted, if_neg other, and_self]

theorem execMeterSupplyEvent_removed {s : State} (struck : s.struck = true) :
    execMeterSupplyEvent .removed s = .next { s.meterDown with mtrPres := false } := by
  simp [execMeterSupplyEvent, struck]

theorem execMeterSupplyEvent_removed_unstruck {s : State} (up : s.struck = false) : execMeterSupplyEvent .removed s = .next s := by
  simp [execMeterSupplyEvent, up]

theorem execMeterSupplyEvent_fitted {s : State} (struck : s.struck = true) (free : s.mtrPres = false) (b : Board) :
    execMeterSupplyEvent (.fitted b) s = .next { s.setMeter (s.meter.fitted b) with mtrPres := true } := by
  simp [execMeterSupplyEvent, struck, free]

theorem execMeterSupplyEvent_fitted_not {s : State} (h : s.struck = false ∨ s.mtrPres = true) (b : Board) :
    execMeterSupplyEvent (.fitted b) s = .next s := by
  have not : (s.struck && !s.mtrPres) = false := by
    rcases h with h | h <;> simp [h]
  simp [execMeterSupplyEvent, not]

/-! Requests to the board (R500, R514) -/

theorem State.askMeter_present {s : State} (present : s.mtrPres = true) (k n : Nat) : s.askMeter k n = s.send (.meterRequest k n) :=
  if_pos present

theorem State.askMeter_absent {s : State} (absent : s.mtrPres = false) (k n : Nat) : s.askMeter k n = s :=
  if_neg (Bool.eq_false_iff.mp absent)

/-- What the mirror holds does not silence the board. -/
theorem State.mute_of_mtr (s : State) (x : Mirror) : ({ s with mtr := x } : State).meterMute = s.meterMute := rfl

section Asked

variable (s : State) (k n : Nat)

@[simp] theorem State.askMeter_mtr : (s.askMeter k n).mtr = s.mtr := by
  unfold State.askMeter; split <;> rfl
@[simp] theorem State.askMeter_meter : (s.askMeter k n).meter = s.meter := by
  unfold State.askMeter; split <;> rfl
@[simp] theorem State.askMeter_mute : (s.askMeter k n).meterMute = s.meterMute := by
  unfold State.askMeter; split <;> rfl

end Asked

/-! The mirror (R500 to R502) -/

@[simp] theorem State.raiseAlert_mtr (s : State) (k : Nat) : (s.raiseAlert k).mtr = s.mtr := by
  simp only [State.raiseAlert]
  split <;> rfl

/-- An alert cause that follows a condition leaves the mirror alone. -/
theorem State.followAlert_mtr (s : State) (on : Bool) (k : Nat) :
    (if on then (if s.alert.causes.getLsbD k then s else s.raiseAlert k) else s.alertOff k).mtr = s.mtr := by
  split
  · split
    · rfl
    · exact s.raiseAlert_mtr k
  · rfl

@[simp] theorem State.meterAlerts_mtr (s : State) : s.meterAlerts.mtr = s.mtr :=
  (State.followAlert_mtr _ _ 3).trans (State.followAlert_mtr _ _ 2)

section Manages

variable {s : State} (manages : s.manages = true)
include manages

/-- An answering board's values stand in the mirror. -/
theorem execMeterReadState_refreshes {m : MeterState} (answers : m.answers = true) (hears : s.meterMute = false) :
    ∃ t, execMeterReadState m s = .next t ∧ t.mtr.lost = false ∧ t.mtr.present = true ∧ t.mtr.energy = s.meter.energy ∧
      t.mtr.tamper = s.meter.tamper ∧ t.mtr.updates = wrap 16 (s.mtr.updates + 1) ∧ t.mtr.volt = m.volt % 2 ^ 16 ∧
      t.mtr.power = m.power % 2 ^ 16 := by
  have board : ((s.askMeter 0 0).meterMeasures m).meter.energy = s.meter.energy ∧
      ((s.askMeter 0 0).meterMeasures m).meter.tamper = s.meter.tamper := by
    rw [← s.askMeter_meter 0 0]
    exact ⟨rfl, rfl⟩
  have mirror : ((s.askMeter 0 0).meterMeasures m).mtr = s.mtr := s.askMeter_mtr 0 0
  simp only [execMeterReadState, manages, answers, State.askMeter_mute, hears, Bool.not_true, Bool.or_false, Bool.false_eq_true, if_false]
  exact ⟨_, rfl, by simp only [State.meterAlerts_mtr, board, mirror, and_self]⟩

theorem execMeterReadState_silent {m : MeterState} (silent : m.answers = false ∨ s.meterMute = true) :
    execMeterReadState m s = .next (s.askMeter 0 0) := by
  have none : (!m.answers || s.meterMute) = true := by
    rcases silent with h | h <;> simp [h]
  simp [execMeterReadState, manages, State.askMeter_mute, none]

section Record

variable {n : Nat} {b : Bytes} (hears : s.meterMute = false) (holds : s.meter.record n = some b)
include hears holds

theorem execMeterReadRecord_keeps (unasked : s.mtr.answers b = false) :
    execMeterReadRecord n s = .next { s.askMeter 1 n with mtr := s.mtr.keep b } := by
  simp [execMeterReadRecord, manages, State.askMeter_mute, State.askMeter_meter, State.askMeter_mtr, hears, holds, unasked]

theorem execMeterReadRecord_answers (asked : s.mtr.answers b = true) : execMeterReadRecord n s =
    .next (({ s.askMeter 1 n with mtr := { s.mtr.keep b with demand := none } } : State).send (.meterAnswer b)) := by
  simp [execMeterReadRecord, manages, State.askMeter_mute, State.askMeter_meter, State.askMeter_mtr, hears, holds, asked]

end Record

theorem execMeterReadRecord_missing {n : Nat} (missing : s.meterMute = true ∨ s.meter.record n = none) :
    execMeterReadRecord n s = .next (s.askMeter 1 n) := by
  have none : (if s.meterMute then none else s.meter.record n) = none := by
    rcases missing with h | h <;> simp [h]
  simp [execMeterReadRecord, manages, State.askMeter_mute, State.askMeter_meter, none]

theorem execMeterReadCert_mute (mute : s.meterMute = true) : execMeterReadCert s = .next (s.askMeter 2 0) := by
  simp [execMeterReadCert, manages, State.askMeter_mute, mute]

theorem execMeterReadCert_keeps (hears : s.meterMute = false) :
    execMeterReadCert s = .next { s.askMeter 2 0 with mtr := { s.mtr with cert := Config.meterChain s.meter.id } } := by
  simp [execMeterReadCert, manages, State.askMeter_mute, State.askMeter_mtr, State.askMeter_meter, hears]

theorem execMeterReadLog_entry {n : Nat} {e : Bytes} (hears : s.meterMute = false) (entry : s.meter.log[n]? = some e) :
    execMeterReadLog n s = .next ((s.askMeter 4 n).send (.meterAnswer e)) := by
  simp [execMeterReadLog, manages, State.askMeter_mute, State.askMeter_meter, hears, entry]

/-! DEMAND (R499; log entry 61) -/

theorem execMeterDemand_busy {d : Bytes} (waits : s.mtr.demand = some d) (nonce : Bytes) :
    execMeterDemand nonce s = .next (s.send .meterBusy) := by
  simp [execMeterDemand, manages, waits]

section Demand

variable (free : s.mtr.demand = none) (nonce : Bytes)
include free

theorem execMeterDemand_lost (mute : s.meterMute = true) (lost : s.mtr.lost = true) : execMeterDemand nonce s = .next (s.askMeter 3 0) := by
  simp [execMeterDemand, manages, free, State.askMeter_mute, State.askMeter_mtr, mute, lost]

theorem execMeterDemand_unanswered (mute : s.meterMute = true) (known : s.mtr.lost = false) : execMeterDemand nonce s =
    .next { s.askMeter 3 0 with mtr := { s.mtr with demand := some (fitBytes 32 nonce) } } := by
  simp only [execMeterDemand, manages, free, State.askMeter_mute, State.askMeter_mtr, State.mute_of_mtr, mute, known, Option.isSome_none,
    Bool.not_true, Bool.and_false, Bool.false_eq_true, if_true, if_false]

theorem execMeterDemand_answered (hears : s.meterMute = false) : execMeterDemand nonce s =
    .next (({ s.askMeter 3 0 with mtr := { s.mtr with demand := some (fitBytes 32 nonce) } } : State).meterTime.issueRecord 2 nonce) := by
  simp only [execMeterDemand, manages, free, State.askMeter_mute, State.askMeter_mtr, State.mute_of_mtr, hears, Option.isSome_none,
    Bool.not_true, Bool.false_and, Bool.false_eq_true, if_false]

end Demand

theorem execMeterLost_loses (known : s.mtr.lost = false) : execMeterLost s =
    .next ({ s with mtr := { s.mtr with lost := true, updates := wrap 16 (s.mtr.updates + 1), demand := none } } : State).meterAlerts := by
  simp [execMeterLost, manages, known]

end Manages

/-! Trace records (R490, R491, R510; log entry 62) -/

/-- A table that is written at each key of a list reads there what was written. -/
theorem tget_foldl_tput {α : Type} [Inhabited α] [DecidableEq α] (f : Nat → α) (l : List Nat) (t : Tbl α) {k : Nat} (hk : k ∈ l) :
    tget (l.foldl (fun t k => tput t k (f k)) t) k = f k := by
  induction l using List.reverseRecOn with
  | nil => exact absurd hk List.not_mem_nil
  | append_singleton l a ih =>
    rw [List.foldl_append, List.foldl_cons, List.foldl_nil]
    by_cases h : k = a
    · rw [h, tget_tput_self]
    · rw [tget_tput_ne _ _ h]
      exact ih ((List.mem_append.mp hk).resolve_right fun last => h (List.mem_singleton.mp last))

/-- Unit `i` of a die that has `n` is among those of the die. -/
theorem mem_places {n d i : Nat} (hi : i < n) : n * d + i ∈ (List.range n).map (n * d + ·) :=
  List.mem_map_of_mem (List.mem_range.mpr hi)

/-- From `s` to `t` frames are sent or skipped: the records, the slices and the cores are as before. -/
structure FramesOnly (s t : State) : Prop where
  records : t.trc.cores = s.trc.cores
  clusters : t.trc.clus = s.trc.clus
  sync : t.trc.sync = s.trc.sync
  mem : t.mem = s.mem
  cores : t.cores = s.cores

theorem FramesOnly.refl (s : State) : FramesOnly s s := ⟨rfl, rfl, rfl, rfl, rfl⟩

theorem FramesOnly.trans {s t u : State} (h : FramesOnly s t) (k : FramesOnly t u) : FramesOnly s u :=
  ⟨k.records.trans h.records, k.clusters.trans h.clusters, k.sync.trans h.sync, k.mem.trans h.mem, k.cores.trans h.cores⟩

theorem framesOnly_traceFrame (s : State) (typ die index : Nat) (payload : Bytes) : FramesOnly s (s.traceFrame typ die index payload) := by
  unfold State.traceFrame
  split <;> exact ⟨rfl, rfl, rfl, rfl, rfl⟩

theorem framesOnly_counterFrame (s : State) (typ die index : Nat) (payload : Bytes) : FramesOnly s (s.counterFrame typ die index payload) := by
  unfold State.counterFrame
  split
  · exact framesOnly_traceFrame ..
  · split <;> exact ⟨rfl, rfl, rfl, rfl, rfl⟩

theorem FramesOnly.foldl {f : State → Nat → State} (step : ∀ s n, FramesOnly s (f s n)) (l : List Nat) (s : State) :
    FramesOnly s (l.foldl f s) :=
  List.foldlRecOn (motive := FramesOnly s) l f (.refl s) fun t sent n _ => sent.trans (step t n)

/-- A die's records are in their places before their frames go out. -/
theorem execTraceRecordWrite_frames {s : State} {d : Nat} (die : d < 5) (runs : s.dieRuns d = true) :
    ∃ t, execTraceRecordWrite d s = .next t ∧ FramesOnly { s with trc := { s.trc with
      cores := ((List.range 256).map (256 * d + ·)).foldl (fun t c => tput t c (s.coreRecord c)) s.trc.cores
      clus := ((List.range 4).map (4 * d + ·)).foldl (fun t h => tput t h (s.clusterRecord h)) s.trc.clus } } t := by
  simp only [execTraceRecordWrite, unit, die, runs, decide_true, Bool.not_true, Bool.false_eq_true, if_true, if_false]
  exact ⟨_, rfl, (FramesOnly.foldl (fun t c => framesOnly_counterFrame t ..) _ _).trans
    (.foldl (fun t h => framesOnly_counterFrame t ..) _ _)⟩

/-- The records of a die are those of its cores and clusters, and what is no record is as before. -/
theorem execTraceRecordWrite_writes {s : State} {d : Nat} (die : d < 5) (runs : s.dieRuns d = true) :
    ∃ t, execTraceRecordWrite d s = .next t ∧ (∀ c, c < 256 → tget t.trc.cores (256 * d + c) = s.coreRecord (256 * d + c)) ∧
      (∀ h, h < 4 → tget t.trc.clus (4 * d + h) = s.clusterRecord (4 * d + h)) ∧ t.mem = s.mem ∧ t.cores = s.cores := by
  obtain ⟨t, written, sent⟩ := execTraceRecordWrite_frames die runs
  refine ⟨t, written, fun c hc => ?core, fun h hh => ?cluster, sent.mem, sent.cores⟩
  case core =>
    rw [sent.records]
    dsimp only
    exact tget_foldl_tput s.coreRecord _ _ (mem_places hc)
  case cluster =>
    rw [sent.clusters]
    dsimp only
    exact tget_foldl_tput s.clusterRecord _ _ (mem_places hh)

/-! Sync records (R492) -/

/-- The record that HUB keeps of a die's count, sampled within the time that the reply takes. -/
theorem execSyncRequest_records {s : State} {d : Nat} (die : d < 5) (runs : s.dieRuns d = true) (ways : s.bothWays 5 d = true) (n : Nat) :
    ∃ t, execSyncRequest d n s = .next t ∧ tget t.trc.sync d =
      { t1 := s.hubCount, t2 := wrap 64 (s.hubCount + n), d := wrap 64 ((s.die d).count + Config.freeNat s.fresh % (n + 1))
        lockSeq := (s.die d).lockSeq, valid := true } := by
  simp only [execSyncRequest, unit, die, runs, ways, decide_true, Bool.not_true, Bool.or_false, Bool.false_eq_true, if_true, if_false]
  refine ⟨_, rfl, ?_⟩
  rw [(framesOnly_traceFrame ..).sync]
  exact tget_tput_self _ d _

theorem execTraceIdle_sends {lane : Nat} (hlane : lane < 4) (s : State) : execTraceIdle lane s = .next (s.traceFrame 5 5 lane []) := by
  simp [execTraceIdle, unit, hlane]

/-- Settles O54: the board with and without supply, its fitting, the mirror, then the records of time. -/
theorem meterAndTrace : Obligations.meterAndTrace := by
  refine ⟨fun s on => ?powered, fun s off => ?unpowered, fun s => ?fitting,
    fun s k n => ⟨fun present => State.askMeter_present present k n, fun absent => State.askMeter_absent absent k n⟩,
    fun s manages => ?mirror, fun s d die runs => ?trace, fun s lane hlane => execTraceIdle_sends hlane s⟩
  case powered =>
    obtain ⟨stopped, counted, recorded⟩ := State.meterDown_on on
    refine ⟨execIntervalRecord_on on, execEnergyStore_on on, ⟨_, execCoverOpening_on on, rfl, rfl⟩,
      ⟨_, rfl, stopped, counted, recorded⟩, ?_⟩
    simp only [exec_meterSupplyEvent, execMeterSupplyEvent, State.meterUp_on on, ite_self]
  case unpowered =>
    refine ⟨execIntervalRecord_off off, execEnergyStore_off off, fun present => ?_, ?_, ⟨_, execCoverOpening_off off, rfl, rfl, rfl⟩⟩
    · simp only [exec_meterSupplyEvent, execMeterSupplyEvent, present, if_true]
      exact ⟨_, rfl, State.meterUp_off off⟩
    · simp only [exec_meterSupplyEvent, execMeterSupplyEvent, State.meterDown_off off]
  case fitting =>
    refine ⟨fun struck => ⟨_, execMeterSupplyEvent_removed struck, rfl, s.meterDown_stops⟩, execMeterSupplyEvent_removed_unstruck,
      fun b struck free => ⟨fun same => ?_, fun other => ?_⟩, fun b h => execMeterSupplyEvent_fitted_not h b⟩
    · have fitted := execMeterSupplyEvent_fitted struck free b
      rwa [Meter.fitted_same same] at fitted
    · exact ⟨_, execMeterSupplyEvent_fitted struck free b, rfl, Meter.fitted_other other⟩
  case mirror =>
    exact ⟨fun m => execMeterReadState_refreshes manages, fun m => execMeterReadState_silent manages,
      fun n b hears holds => ⟨execMeterReadRecord_keeps manages hears holds, execMeterReadRecord_answers manages hears holds⟩,
      fun n => execMeterReadRecord_missing manages, execMeterReadCert_mute manages, execMeterReadCert_keeps manages,
      fun n e => execMeterReadLog_entry manages, fun nonce d waits => execMeterDemand_busy manages waits nonce,
      fun nonce free => ⟨execMeterDemand_lost manages free nonce, execMeterDemand_unanswered manages free nonce,
        execMeterDemand_answered manages free nonce⟩,
      execMeterLost_loses manages⟩
  case trace =>
    refine ⟨execTraceRecordWrite_writes die runs, fun ways n => ?_⟩
    obtain ⟨t, answered, record⟩ := execSyncRequest_records die runs ways n
    exact ⟨t, _, answered, record, rfl, rfl, rfl, rfl⟩

end Sys2Proof.Machine

/-! Retirement of register instructions, and the results of ALU, MUL and DIV (R51, R118, R126). -/

namespace Sys2Proof.Machine

@[simp] theorem State.finish_doneS (s : State) (c rd : Nat) (w : Word) :
    s.finish c (doneS (s.goOn c) c rd w) = .next (s.retireS c rd w) := rfl

@[simp] theorem State.finish_doneV (s : State) (c vd : Nat) (w : V512) :
    s.finish c (doneV (s.goOn c) c vd w) = .next (s.retireV c vd w) := rfl

@[simp] theorem State.finish_exc (s t : State) (c cause addr : Nat) :
    s.finish c (.exc t cause addr) = .next (t.precise c cause addr) := rfl

/-- The core as an instruction finds it is the core of the state that it finds. -/
@[simp] theorem State.core_goOn_self (s : State) (c : Nat) : (s.goOn c).core c = s.seen c := rfl

section RegisterResults

variable {s : State} {c : Nat} {f : BitVec 56}

/-- A legal register operation of format R with a listed FN retires with its value. -/
theorem regOp_retires (issues : Issues s c) (ok : rOk f = true) {op : Nat → Word → Word → Option Word} {w : Word}
    (listed : op (rFN f) ((s.seen c).sreg (fRA f)) ((s.seen c).sreg (fRB f)) = some w) :
    regOp c f op s = .next (s.retireS c (fRD f) w) := by
  simp only [regOp, runCore_issues issues, ok, legal_true, listed]
  rfl

/-- A register operation whose word is not legal, or whose FN is not listed, raises ILLEGAL_OP. -/
theorem regOp_illegal (issues : Issues s c) {op : Nat → Word → Word → Option Word}
    (bad : rOk f = false ∨ op (rFN f) ((s.seen c).sreg (fRA f)) ((s.seen c).sreg (fRB f)) = none) :
    regOp c f op s = .next ((s.goOn c).precise c causeIllegal 0) := by
  rw [regOp, runCore_issues issues]
  rcases bad with bad | unlisted
  · rw [bad, legal_false, State.finish_exc]
  · rw [unlisted]
    cases rOk f <;> rfl

end RegisterResults

/-- R126: a comparison as a register value. -/
theorem flagWord_decide (p : Prop) [Decidable p] : flagWord (decide p) = if p then 1 else 0 := by
  by_cases h : p <;> simp [flagWord, h]

/-- DIVU and REMU are division and remainder of words. -/
theorem ofNat_toNat_div (a b : Word) : BitVec.ofNat 64 (a.toNat / b.toNat) = a / b :=
  BitVec.eq_of_toNat_eq (by rw [← BitVec.toNat_udiv, BitVec.ofNat_toNat, BitVec.setWidth_eq])

theorem ofNat_toNat_mod (a b : Word) : BitVec.ofNat 64 (a.toNat % b.toNat) = a % b :=
  BitVec.eq_of_toNat_eq (by rw [← BitVec.toNat_umod, BitVec.ofNat_toNat, BitVec.setWidth_eq])

/-- Settles O4: the operation of each FN, by `regOp_retires`. -/
theorem scalarRegisterResults : Obligations.scalarRegisterResults := by
  intro s c f issues ok a b gives
  have alu : ∀ {n w}, aluOp n a b = some w → rFN f = n → exec (.alu c f) s = gives w :=
    fun listed fn => regOp_retires issues ok (fn ▸ listed)
  have mul : ∀ {n w}, mulOp n a b = some w → rFN f = n → exec (.mul c f) s = gives w :=
    fun listed fn => regOp_retires issues ok (fn ▸ listed)
  have div : ∀ {n w}, (b ≠ 0 → divOp n a b = some w) → b ≠ 0 → rFN f = n → exec (.divide c f) s = gives w :=
    fun listed nonzero fn => regOp_retires issues ok (fn ▸ listed nonzero)
  refine ⟨alu rfl, alu rfl, alu rfl, alu rfl, alu rfl, alu rfl, alu rfl, alu rfl, alu (congrArg some (flagWord_decide _)),
    alu (congrArg some (flagWord_decide _)), alu ?min, alu ?max, alu ?minu, alu ?maxu, mul rfl, mul rfl, mul rfl, mul rfl,
    div fun nonzero => ?quotient, div fun nonzero => ?quotientU, div fun nonzero => ?remainder, div fun nonzero => ?remainderU⟩
  case min | max | minu | maxu => simp [aluOp, BitVec.slt, BitVec.ult]
  case quotient | remainder => simp only [divOp, if_neg nonzero, ofI]
  case quotientU => simp only [divOp, if_neg nonzero, ofNat_toNat_div]
  case remainderU => simp only [divOp, if_neg nonzero, ofNat_toNat_mod]

end Sys2Proof.Machine

/-! Exceptions, ILLEGAL_OP and PRIV, fences, and the events that reach a core (R65, R66, R73 to R75, R117, R118, R142, R143). -/

namespace Sys2Proof.Machine

/-! Taking an exception (R73, R75, R478) -/

/-- The one report of an exception: of the job of the core's role, with the cause that the core records. -/
theorem takeExc_report (s : State) (c : Nat) (f : Impr) (imprecise : Bool) :
    ∃ r : Report, (s.takeExc c f imprecise).reports = s.reports ++ [r] ∧ r.job = (s.core c).job ∧
      r.cause = if (s.core c).fw then causeDouble else f.cause := by
  cases fw : (s.core c).fw <;>
    simp [State.takeExc, fw, State.reportExc, State.reportExcOf, Core.enterFw, Core.recordExc]

/-- Settles O12: the record in user mode, the record in firmware mode, the other cores, and the report. -/
theorem exceptionEntry : Obligations.exceptionEntry := by
  intro s c cause addr x y
  refine ⟨fun user => ?user, fun firmware => ?firmware, fun k other => takeExc_ne other _ _, takeExc_report s c _ _⟩
  case user =>
    have entered : y = ({ x with wait := none }.recordExc ⟨cause, addr, 0, 0⟩ false).enterFw 0 5 x.pc := takeExc_user user _ _
    rw [entered]
    simp only [Core.enterFw, Core.recordExc, and_self]
  case firmware =>
    have halted := takeExc_firmware firmware ⟨cause, addr, 0, 0⟩ false
    rw [show y = _ from halted]
    exact ⟨firmware, rfl, rfl, rfl, rfl, rfl, rfl, rfl⟩

/-! ILLEGAL_OP and PRIV (R117, R118, R124, R142) -/

/-- A field of a word as a number. -/
theorem fld_eq (f : BitVec 56) (lo len : Nat) : fld f lo len = f.toNat / 2 ^ lo % 2 ^ len := by
  simp [fld, BitVec.extractLsb'_toNat, Nat.shiftRight_eq_div_pow]

/-- The fields of format C cover the word. -/
theorem eq_zero_of_cOk {f : BitVec 56} (ok : cOk f false false = true) (imm : cImm f = 0) : f = 0 := by
  have size : f.toNat < 2 ^ 56 := f.isLt
  simp [cOk, zeros, fld_eq] at ok
  rw [cImm, fld_eq] at imm
  exact BitVec.eq_of_toNat_eq (show f.toNat = 0 by omega)

section Illegal

variable {s : State} {c : Nat} {f : BitVec 56} (issues : Issues s c)
include issues

theorem execIllegalOpcode_illegal (w : Word) : execIllegalOpcode c w s = .next ((s.goOn c).precise c causeIllegal 0) :=
  runCore_issues issues _

theorem execAlu_illegal (bad : rOk f = false ∨ 14 ≤ rFN f) : execAlu c f s = .next ((s.goOn c).precise c causeIllegal 0) :=
  regOp_illegal issues (bad.imp_right fun high => by obtain ⟨n, hn⟩ := Nat.exists_eq_add_of_le' high; rw [hn]; rfl)

theorem execMul_illegal (bad : rOk f = false ∨ 4 ≤ rFN f) : execMul c f s = .next ((s.goOn c).precise c causeIllegal 0) :=
  regOp_illegal issues (bad.imp_right fun high => by obtain ⟨n, hn⟩ := Nat.exists_eq_add_of_le' high; rw [hn]; rfl)

theorem execDivide_illegal (bad : rOk f = false ∨ 4 ≤ rFN f) : execDivide c f s = .next ((s.goOn c).precise c causeIllegal 0) :=
  regOp_illegal issues (bad.imp_right fun high => by obtain ⟨n, hn⟩ := Nat.exists_eq_add_of_le' high; rw [hn]; rfl)

theorem execPred_illegal (bad : rOk f = false ∨ 6 ≤ rFN f) : execPred c f s = .next ((s.goOn c).precise c causeIllegal 0) := by
  rw [execPred, runCore_issues issues]
  rcases bad with bad | high
  · rw [bad, legal_false, State.finish_exc]
  · obtain ⟨n, hn⟩ := Nat.exists_eq_add_of_le' high
    have unlisted : decide (n + 6 < 4) = false := by simp
    cases ok : rOk f
    · rw [legal_false, State.finish_exc]
    · simp only [legal_true, hn, unlisted, Bool.false_and, legal_false, State.finish_exc]

theorem execNop_illegal (nonzero : f ≠ 0) : execNop c f s = .next ((s.goOn c).precise c causeIllegal 0) := by
  have bad : (cOk f false false && decide (cImm f = 0)) = false := by
    by_contra h
    simp only [Bool.not_eq_false, Bool.and_eq_true, decide_eq_true_eq] at h
    exact nonzero (eq_zero_of_cOk h.1 h.2)
  rw [execNop, runCore_issues issues, bad, legal_false, State.finish_exc]

end Illegal

/-- Settles O13: one lemma per instruction for ILLEGAL_OP, and `privileged_user` for PRIV. -/
theorem illegalAndPrivileged : Obligations.illegalAndPrivileged := by
  refine ⟨?illegal, ?privileged⟩
  case illegal =>
    intro s c issues
    exact ⟨execIllegalOpcode_illegal issues, fun f => execAlu_illegal issues,
      fun f bad => ⟨execMul_illegal issues bad, execDivide_illegal issues bad⟩, fun f => execPred_illegal issues,
      fun f => execNop_illegal issues⟩
  case privileged =>
    intro s c f issues user t
    refine ⟨fun ok known => ?sysr, fun ok number => ?sysw, fun ok actions => ?sclr, fun ok zero => ⟨?ctxset, ?uenter⟩⟩
    case sysr => rw [exec_sysr, execSysr, runCore_issues issues, privileged_user user, ok, known]; rfl
    case sysw => rw [exec_sysw, execSysw, runCore_issues issues, privileged_user user, ok, number]; rfl
    case sclr => rw [exec_sclr, execSclr, runCore_issues issues, privileged_user user, ok, decide_eq_true actions]; rfl
    case ctxset => rw [exec_ctxset, execCtxset, runCore_issues issues, privileged_user user, ok, zero]; rfl
    case uenter => rw [exec_uenter, execUenter, runCore_issues issues, privileged_user user, ok, zero]; rfl

/-! Fences (R65, R66) -/

section Fence

variable {s : State} {c : Nat} {f : BitVec 56}

/-- A legal fence retires where its kinds are complete, and waits in the state that it leaves otherwise. -/
theorem execFence_legal (issues : Issues s c) (ok : cOk f false false = true) (kinds : cImm f < 64) :
    execFence c f s = .next (if ((s.goOn c).fence c (cImm f)).2 then ((s.goOn c).fence c (cImm f)).1.advance c
      else ((s.goOn c).fence c (cImm f)).1) := by
  rw [execFence, runCore_issues issues, ok, decide_eq_true kinds, Bool.and_self, legal_true]
  generalize (s.goOn c).fence c (cImm f) = r
  obtain ⟨t, complete | waits⟩ := r <;> rfl

/-- A fence without MEM starts nothing; where its kinds are complete it leaves the instruction cache empty if it names it. -/
theorem State.fence_completes {k : Nat} (mem : k.testBit 0 = false) (done : s.fenceDone c k = true) :
    s.fence c k = (if k.testBit 5 then s.setCore c (s.core c).dropICache else s, true) := by
  simp [State.fence, mem, done]

/-- R65, R66: what is left of the kinds of a fence without MEM. -/
theorem State.fenceDone_iff {k : Nat} (mem : k.testBit 0 = false) :
    s.fenceDone c k = true ↔ (k.testBit 1 = true → (s.core c).arrDone = true) ∧ (k.testBit 2 = true → (s.core c).ticketMask = 0) ∧
      (k.testBit 3 = true → (s.core c).sActive = 0) ∧ (k.testBit 4 = true → (s.core c).msgDone = true) ∧
      (k % 16 ≠ 0 → (s.core c).impr = []) := by
  simp only [State.fenceDone, mem, Bool.not_false, Bool.true_or, Bool.true_and, Bool.and_eq_true, Bool.or_eq_true, Bool.not_eq_true',
    decide_eq_true_eq, List.isEmpty_iff, and_assoc, ← Bool.not_eq_true, imp_iff_not_or, ne_eq, not_not]

end Fence

/-- Settles O16: by `execFence_legal`, with `State.fence_completes` where MEM is not named. -/
theorem fenceCompletes : Obligations.fenceCompletes := by
  intro s c f issues ok kinds u x
  have fence := execFence_legal issues ok kinds
  have withoutMem : (cImm f).testBit 0 = false → u.fenceDone c (cImm f) = true →
      exec (.fence c f) s = .next ((if (cImm f).testBit 5 then u.setCore c x.dropICache else u).advance c) := by
    intro mem done
    rw [exec_fence, fence, State.fence_completes mem done]
    rfl
  refine ⟨fun complete => ?complete, fun waits => ?waits, fun mem arr nb str msg impr => ?kinds, fun none => ?none⟩
  case complete => rw [exec_fence, fence, if_pos complete]
  case waits => rw [exec_fence, fence, if_neg (Bool.eq_false_iff.mp waits)]
  case kinds => exact withoutMem mem ((State.fenceDone_iff mem).mpr ⟨arr, nb, str, msg, impr⟩)
  case none =>
    have mem : (cImm f).testBit 0 = false := by simp [none]
    rw [withoutMem mem ((State.fenceDone_iff mem).mpr (by simp [none])), none]
    rfl

/-! Events of a core (R74, R75, R143) -/

section Events

variable {s : State} {c : Nat} (core : c < 1280)
include core

/-- R74: the oldest fault reaches a core in user mode. -/
theorem execImpreciseException_taken {f : Impr} {t : List Impr} (oldest : (s.core c).impr = f :: t) (backed : s.backed c = true)
    (runs : s.dieRuns (c / 256) = true) (idle : (s.core c).wait = none) (user : (s.core c).fw = false) :
    execImpreciseException c s = .next ((s.setCore c { s.core c with impr := t }).takeExc c f true) := by
  simp [execImpreciseException, unit, core, oldest, backed, runs, idle, user]

theorem execImpreciseException_none (none : (s.core c).impr = []) : execImpreciseException c s = .next s := by
  simp [execImpreciseException, unit, core, none]

/-- R143: a management request reaches a core in user mode that takes instructions, and no other. -/
theorem execManagementRequest_eq : execManagementRequest c s =
    .next (if s.canIssue c = true ∧ (s.core c).fw = false then s.setCore c ((s.core c).enterFw 2 6 (s.core c).pc) else s) := by
  cases can : s.canIssue c <;> cases fw : (s.core c).fw <;> simp [execManagementRequest, unit, core, can, fw]

end Events

/-- Settles O17: one lemma per event. -/
theorem coreEvents : Obligations.coreEvents := by
  intro s c core
  refine ⟨fun f t => execImpreciseException_taken core, execImpreciseException_none core, fun can user => ?enters, fun silent => ?stays⟩
  case enters => rw [exec_managementRequest, execManagementRequest_eq core, if_pos ⟨can, user⟩]
  case stays =>
    rw [exec_managementRequest, execManagementRequest_eq core, if_neg]
    rintro ⟨can, user⟩
    simp [can, user] at silent

end Sys2Proof.Machine

/-! Element-wise vector results and compares (R51, R52, R130, R132). -/

namespace Sys2Proof.Machine

/-! Elements -/

@[simp] theorem lanes_length (w : Nat) (v : V512) : (lanes w v).length = 512 / w := by simp [lanes]

theorem lanes_getElem (w : Nat) (v : V512) {k : Nat} (hk : k < (lanes w v).length) : (lanes w v)[k] = lane w v k := by
  simp [lanes]

/-- The widths of elements that are whole bytes. -/
theorem EType.isVInt_width {t : EType} (h : t.isVInt = true) : ∃ n, 0 < n ∧ n ∣ 64 ∧ t.width = 8 * n := by
  cases t <;> simp [EType.isVInt] at h
  case int8 | uint8 => exact ⟨1, by decide, by decide, rfl⟩
  case int16 => exact ⟨2, by decide, by decide, rfl⟩
  case int32 => exact ⟨4, by decide, by decide, rfl⟩

/-- The range of an integer type is not empty. -/
theorem EType.range_le (t : EType) : t.range.1 ≤ t.range.2 := by cases t <;> decide

theorem clampInt_eq {lo hi : Int} (h : lo ≤ hi) (i : Int) : clampInt lo hi i = max lo (min hi i) := by
  unfold clampInt
  split
  · omega
  · split <;> omega

section ElementWise

variable {s : State} {c : Nat} {f : BitVec 56}

/-- An instruction whose result is a list of elements, written under the governing predicate, takes them as the elements of its
destination where they are selected and keeps the others. -/
theorem retireV_elements {i : Instr} {n : Nat} (bytes : 0 < n) (divides : n ∣ 64) {l : List Nat} (length : l.length = 512 / (8 * n))
    (retires : exec i s = .next (s.retireV c (fRD f) ((s.seen c).blendV f (8 * n) (packLanes (8 * n) l)))) {g : Nat → Nat}
    (element : ∀ k (hk : k < l.length), l[k] % 2 ^ (8 * n) = g k % 2 ^ (8 * n)) :
    ∃ v : V512, exec i s = .next (s.retireV c (fRD f) v) ∧ ∀ k, k < 512 / (8 * n) → lane (8 * n) v k =
      if laneActive ((s.seen c).preg (fPG f)) (8 * n) k then g k % 2 ^ (8 * n) else lane (8 * n) ((s.seen c).vreg (fRD f)) k := by
  refine ⟨_, retires, fun k hk => ?_⟩
  have inside : n * (k + 1) ≤ 64 := by
    obtain ⟨m, hm⟩ := divides
    rw [show 512 = 8 * 64 from rfl, Nat.mul_div_mul_left _ _ (by decide), hm, Nat.mul_div_cancel_left _ bytes] at hk
    exact hm ▸ Nat.mul_le_mul_left n hk
  have listed : k < l.length := length ▸ hk
  have packed : lane (8 * n) (packLanes (8 * n) l) k = g k % 2 ^ (8 * n) := by
    rw [lane_packLanes _ _ _ listed (by rw [Nat.mul_assoc]; omega), List.getD_eq_getElem _ _ listed, element k listed]
  rw [Core.blendV, lane_blend n bytes _ _ _ k inside, packed]

end ElementWise

/-! VINT -/

section Vint

variable {s : State} {c : Nat} {f : BitVec 56} (issues : Issues s c) {t : EType} (type : etypeOf (vET f) = some t) (int : t.isVInt = true)
  (ok : zeros f [vfVC, vfET2, vfRND, vfPART, vfIMM, vfZ] = true) (listed : vFN f < 2 ∨ (vFN f < 12 ∧ vSAT f = 0))
include issues type int ok listed

theorem execVint_retires : exec (.vint c f) s = .next (s.retireV c (fRD f) ((s.seen c).blendV f t.width (packLanes t.width
    (List.zipWith (fun a b => (vintOp t (vSAT f = 1) (vFN f) a b).getD 0)
      (lanes t.width ((s.seen c).vreg (fRA f))) (lanes t.width ((s.seen c).vreg (fRB f))))))) := by
  have word : (t.isVInt && zeros f [vfVC, vfET2, vfRND, vfPART, vfIMM, vfZ] && decide (vFN f < 12) &&
      (decide (vSAT f = 0) || decide (vFN f < 2))) = true := by
    simp only [int, ok, Bool.true_and, Bool.and_eq_true, Bool.or_eq_true, decide_eq_true_eq]
    omega
  rw [exec_vint, execVint, runCore_issues issues]
  simp only [type, word, legal_true, State.finish_doneV]

/-- R132: the operation of the FN, element by element. -/
theorem execVint_elements {g : Nat → Nat}
    (op : ∀ k, ∃ r, vintOp t (vSAT f = 1) (vFN f) (lane t.width ((s.seen c).vreg (fRA f)) k) (lane t.width ((s.seen c).vreg (fRB f)) k) = some r ∧
      r % 2 ^ t.width = g k % 2 ^ t.width) :
    ∃ v : V512, exec (.vint c f) s = .next (s.retireV c (fRD f) v) ∧ ∀ k, k < 512 / t.width → lane t.width v k =
      if laneActive ((s.seen c).preg (fPG f)) t.width k then g k % 2 ^ t.width else lane t.width ((s.seen c).vreg (fRD f)) k := by
  have retires := execVint_retires issues type int ok listed
  obtain ⟨n, bytes, divides, width⟩ := EType.isVInt_width int
  rw [width] at retires op ⊢
  refine retireV_elements bytes divides (by simp) retires fun k hk => ?_
  obtain ⟨r, hr, value⟩ := op k
  simpa only [List.getElem_zipWith, lanes_getElem, hr, Option.getD_some] using value

end Vint

/-! VFP, VFMA and VFN -/

section Fp32

variable {s : State} {c : Nat} {f : BitVec 56} (issues : Issues s c) (fp32 : vET f = 8)
include issues fp32

theorem execVfp_retires (ok : zeros f [vfVC, vfET2, vfRND, vfPART, vfSAT, vfIMM, vfZ] = true)
    (listed : vFN f < 5 ∨ (vFN f < 7 ∧ fRB f = 0)) :
    exec (.vfp c f) s = .next (s.retireV c (fRD f) ((s.seen c).blendV f 32 (packLanes 32 (List.zipWith (vfpOp (vFN f))
      (lanes 32 ((s.seen c).vreg (fRA f))) (lanes 32 ((s.seen c).vreg (fRB f))))))) := by
  have fn : (decide (vFN f < 7) && (decide (vFN f < 5) || decide (fRB f = 0))) = true := by
    simp only [Bool.and_eq_true, Bool.or_eq_true, decide_eq_true_eq]
    omega
  rw [exec_vfp, execVfp, runCore_issues issues]
  simp only [fp32, decide_true, ok, Bool.true_and, fn, legal_true, State.finish_doneV]

theorem execVfma_retires (ok : zeros f [vfET2, vfRND, vfPART, vfSAT, vfIMM, vfZ] = true) (listed : vFN f < 3) :
    exec (.vfma c f) s = .next (s.retireV c (fRD f) ((s.seen c).blendV f 32 (packLanes 32 ((List.range 16).map fun k =>
      vfmaOp (vFN f) (lane 32 ((s.seen c).vreg (fRA f)) k) (lane 32 ((s.seen c).vreg (fRB f)) k) (lane 32 ((s.seen c).vreg (fRC f)) k))))) := by
  rw [exec_vfma, execVfma, runCore_issues issues]
  simp only [fp32, decide_true, ok, Bool.true_and, decide_eq_true listed, legal_true, State.finish_doneV]

theorem execVfn_retires (ok : zeros f [vfVB, vfVC, vfET2, vfRND, vfPART, vfSAT, vfIMM, vfZ] = true) (listed : vFN f < 3) :
    exec (.vfn c f) s = .next (s.retireV c (fRD f) ((s.seen c).blendV f 32 (packLanes 32
      ((lanes 32 ((s.seen c).vreg (fRA f))).map (vfnOp (vFN f)))))) := by
  rw [exec_vfn, execVfn, runCore_issues issues]
  simp only [fp32, decide_true, ok, Bool.true_and, decide_eq_true listed, legal_true, State.finish_doneV]

end Fp32

/-- Settles O8: VINT by `execVint_elements`, one operation per FN; the FP32 instructions by `retireV_elements`. -/
theorem vectorElementwise : Obligations.vectorElementwise := by
  intro s c f issues x va vb vc writes
  refine ⟨?vint, ?vfp, ?vfma, ?vfn⟩
  case vint =>
    intro t type int ok listed w fit a b
    have fits : ∀ i : Int, toTwos w (if decide (vSAT f = 1) then clampInt t.range.1 t.range.2 i else i) = fit i := by
      intro i
      simp only [fit, decide_eq_true_eq, clampInt_eq t.range_le]
    have elements : ∀ {n : Nat} {g : Nat → Nat}, (∀ k, ∃ r, vintOp t (vSAT f = 1) n (a k) (b k) = some r ∧ r % 2 ^ w = g k % 2 ^ w) →
        vFN f = n → writes (.vint c f) w g :=
      fun op fn => execVint_elements issues type int ok listed (fn ▸ op)
    exact ⟨elements fun k => ⟨_, rfl, congrArg (· % _) (fits _)⟩, elements fun k => ⟨_, rfl, congrArg (· % _) (fits _)⟩,
      elements fun k => ⟨_, rfl, rfl⟩, elements fun k => ⟨_, rfl, rfl⟩, elements fun k => ⟨_, rfl, rfl⟩, elements fun k => ⟨_, rfl, rfl⟩,
      elements fun k => ⟨_, rfl, rfl⟩, elements fun k => ⟨_, rfl, Nat.mod_mod _ _⟩, elements fun k => ⟨_, rfl, rfl⟩,
      elements fun k => ⟨_, rfl, rfl⟩, elements fun k => ⟨_, rfl, rfl⟩, elements fun k => ⟨_, rfl, rfl⟩⟩
  case vfp =>
    intro fp32 ok listed
    refine retireV_elements (n := 4) (by decide) (by decide) (by simp) (execVfp_retires issues fp32 ok listed) fun k hk => ?_
    simp only [List.getElem_zipWith, lanes_getElem]
    rfl
  case vfma =>
    intro fp32 ok listed
    refine retireV_elements (n := 4) (by decide) (by decide) (by simp) (execVfma_retires issues fp32 ok listed) fun k hk => ?_
    simp only [List.getElem_map, List.getElem_range]
    rfl
  case vfn =>
    intro fp32 ok listed
    refine retireV_elements (n := 4) (by decide) (by decide) (by simp) (execVfn_retires issues fp32 ok listed) fun k hk => ?_
    simp only [List.getElem_map, lanes_getElem]
    rfl

/-! VCMP -/

/-- The number whose bits below `n` are those that `p` selects. -/
theorem foldl_select_lt (p : Nat → Bool) (n : Nat) : (List.range n).foldl (fun m k => if p k then m + 2 ^ k else m) 0 < 2 ^ n := by
  induction n with
  | zero => simp
  | succ n ih =>
    rw [List.range_succ, List.foldl_append, List.foldl_cons, List.foldl_nil, Nat.pow_succ]
    split <;> omega

theorem testBit_foldl_select (p : Nat → Bool) (n k : Nat) :
    ((List.range n).foldl (fun m k => if p k then m + 2 ^ k else m) 0).testBit k = (decide (k < n) && p k) := by
  induction n with
  | zero => simp
  | succ n ih =>
    rw [List.range_succ, List.foldl_append, List.foldl_cons, List.foldl_nil]
    have below := foldl_select_lt p n
    revert below ih
    generalize (List.range n).foldl (fun m k => if p k then m + 2 ^ k else m) 0 = m
    intro ih below
    rcases Nat.lt_trichotomy k n with lt | rfl | gt
    · have higher : (m + 2 ^ n).testBit k = m.testBit k := by rw [Nat.add_comm, Nat.testBit_two_pow_add_gt lt]
      rw [apply_ite (Nat.testBit · k), higher, ite_self, ih]
      simp [lt, Nat.lt_succ_of_lt lt]
    · have clear : m.testBit k = false := Nat.testBit_lt_two_pow below
      have set : (m + 2 ^ k).testBit k = true := by rw [Nat.add_comm, Nat.testBit_two_pow_add_eq, clear]; rfl
      cases p k <;> simp [clear, set]
    · have small : (if p n then m + 2 ^ n else m) < 2 ^ k :=
        Nat.lt_of_lt_of_le (show _ < 2 ^ (n + 1) by rw [Nat.pow_succ]; split <;> omega) (Nat.pow_le_pow_right (by decide) gt)
      rw [Nat.testBit_lt_two_pow small]
      simp only [show ¬ k < n + 1 by omega, decide_false, Bool.false_and]

/-- R132: every byte bit of a compare's predicate. -/
theorem bit_vcmpMask (t : EType) (fn : Nat) (pg : Word) (a b : V512) {k : Nat} (hk : k < 64) :
    bit (vcmpMask t fn pg a b) k = (laneActive pg t.width (k / (t.width / 8)) &&
      cmpElem t fn (lane t.width a (k / (t.width / 8))) (lane t.width b (k / (t.width / 8)))) := by
  rw [bit, vcmpMask, BitVec.getLsbD_ofNat, testBit_foldl_select (fun k => laneActive pg t.width (k / (t.width / 8)) &&
    cmpElem t fn (lane t.width a (k / (t.width / 8))) (lane t.width b (k / (t.width / 8))))]
  simp [hk]

theorem execVcmp_retires {s : State} {c : Nat} {f : BitVec 56} (issues : Issues s c) {t : EType} (type : etypeOf (vET f) = some t)
    (allowed : t.isVInt = true ∨ t = .fp32) (ok : zeros f [vfVC, vfET2, vfRND, vfPART, vfSAT, vfIMM, vfZ] = true) (listed : vFN f < 6)
    (pred : fRD f < 8) :
    exec (.vcmp c f) s = .next (s.retireP c (fRD f)
      (vcmpMask t (vFN f) ((s.seen c).preg (fPG f)) ((s.seen c).vreg (fRA f)) ((s.seen c).vreg (fRB f)))) := by
  have types : (t.isVInt || decide (t = .fp32)) = true := by simpa using allowed
  rw [exec_vcmp, execVcmp, runCore_issues issues]
  simp only [type, types, ok, decide_eq_true listed, decide_eq_true pred, Bool.and_self, legal_true]
  rfl

/-- Settles O9: the bits of the predicate that VCMP writes, by `bit_vcmpMask`. -/
theorem vectorCompare : Obligations.vectorCompare := by
  intro s c f t issues type allowed ok listed pred x
  refine ⟨_, execVcmp_retires issues type allowed ok listed pred, fun k hk => ?_⟩
  rw [bit_vcmpMask _ _ _ _ _ hk, Bool.and_eq_true]

end Sys2Proof.Machine

/-! The frames of the instructions that only compute on registers, or branch (R47, R51, R73, R126 to R140). -/

namespace Sys2Proof.Machine

/-- The registers of a core alone. -/
def Core.regs (x : Core) : Core := { (default : Core) with s := x.s, v := x.v, p := x.p }

/-- What a core holds beside its registers and trace counts. -/
def Core.beside (x : Core) : Core := { x with s := [], v := [], p := [], stat := default }
/-- What of it neither issue nor an exception changes. -/
def Core.held (x : Core) : Core := { x.beside with run := 0, fw := false, pc := 0, wait := none, exc := default, sys := default }

/-- Between two cores, scalar register `rd` alone may differ. -/
def WritesS (rd : Nat) (x y : Core) : Prop := y.v = x.v ∧ y.p = x.p ∧ ∀ r, r ≠ rd → y.sreg r = x.sreg r
/-- The vector registers `vd` alone may differ. -/
def WritesV (vd : List Nat) (x y : Core) : Prop := y.s = x.s ∧ y.p = x.p ∧ ∀ r, r ∉ vd → y.vreg r = x.vreg r
/-- Predicate `pd` alone may differ. -/
def WritesP (pd : Nat) (x y : Core) : Prop := y.s = x.s ∧ y.v = x.v ∧ ∀ r, r ≠ pd → y.preg r = x.preg r
/-- Scalar register and predicate `rd` alone may differ. -/
def WritesSP (rd : Nat) (x y : Core) : Prop := y.v = x.v ∧ ∀ r, r ≠ rd → y.sreg r = x.sreg r ∧ y.preg r = x.preg r
/-- No register differs. -/
def WritesNone (x y : Core) : Prop := y.s = x.s ∧ y.v = x.v ∧ y.p = x.p

section Registers

variable (x : Core)

theorem writesS_setS (rd : Nat) (w : Word) : WritesS rd x.regs (x.setS rd w).regs :=
  ⟨x.setS_v rd w, x.setS_p rd w, fun _ other => x.sreg_setS_ne w other⟩

theorem writesV_setV (rd : Nat) (w : V512) : WritesV [rd] x.regs (x.setV rd w).regs :=
  ⟨rfl, rfl, fun _ other => x.vreg_setV_ne w (by simpa using other)⟩

theorem WritesV.mono {vd wd : List Nat} {y : Core} (h : WritesV vd x y) (sub : vd ⊆ wd) : WritesV wd x y :=
  ⟨h.1, h.2.1, fun r other => h.2.2 r fun named => other (sub named)⟩

theorem WritesV.trans {vd : List Nat} {y z : Core} (h : WritesV vd x y) (k : WritesV vd y z) : WritesV vd x z :=
  ⟨k.1.trans h.1, k.2.1.trans h.2.1, fun r other => (k.2.2 r other).trans (h.2.2 r other)⟩

theorem writesP_setP (pd : Nat) (w : Word) : WritesP pd x.regs (x.setP pd w).regs :=
  ⟨x.setP_s pd w, x.setP_v pd w, fun _ other => x.preg_setP_ne w other⟩

theorem WritesS.toSP {rd : Nat} {y : Core} (h : WritesS rd x.regs y.regs) : WritesSP rd x.regs y.regs :=
  ⟨h.1, fun r other => ⟨h.2.2 r other, by rw [Core.preg, h.2.1, ← Core.preg]⟩⟩

theorem WritesP.toSP {pd : Nat} {y : Core} (h : WritesP pd x.regs y.regs) : WritesSP pd x.regs y.regs :=
  ⟨h.2.1, fun r other => ⟨by rw [Core.sreg, h.1, ← Core.sreg], h.2.2 r other⟩⟩

end Registers

/-- From `u` to `v` core `c` computes on its registers: of the module its free values are counted on, and of the core the registers change
as `W` says, and its trace counts. -/
structure Computed (W : Core → Core → Prop) (c : Nat) (u v : State) : Prop where
  outside : v = { u with cores := v.cores, fresh := v.fresh }
  others : ∀ k, k ≠ c → v.core k = u.core k
  beside : (v.core c).beside = (u.core c).beside
  regs : W (u.core c).regs (v.core c).regs

/-- What an instruction answers that only computes on registers, or branches. -/
def Ir.Computes (W : Core → Core → Prop) (c : Nat) (u : State) : Ir → Prop
  | .exc v _ _ => v = u
  | .done v | .jump v _ => Computed W c u v
  | .held _ | .wait _ => False

section Computes

variable {W : Core → Core → Prop} {c : Nat} {u : State}

theorem Computed.refl (regs : W (u.core c).regs (u.core c).regs) : Computed W c u u := ⟨rfl, fun _ _ => rfl, rfl, regs⟩

theorem Computed.setCore_fresh {y : Core} (beside : y.beside = (u.core c).beside) (regs : W (u.core c).regs y.regs) (n : Nat) :
    Computed W c u (({ u with fresh := n } : State).setCore c y) :=
  ⟨rfl, fun _ other => State.core_setCore_ne _ y other, by rwa [State.core_setCore_self], by rwa [State.core_setCore_self]⟩

theorem Computed.setCore {y : Core} (beside : y.beside = (u.core c).beside) (regs : W (u.core c).regs y.regs) :
    Computed W c u (u.setCore c y) := Computed.setCore_fresh beside regs u.fresh

/-- The trace counts may change besides. -/
theorem Computed.setCore_stat {y : Core} (beside : y.beside = (u.core c).beside) (regs : W (u.core c).regs y.regs) (n : CoreStat) :
    Computed W c u (u.setCore c { y with stat := n }) := Computed.setCore beside regs

theorem Ir.Computes.legal {ok : Bool} {r : Ir} (h : r.Computes W c u) : (Machine.legal u ok r).Computes W c u := by
  cases ok
  · exact rfl
  · exact h

theorem Core.beside_setS (x : Core) (rd : Nat) (w : Word) : (x.setS rd w).beside = x.beside := by
  unfold Core.setS
  split <;> rfl

theorem Core.beside_setV (x : Core) (rd : Nat) (w : V512) : (x.setV rd w).beside = x.beside := rfl

theorem Core.beside_setP (x : Core) (pd : Nat) (w : Word) : (x.setP pd w).beside = x.beside := by
  unfold Core.setP
  split <;> rfl

theorem Ir.Computes.doneS (rd : Nat) (w : Word) : (Machine.doneS u c rd w).Computes (WritesS rd) c u :=
  Computed.setCore (Core.beside_setS ..) (writesS_setS ..)

theorem Ir.Computes.doneV (rd : Nat) (w : V512) : (Machine.doneV u c rd w).Computes (WritesV [rd]) c u :=
  Computed.setCore (Core.beside_setV ..) (writesV_setV ..)

theorem Ir.Computes.doneV_fresh (n rd : Nat) (w : V512) : (Machine.doneV { u with fresh := n } c rd w).Computes (WritesV [rd]) c u :=
  Computed.setCore_fresh (Core.beside_setV ..) (writesV_setV ..) n

end Computes

/-! Issue -/

theorem State.goOn_frame (s : State) (c : Nat) : s.goOn c = { s with cores := (s.goOn c).cores } := by
  unfold State.goOn
  split <;> rfl

theorem State.goOn_core_ne (s : State) {c k : Nat} (other : k ≠ c) : (s.goOn c).core k = s.core k := by
  unfold State.goOn
  split
  · rfl
  · exact s.core_setCore_ne _ other

/-- RUN alone may change as an instruction goes on. -/
theorem State.seen_eq (s : State) (c : Nat) : s.seen c = { s.core c with run := (s.seen c).run } := by
  unfold State.seen State.goOn
  split
  · rfl
  · rw [State.core_setCore_self]

theorem State.setPc_core (s : State) (c pc : Nat) : (s.setPc c pc).core c = { s.core c with pc := pc % 2 ^ 48 } :=
  s.core_setCore_self c _

theorem State.setPc_core_ne (s : State) {c k : Nat} (other : k ≠ c) (pc : Nat) : (s.setPc c pc).core k = s.core k :=
  s.core_setCore_ne _ other

/-- R73, R75: an exception halts the core and leaves its registers and whatever else software names. -/
theorem takeExc_halts (s : State) (c : Nat) (f : Impr) (imprecise : Bool) : ((s.takeExc c f imprecise).core c).run = 5 ∧
    ((s.takeExc c f imprecise).core c).held = (s.core c).held ∧ ((s.takeExc c f imprecise).core c).regs = (s.core c).regs := by
  cases fw : (s.core c).fw
  · rw [takeExc_user fw f imprecise]; exact ⟨rfl, rfl, rfl⟩
  · rw [takeExc_firmware fw f imprecise]; exact ⟨rfl, rfl, rfl⟩

/-- The frame of an instruction that only computes on registers, or branches, from `s` to `t`. -/
structure RegisterFrame (W : Core → Core → Prop) (c : Nat) (s t : State) : Prop where
  outside : t = { s with cores := t.cores, reports := t.reports, fresh := t.fresh }
  others : ∀ k, k ≠ c → t.core k = s.core k
  held : (t.core c).held = (s.core c).held
  mode : (t.core c).run ≠ 5 → (t.core c).exc = (s.core c).exc ∧ (t.core c).fw = (s.core c).fw ∧ (t.core c).sys = (s.core c).sys
  regs : W (s.core c).regs (t.core c).regs

section Issued

variable {W : Core → Core → Prop} {c : Nat} {s : State}

/-- Retiring after a computation. -/
theorem Computed.retires {v : State} (h : Computed W c (s.goOn c) v) (pc : Nat) : RegisterFrame W c s (v.setPc c pc) where
  outside := by
    have goes := s.goOn_frame c
    have computes := h.outside
    rw [State.setPc, State.setCore, computes, goes]
  others k other := by rw [State.setPc_core_ne _ other, h.others k other, State.goOn_core_ne _ other]
  held := by
    have beside := congrArg Core.held h.beside
    rw [State.core_goOn_self, State.seen_eq] at beside
    rw [State.setPc_core]
    exact beside
  mode _ := by
    have beside := h.beside
    rw [State.core_goOn_self, State.seen_eq] at beside
    rw [State.setPc_core]
    exact ⟨(congrArg Core.exc beside :), (congrArg Core.fw beside :), (congrArg Core.sys beside :)⟩
  regs := by
    have regs := h.regs
    rw [State.core_goOn_self, State.seen_eq] at regs
    rw [State.setPc_core]
    exact regs

/-- A precise exception with no other effect. -/
theorem RegisterFrame.of_precise (refl : ∀ x, W x x) (cause addr : Nat) : RegisterFrame W c s ((s.goOn c).precise c cause addr) := by
  obtain ⟨halts, held, regs⟩ := takeExc_halts (s.goOn c) c ⟨cause, addr, 0, 0⟩ false
  rw [← State.precise, State.core_goOn_self, State.seen_eq] at held regs
  constructor
  case outside =>
    have goes := s.goOn_frame c
    have raises := takeExc_frame (s.goOn c) c ⟨cause, addr, 0, 0⟩ false
    rw [State.precise, raises, goes]
  case others =>
    intro k other
    rw [State.precise, takeExc_ne other, State.goOn_core_ne _ other]
  case held => exact held
  case mode => exact fun run => absurd halts run
  case regs =>
    rw [regs]
    exact refl _

/-- An instruction that answers as one that computes on registers keeps the frame. -/
theorem Ir.Computes.frame (refl : ∀ x, W x x) {r : Ir} (h : r.Computes W c (s.goOn c)) {t : State} (run : s.finish c r = .next t) :
    RegisterFrame W c s t := by
  cases r with
  | exc v cause addr =>
    cases run
    rw [show v = _ from h]
    exact .of_precise refl cause addr
  | done v => cases run; exact Computed.retires h _
  | jump v pc => cases run; exact Computed.retires h pc
  | held ev => exact h.elim
  | wait v => exact h.elim

end Issued

/-! The meanings, one by one -/

/-- The meaning of `i` for core `c` in `s` computes on registers as `W` says. -/
def RegisterOp (W : Core → Core → Prop) (c : Nat) (s : State) (i : Instr) : Prop :=
  ∃ r : Ir, exec i s = s.finish c r ∧ r.Computes W c (s.goOn c)

theorem RegisterOp.frame {W : Core → Core → Prop} (refl : ∀ x, W x x) {c : Nat} {s t : State} {i : Instr} (op : RegisterOp W c s i)
    (run : exec i s = .next t) : RegisterFrame W c s t := by
  obtain ⟨r, meaning, computes⟩ := op
  exact computes.frame refl (meaning ▸ run)

section Scalar

variable {s : State} {c : Nat} (issues : Issues s c) (f : BitVec 56)
include issues

theorem regOp_computes {i : Instr} {op : Nat → Word → Word → Option Word} (meaning : exec i s = regOp c f op s) :
    RegisterOp (WritesS (fRD f)) c s i := by
  refine ⟨_, by rw [meaning, regOp, runCore_issues issues], .legal ?_⟩
  split
  · exact .doneS ..
  · exact rfl

theorem immOp_computes {i : Instr} {op : Word → Word → Word} (meaning : exec i s = immOp c f op s) :
    RegisterOp (WritesS (fRD f)) c s i :=
  ⟨_, by rw [meaning, immOp, runCore_issues issues], .legal (.doneS ..)⟩

theorem execShi_computes : RegisterOp (WritesS (fRD f)) c s (.shi c f) := by
  refine ⟨_, by rw [exec_shi, execShi, runCore_issues issues], .legal ?_⟩
  split
  · exact .doneS ..
  · exact rfl

theorem execLi_computes : RegisterOp (WritesS (fRD f)) c s (.li c f) :=
  ⟨_, by rw [exec_li, execLi, runCore_issues issues], .legal (.doneS ..)⟩

theorem execLiu_computes : RegisterOp (WritesS (fRD f)) c s (.liu c f) :=
  ⟨_, by rw [exec_liu, execLiu, runCore_issues issues], .legal (.doneS ..)⟩

theorem execLih_computes : RegisterOp (WritesS (fRD f)) c s (.lih c f) :=
  ⟨_, by rw [exec_lih, execLih, runCore_issues issues], .legal (.doneS ..)⟩

theorem execRdctr_computes : RegisterOp (WritesS (fRD f)) c s (.rdctr c f) :=
  ⟨_, by rw [exec_rdctr, execRdctr, runCore_issues issues], .legal (.doneS ..)⟩

theorem execVmovs_computes : RegisterOp (WritesS (fRD f)) c s (.vmovs c f) := by
  refine ⟨_, by rw [exec_vmovs, execVmovs, runCore_issues issues], ?_⟩
  split
  · exact rfl
  · exact .legal (.doneS ..)

theorem execJal_computes : RegisterOp (WritesS (fRD f)) c s (.jal c f) := by
  refine ⟨_, by rw [exec_jal, execJal, runCore_issues issues], .legal ?_⟩
  rw [branchTo]
  split
  · exact rfl
  · exact Ir.Computes.doneS ..

theorem execJalr_computes : RegisterOp (WritesS (fRD f)) c s (.jalr c f) := by
  refine ⟨_, by rw [exec_jalr, execJalr, runCore_issues issues], .legal ?_⟩
  extract_lets t
  split
  · exact rfl
  · split
    · exact rfl
    · exact Ir.Computes.doneS ..

end Scalar

/-- FN 2 may use free values (log entry 112). -/
theorem State.planeBytes_fresh (s : State) (l : List Fv) (e : Option Int) :
    ∃ n, (s.planeBytes l e).1 = { s with fresh := n } := by
  unfold State.planeBytes
  extract_lets b k
  split
  · exact ⟨s.fresh, rfl⟩
  · exact ⟨s.fresh + 33, rfl⟩

section Vector

variable {s : State} {c : Nat} (issues : Issues s c) (f : BitVec 56)
include issues

theorem execVint_computes : RegisterOp (WritesV [fRD f]) c s (.vint c f) := by
  refine ⟨_, by rw [exec_vint, execVint, runCore_issues issues], ?_⟩
  split
  · exact rfl
  · exact .legal (.doneV ..)

theorem execVfp_computes : RegisterOp (WritesV [fRD f]) c s (.vfp c f) :=
  ⟨_, by rw [exec_vfp, execVfp, runCore_issues issues], .legal (.doneV ..)⟩

theorem execVfma_computes : RegisterOp (WritesV [fRD f]) c s (.vfma c f) :=
  ⟨_, by rw [exec_vfma, execVfma, runCore_issues issues], .legal (.doneV ..)⟩

theorem execVfn_computes : RegisterOp (WritesV [fRD f]) c s (.vfn c f) :=
  ⟨_, by rw [exec_vfn, execVfn, runCore_issues issues], .legal (.doneV ..)⟩

theorem execVred_computes : RegisterOp (WritesV [fRD f]) c s (.vred c f) := by
  refine ⟨_, by rw [exec_vred, execVred, runCore_issues issues], ?_⟩
  split
  · exact rfl
  · exact .legal (.doneV ..)

theorem execVperm_computes : RegisterOp (WritesV [fRD f]) c s (.vperm c f) := by
  refine ⟨_, by rw [exec_vperm, execVperm, runCore_issues issues], ?_⟩
  extract_lets
  split
  · exact rfl
  · exact .legal (.doneV ..)

theorem execVbcast_computes : RegisterOp (WritesV [fRD f]) c s (.vbcast c f) := by
  refine ⟨_, by rw [exec_vbcast, execVbcast, runCore_issues issues], ?_⟩
  split
  · exact rfl
  · exact .legal (.doneV ..)

/-- A conversion counts the NaNs that it meets in the trace counts. -/
theorem execVcvt_computes : RegisterOp (WritesV [fRD f]) c s (.vcvt c f) := by
  refine ⟨_, by rw [exec_vcvt, execVcvt, runCore_issues issues], ?_⟩
  split
  · split
    exact .legal (Computed.setCore_stat (Core.beside_setV (s.seen c) ..) (writesV_setV ..) _)
  · exact rfl

theorem execVplane_computes : RegisterOp (WritesV [fRD f]) c s (.vplane c f) := by
  refine ⟨_, by rw [exec_vplane, execVplane, runCore_issues issues], ?_⟩
  split
  · exact rfl
  · extract_lets fn va vb0 act emax grp
    split
    rename_i v out answer
    split
    · exact .legal (.doneV ..)
    · obtain ⟨n, fresh⟩ : ∃ n, v = { s.goOn c with fresh := n } := by
        split at answer
        · exact ⟨(s.goOn c).fresh, (congrArg Prod.fst answer).symm⟩
        · obtain ⟨n, fresh⟩ := State.planeBytes_fresh (s.goOn c) grp
            (if vb0 = 0x7FFFFFFF ∨ grp.any (fun v => !v.isFinite) then none else some (sext 32 vb0))
          exact ⟨n, (congrArg Prod.fst answer).symm.trans fresh⟩
      rw [fresh]
      exact .legal (.doneV_fresh ..)

/-- With FN 0 the scale goes to a byte of RC besides. -/
theorem execVquant_computes : RegisterOp (WritesV [fRD f, fRC f]) c s (.vquant c f) := by
  refine ⟨_, by rw [exec_vquant, execVquant, runCore_issues issues], ?_⟩
  split
  · exact rfl
  · extract_lets fn four src grp sat given
    split
    extract_lets data x1 x2
    have elements : x1.beside = (s.seen c).beside ∧ WritesV [fRD f, fRC f] (s.seen c).regs x1.regs :=
      ⟨Core.beside_setV .., (writesV_setV _ (fRD f) _).mono _ (by simp)⟩
    have scale : x2.beside = (s.seen c).beside ∧ WritesV [fRD f, fRC f] (s.seen c).regs x2.regs := by
      unfold x2
      split
      · exact ⟨(Core.beside_setV ..).trans elements.1, elements.2.trans _ ((writesV_setV x1 (fRC f) _).mono _ (by simp))⟩
      · exact elements
    exact .legal (Computed.setCore_stat scale.1 scale.2 _)

end Vector

section Predicates

variable {s : State} {c : Nat} (issues : Issues s c) (f : BitVec 56)
include issues

theorem execVcmp_computes : RegisterOp (WritesP (fRD f)) c s (.vcmp c f) := by
  refine ⟨_, by rw [exec_vcmp, execVcmp, runCore_issues issues], ?_⟩
  split
  · exact rfl
  · exact .legal (Computed.setCore (Core.beside_setP ..) (writesP_setP ..))

theorem execPred_computes : RegisterOp (WritesSP (fRD f)) c s (.pred c f) := by
  refine ⟨_, by rw [exec_pred, execPred, runCore_issues issues], .legal ?_⟩
  split
  · exact .legal (Computed.setCore (Core.beside_setS ..) (writesS_setS ..).toSP)
  · exact .legal (Computed.setCore (Core.beside_setP ..) (writesP_setP ..).toSP)
  · exact .legal (Computed.setCore (Core.beside_setP ..) (writesP_setP ..).toSP)

theorem execNop_computes : RegisterOp WritesNone c s (.nop c f) := by
  refine ⟨_, by rw [exec_nop, execNop, runCore_issues issues], .legal ?_⟩
  exact Computed.refl ⟨rfl, rfl, rfl⟩

theorem execBr_computes : RegisterOp WritesNone c s (.br c f) := by
  refine ⟨_, by rw [exec_br, execBr, runCore_issues issues], .legal ?_⟩
  rw [branchTo]
  split
  · split
    · exact rfl
    · exact Computed.refl ⟨rfl, rfl, rfl⟩
  · exact Computed.refl ⟨rfl, rfl, rfl⟩

end Predicates

/-- The part of the frame that every register instruction keeps, in the words of O58. -/
theorem RegisterFrame.common {W : Core → Core → Prop} {c : Nat} {s t : State} (h : RegisterFrame W c s t) :
    t = { s with cores := t.cores, reports := t.reports, fresh := t.fresh } ∧ (∀ k, k ≠ c → t.core k = s.core k) ∧
    ((t.core c).a = (s.core c).a ∧ (t.core c).q = (s.core c).q ∧ (t.core c).m = (s.core c).m ∧ (t.core c).arr = (s.core c).arr ∧
      (t.core c).blk = (s.core c).blk ∧ (t.core c).tickets = (s.core c).tickets ∧ (t.core c).ctx = (s.core c).ctx ∧
      (t.core c).epoch = (s.core c).epoch ∧ (t.core c).job = (s.core c).job ∧ (t.core c).sbuf = (s.core c).sbuf ∧
      (t.core c).impr = (s.core c).impr) ∧
    ((t.core c).run ≠ 5 → (t.core c).exc = (s.core c).exc ∧ (t.core c).fw = (s.core c).fw ∧ (t.core c).sys = (s.core c).sys) :=
  ⟨h.outside, h.others, ⟨(congrArg Core.a h.held :), (congrArg Core.q h.held :), (congrArg Core.m h.held :), (congrArg Core.arr h.held :),
    (congrArg Core.blk h.held :), (congrArg Core.tickets h.held :), (congrArg Core.ctx h.held :), (congrArg Core.epoch h.held :),
    (congrArg Core.job h.held :), (congrArg Core.sbuf h.held :), (congrArg Core.impr h.held :)⟩, h.mode⟩

/-- Settles O58: every meaning computes on registers, and `RegisterOp.frame` gives its frame. -/
theorem registerFrames : Obligations.registerFrames := by
  intro s t c f issues sc ve x y
  have scalar : ∀ op ∈ sc, RegisterOp (WritesS (fRD f)) c s (op c f) := by
    simp only [sc, List.forall_mem_cons]
    exact ⟨regOp_computes issues f (exec_alu ..), regOp_computes issues f (exec_mul ..), regOp_computes issues f (exec_divide ..),
      immOp_computes issues f (exec_addi ..), immOp_computes issues f (exec_andi ..), immOp_computes issues f (exec_ori ..),
      immOp_computes issues f (exec_xori ..), execShi_computes issues f, immOp_computes issues f (exec_slti ..),
      immOp_computes issues f (exec_sltiu ..), execLi_computes issues f, execLiu_computes issues f,
      execLih_computes issues f, execJal_computes issues f, execJalr_computes issues f, execRdctr_computes issues f,
      execVmovs_computes issues f, List.forall_mem_nil _⟩
  have vector : ∀ op ∈ ve, RegisterOp (WritesV [fRD f]) c s (op c f) := by
    simp only [ve, List.forall_mem_cons]
    exact ⟨execVint_computes issues f, execVfp_computes issues f, execVfma_computes issues f, execVfn_computes issues f,
      execVred_computes issues f, execVperm_computes issues f, execVbcast_computes issues f, execVcvt_computes issues f,
      execVplane_computes issues f, List.forall_mem_nil _⟩
  have none : ∀ op ∈ [Instr.nop, .br], RegisterOp WritesNone c s (op c f) := by
    simp only [List.forall_mem_cons]
    exact ⟨execNop_computes issues f, execBr_computes issues f, List.forall_mem_nil _⟩
  have scalarFrame := fun op mem => (scalar op mem).frame (t := t) fun x => ⟨rfl, rfl, fun _ _ => rfl⟩
  have vectorFrame := fun op mem => (vector op mem).frame (t := t) fun x => ⟨rfl, rfl, fun _ _ => rfl⟩
  have quantFrame := (execVquant_computes issues f).frame (t := t) fun x => ⟨rfl, rfl, fun _ _ => rfl⟩
  have compareFrame := (execVcmp_computes issues f).frame (t := t) fun x => ⟨rfl, rfl, fun _ _ => rfl⟩
  have predFrame := (execPred_computes issues f).frame (t := t) fun x => ⟨rfl, fun _ _ => ⟨rfl, rfl⟩⟩
  have noneFrame := fun op mem => (none op mem).frame (t := t) fun x => ⟨rfl, rfl, rfl⟩
  refine ⟨?common, fun op mem run => (scalarFrame op mem run).regs, fun op mem run => ?vector, fun run => ?quant,
    fun run => (compareFrame run).regs, fun run => (predFrame run).regs, fun op mem run => (noneFrame op mem run).regs⟩
  case common =>
    intro op mem run
    simp only [List.mem_append, List.mem_cons, List.not_mem_nil, or_false] at mem
    rcases mem with (mem | mem) | rfl | rfl | rfl | rfl | rfl
    · exact (scalarFrame op mem run).common
    · exact (vectorFrame op mem run).common
    · exact (quantFrame run).common
    · exact (compareFrame run).common
    · exact (predFrame run).common
    · exact (noneFrame _ (by simp) run).common
    · exact (noneFrame _ (by simp) run).common
  case vector =>
    obtain ⟨scalars, predicates, others⟩ := (vectorFrame op mem run).regs
    exact ⟨scalars, predicates, fun r other => others r (by simpa using other)⟩
  case quant =>
    obtain ⟨scalars, predicates, others⟩ := (quantFrame run).regs
    exact ⟨scalars, predicates, fun r data scale => others r (by simp [data, scale])⟩

end Sys2Proof.Machine

/-! Near-bank issue (R63, R166 to R168): one lemma per outcome, and O28 from them. -/

namespace Sys2Proof.Machine

section NearBankIssue

variable {s : State} {c : Nat} {f : BitVec 56} (issues : Issues s c)
include issues

/-- R166, R167: a legal NISSUE whose image and banks pass every check issues its program under the ticket found. -/
theorem execNissue_issues {p t : Nat} (word : zeros f [(53, 3), (0, 27)] = true) (set : bits ((s.seen c).sreg (fRB f)) 24 40 = 0)
    (even : fRC f % 2 = 0) (aligned : ((s.seen c).sreg (fRA f)).toNat % 8 = 0)
    (fits : ((s.seen c).sreg (fRA f)).toNat + 8 * (fld f 27 6 + 1) ≤ 2 ^ 20) (backed : (s.goOn c).phys c = some p)
    (allowed : (s.goOn c).banksAllow c p (bankSet ((s.seen c).sreg (fRB f))) = true)
    (good : (s.goOn c).scratchUe c ((s.seen c).sreg (fRA f)).toNat (8 * (fld f 27 6 + 1)) = false)
    (ticket : (List.range 16).find? (fun t => !(s.seen c).ticketOpen t) = some t) :
    exec (.nissue c f) s = s.finish c (doneS (((s.goOn c).scratchFix c ((s.seen c).sreg (fRA f)).toNat (8 * (fld f 27 6 + 1))).issueProgram c p t
      (wordsLe ((s.goOn c).scratchRead c ((s.seen c).sreg (fRA f)).toNat (8 * (fld f 27 6 + 1)))) ((s.seen c).sreg (fRC f))
      (if fRC f = 0 then 0 else (s.seen c).sreg (fRC f + 1)) (bankSet ((s.seen c).sreg (fRB f)))) c (fRD f) (BitVec.ofNat 64 t)) := by
  rw [exec_nissue, execNissue, runCore_issues issues]
  have below : ¬ 2 ^ 20 ≤ ((s.seen c).sreg (fRA f)).toNat := by omega
  simp only [word, set, even, decide_true, Bool.and_self, legal_true, aligned, ne_eq, not_true_eq_false, if_false, if_neg below,
    if_neg (Nat.not_lt.mpr fits), backed, allowed, Bool.not_true, Bool.false_eq_true, good, ticket]

section Wait

variable (word : zeros f [(53, 3), (48, 5), (38, 5), (33, 5), (27, 6), (0, 27)] = true) (set : bits ((s.seen c).sreg (fRA f)) 16 48 = 0)
include word set

/-- R168: NWAIT is held while a named ticket is open. -/
theorem execNwait_eq : exec (.nwait c f) s = s.finish c
    (if (List.range 16).any fun t => ((s.seen c).sreg (fRA f)).toNat.testBit t && (s.seen c).ticketOpen t then .held true
      else .done (s.goOn c)) := by
  rw [exec_nwait, execNwait, runCore_issues issues]
  simp only [word, set, decide_true, Bool.and_self, legal_true]

theorem execNwait_retires (closed : ∀ t, t < 16 → ((s.seen c).sreg (fRA f)).toNat.testBit t = true → (s.seen c).ticketOpen t = false) :
    exec (.nwait c f) s = .next (s.retire c) := by
  rw [execNwait_eq issues word set, if_neg (by simpa using closed)]
  rfl

theorem execNwait_held (isOpen : ∃ t, t < 16 ∧ ((s.seen c).sreg (fRA f)).toNat.testBit t = true ∧ (s.seen c).ticketOpen t = true)
    (user : (s.core c).fw = false) : exec (.nwait c f) s = .next (s.setCore c { s.core c with run := 4 }) := by
  rw [execNwait_eq issues word set, if_pos (by simpa using isOpen)]
  simp only [State.finish, State.noteRun, user, if_true, Bool.false_eq_true, if_false]

end Wait

theorem execNstat_retires (word : zeros f [(53, 3), (43, 5), (38, 5), (33, 5), (27, 6), (0, 27)] = true) :
    exec (.nstat c f) s = .next (s.retireS c (fRD f) (BitVec.ofNat 64 (s.seen c).ticketMask)) := by
  rw [exec_nstat, execNstat, runCore_issues issues, word, legal_true, State.finish_doneS]

end NearBankIssue

/-- Settles O28: one lemma per outcome of NISSUE, NWAIT and NSTAT. -/
theorem nearBankIssue : Obligations.nearBankIssue := by
  intro s c f issues u x ra rb len
  refine ⟨?issue, fun word set => ⟨execNwait_retires issues word set, execNwait_held issues word set⟩, execNstat_retires issues⟩
  case issue =>
    intro p t word set even aligned fits backed banks good ticket
    have allowed : u.banksAllow c p (bankSet rb) = true := by
      simp only [State.banksAllow, List.all_eq_true, Bool.and_eq_true, Bool.not_eq_true']
      exact banks
    exact execNissue_issues issues word set even aligned fits backed allowed good ticket

end Sys2Proof.Machine

/-! What the stream engine does on its own (R67 to R72, R157, R189): one lemma per event, and O23 from them. -/

namespace Sys2Proof.Machine

/-! A request that stands alone at a controller (R189, R190) -/

theorem eligible_alone {free : Nat → Bool} {r : HReq} (confirmed : r.waits = false) (bank : free (bankOf r.off) = true) :
    eligible free [r] [] = [r] := by
  have first : r.words.any ([] : List Nat).contains = false := List.any_eq_false.mpr fun _ _ => by simp
  simp [eligible, confirmed, bank, first]

theorem grantClass_alone (x : Hal) {r : HReq} (cls : r.cls < 3) : grantClass x [r] = some r.cls := by
  simp only [grantClass, hasClass, List.any_cons, List.any_nil, Bool.or_false, Bool.and_eq_true, decide_eq_true_eq]
  interval_cases r.cls <;> simp

section Alone

variable {s : State} {p : Nat} {r : HReq} (alone : (s.hal p).reqs = [r]) (confirmed : r.waits = false) (cls : r.cls < 3)
  {free : Nat → Bool} (bank : free (bankOf r.off) = true)
include alone confirmed cls bank

theorem State.nextGrant_alone : s.nextGrant p free (fun _ => true) = some r := by
  simp [State.nextGrant, alone, eligible_alone confirmed bank, grantClass_alone _ cls]

theorem State.serveWhile_alone : s.serveWhile p free (fun _ => true) (fun x _ => x.reqs.contains r) 1 = s.grantReq p r := by
  simp only [State.serveWhile, State.nextGrant_alone alone confirmed cls bank]
  exact if_pos (by simp [alone])

end Alone

/-- The grant of a request that stands alone, at a bank that runs no program. -/
theorem State.grantReq_alone {s : State} {p : Nat} {r : HReq} (alone : (s.hal p).reqs = [r]) (bank : s.bankFree p (bankOf r.off) = true) :
    s.grantReq p r = (s.setHal p { s.hal p with reqs := [] }).perform p r := by
  have idle : (tget (s.nbu p).units (bankOf r.off)).active = false := by simpa [State.bankFree] using bank
  simp [State.grantReq, State.countServed, alone, idle]

/-- R67, R69: a run-ahead read that nothing refuses brings its line, or a failed one. -/
theorem State.perform_prefetch {s : State} {p : Nat} {r : HReq} (flush : r.flush = false) (write : r.write = false) (pre : r.pre = true)
    (due : s.lateRefusal p r = false) {t : State} {d : Except (Nat × Nat) Bytes}
    (read : s.readLine p r.off r.len r.mask.testBit
      ⟨r.req, r.cls, (s.core r.core).job, some (s.core r.core).ctx, r.core / 64, true⟩ = (t, d)) :
    s.perform p r = t.lineArrives r.core r.off r.len d.toOption := by
  simp only [State.perform, flush, write, pre, due, Bool.false_eq_true, if_false, if_true, read]
  cases d <;> rfl

/-- Upsets change stored symbols alone. -/
theorem State.upsets_frame (s : State) (p line : Nat) (ups : List Upset) :
    s.upsets p line ups = { s with flips := (s.upsets p line ups).flips } := by
  unfold State.upsets
  induction ups generalizing s with
  | nil => rfl
  | cons a l ih =>
    rw [List.foldl_cons, ih]
    split <;> rfl

/-- R410: the check of a request whose turn has come looks neither at the requests nor at the stored symbols. -/
theorem State.lateRefusal_congr (s : State) (p : Nat) (r : HReq) (flips : Tbl Byte) (reqs : List HReq) :
    (({ s with flips := flips } : State).setHal p { s.hal p with reqs := reqs }).lateRefusal p r = s.lateRefusal p r := by
  have test : ∀ b, (({ s with flips := flips } : State).setHal p { s.hal p with reqs := reqs }).underTest p b = s.underTest p b := by
    intro b
    simp [State.underTest]
  unfold State.lateRefusal State.coreRefused State.refused
  simp only [test]
  rfl

/-! The events -/

section Events

variable {s : State} {c p : Nat} (core : c < 1280) (backed : s.phys c = some p) (runs : s.dieRuns (c / 256) = true)
include core backed runs

/-- R67, R71: the run-ahead read of the next unit of a stream. -/
theorem execStreamPrefetch_reads {q v : Nat} (stream : q < 16) (active : ((s.core c).desc q).state = 1) (reads : ((s.core c).desc q).dir = 0)
    (room : (s.core c).sbuf.length < 512)
    (next : nextPrefetch (s.core c) q ((s.core c).desc q) ((s.core c).desc q).depth ((s.core c).desc q).low = some v)
    {off n cls : Nat} (hoff : ((s.core c).desc q).unitOff v = off) (hn : ((s.core c).desc q).inLine v = n)
    (hcls : (if (s.core c).consumerWaits q v n then 0 else ((s.core c).desc q).cls) = cls)
    (free : (s.core c).ticketHolds off (16 * n) = false) (allowed : s.refused (.ctx (s.core c).ctx) c p off false = false) :
    execStreamPrefetch c q s = .next ((s.setHal p { s.hal p with reqs := (s.hal p).reqs ++
        [⟨.ownCore, c, false, cls, off, false, [], 2 ^ (16 * n) - 1, 16 * n, false, false, true⟩] }).setCore c
      { s.core c with
        sbuf := (s.core c).sbuf ++ [⟨q, v, off, 16 * n, cls, [], false, false, false⟩]
        stat := { (s.core c).stat with prefetches := (s.core c).stat.prefetches + 1 } }) := by
  subst hoff hn hcls
  simp only [execStreamPrefetch, unit, core, stream, backed, runs, active, reads, room, next, free, allowed, decide_true, Bool.and_self,
    Bool.or_self, if_true, Bool.false_eq_true, if_false]

/-- R67, R69: the grant of a run-ahead read that stands alone at the controller. -/
theorem execStreamLineArrive_alone {r : HReq} (alone : (s.hal p).reqs = [r]) (pre : r.pre = true) (confirmed : r.waits = false)
    (flush : r.flush = false) (write : r.write = false) (cls : r.cls < 3) (bank : s.bankFree p (bankOf r.off) = true)
    (due : s.lateRefusal p r = false) (ups : List Upset) {u : State} (hu : s.upsets p (r.off / 128) ups = u) {t : State}
    {d : Except (Nat × Nat) Bytes}
    (read : (u.setHal p { u.hal p with reqs := [] }).readLine p r.off r.len r.mask.testBit
      ⟨r.req, r.cls, (s.core r.core).job, some (s.core r.core).ctx, r.core / 64, true⟩ = (t, d)) :
    execStreamLineArrive c (r.off / 128) ups s = .next (t.lineArrives r.core r.off r.len d.toOption) := by
  have upset := s.upsets_frame p (r.off / 128) ups
  rw [hu] at upset
  have granted : u.grantReq p r = t.lineArrives r.core r.off r.len d.toOption := by
    rw [upset] at read ⊢
    rw [State.grantReq_alone (by exact alone) (by exact bank)]
    exact State.perform_prefetch flush write pre ((s.lateRefusal_congr p r ..).trans due) read
  have served := State.serveWhile_alone (s := u) (p := p) (free := s.bankFree p) (by rw [upset]; exact alone) confirmed cls bank
  simp only [execStreamLineArrive, unit, core, decide_true, if_true, backed, alone, List.find?_cons, pre, Bool.and_self, runs,
    Bool.not_true, Bool.false_eq_true, if_false, hu, List.length_singleton]
  rw [served, granted]

end Events

/-- Settles O23: one lemma per event of a stream. -/
theorem streamEvents : Obligations.streamEvents := by
  intro s c p core backed runs x
  refine ⟨?prefetch, ?arrival, ?write⟩
  case prefetch =>
    intro q v stream active reads room next free allowed off n cls
    exact execStreamPrefetch_reads core backed runs stream active reads room next rfl rfl rfl free allowed
  case arrival =>
    intro off n cls ups class_ alone bank due u b r
    have arrives := fun {d} (h : r.2 = d) => execStreamLineArrive_alone core backed runs alone rfl rfl rfl rfl class_ bank due ups rfl
      (t := r.1) (d := d) (by rw [← h])
    exact ⟨fun d read => arrives read, fun e read => arrives read⟩
  case write =>
    intro q data rest stream puts free write t
    have waitsFor : (s.core c).ticketUnits ((s.core c).desc q) ((s.core c).desc q).got 4 = false := free
    rw [exec_streamWrite, execStreamWrite]
    simp only [unit, core, stream, decide_true, Bool.and_self, if_true, backed, show ((s.core c).desc q).puts = _ from puts, runs, waitsFor,
      Bool.not_true, Bool.or_self, Bool.false_eq_true, if_false]
    rfl

end Sys2Proof.Machine

/-! Loads: issue, refusals and data paths (R54, R64, R121 to R124, R130, R249, R364), and O18 from them. -/

namespace Sys2Proof.Machine

@[simp] theorem State.finish_loadDone (s t : State) (c : Nat) (w : LdWait) : s.finish c (loadDone t c w) = .next (t.loaded c w) := by
  cases vec : w.vec <;> simp [loadDone, State.loaded, State.finish, vec]

@[simp] theorem State.finish_loadWait (s t : State) (c : Nat) (w : LdWait) : s.finish c (loadWait t c w) = .next (t.waits c w) := rfl

@[simp] theorem State.finish_held (s : State) (c : Nat) (ev : Bool) : s.finish c (.held ev) = .next (s.noteRun c (if ev then 4 else 3)) := rfl

/-! Issue of a load -/

section Issue

variable {s : State} {c : Nat} (issues : Issues s c) {a : Core → MemAcc} {w : Core → LdWait}
  (cause : (s.goOn c).accCause (s.seen c) (a (s.seen c)) = none)
include issues cause

/-- R130: with no active byte nothing is performed. -/
theorem execLoad_nothing (none : (a (s.seen c)).lines = []) : execLoad c true a w s = .next (s.retire c) := by
  rw [execLoad, runCore_issues issues]
  simp only [legal_true, cause, none, if_true]
  rfl

section Active

variable (active : (a (s.seen c)).lines ≠ [])
include active

theorem execLoad_held {ev : Bool} (held : (s.goOn c).accHeld c (s.seen c) (a (s.seen c)) = some ev) :
    execLoad c true a w s = .next (s.noteRun c (if ev then 4 else 3)) := by
  rw [execLoad, runCore_issues issues]
  simp only [legal_true, cause, if_neg active, held, State.finish_held]

variable (free : (s.goOn c).accHeld c (s.seen c) (a (s.seen c)) = none)
include free

theorem execLoad_full (full : (s.goOn c).hostFull (a (s.seen c)) = true) : execLoad c true a w s = .next (s.noteRun c 3) := by
  rw [execLoad, runCore_issues issues]
  simp only [legal_true, cause, if_neg active, free, full, if_true, State.finish_held]
  rfl

theorem execLoad_performs (room : (s.goOn c).hostFull (a (s.seen c)) = false) :
    execLoad c true a w s = s.finish c ((s.goOn c).load c (s.seen c) (a (s.seen c)) (w (s.seen c))) := by
  rw [execLoad, runCore_issues issues]
  simp only [legal_true, cause, if_neg active, free, room, Bool.false_eq_true, if_false]

end Active

end Issue

/-! The data path -/

section Data

variable {s u : State} {c : Nat} {x : Core} {a : MemAcc} {w : LdWait}

theorem State.load_register {o : Nat} (control : u.toControl c a = some o) (width : a.len = 4 ∨ a.len = 8) :
    s.finish c (u.load c x a w) = .next ((u.loadReg o a.len true).1.loaded c { w with buf := leBytes a.len (u.loadReg o a.len true).2.toNat }) := by
  simp only [State.load, control, if_pos width, State.finish_loadDone]

theorem State.load_wrongWidth {o : Nat} (control : u.toControl c a = some o) (width : ¬(a.len = 4 ∨ a.len = 8)) :
    s.finish c (u.load c x a w) = .next (((u.accessFault 0 0 o).freeBytes a.len).2.loaded c
      { w with buf := ((u.accessFault 0 0 o).freeBytes a.len).1 }) := by
  simp only [State.load, control, if_neg width, State.finish_loadDone]

section Memory

variable (memory : u.toControl c a = none)
include memory

/-- R124: a load that is refused at a part moves nothing. -/
theorem State.load_refused {cause : Nat} (refusal : firstCause (a.lines.filterMap (u.loadCause c x a)) = some cause) :
    s.finish c (u.load c x a w) = .next (u.precise c cause (a.da c)) := by
  simp only [State.load, memory, refusal, State.finish_exc]

variable (allowed : firstCause (a.lines.filterMap (u.loadCause c x a)) = none) {r : State × LdWait × Option Nat}
  (parts : a.lines.foldl (State.loadPart c x a) (u, w, none) = r)
include allowed parts

theorem State.load_done (clean : r.2.2 = none) (all : r.2.1.left = 0) : s.finish c (u.load c x a w) = .next (r.1.loaded c r.2.1) := by
  obtain ⟨t, v, e⟩ := r
  subst clean
  simp only [State.load, memory, allowed, parts, show v.left = 0 from all, if_true, State.finish_loadDone]

theorem State.load_waits (clean : r.2.2 = none) (some : r.2.1.left ≠ 0) : s.finish c (u.load c x a w) = .next (r.1.waits c r.2.1) := by
  obtain ⟨t, v, e⟩ := r
  subst clean
  simp only [State.load, memory, allowed, parts, if_neg (show v.left ≠ 0 from some), State.finish_loadWait]

/-- R208: a part that meets a cause ends the load. -/
theorem State.load_fails {cause : Nat} (bad : r.2.2 = some cause) :
    s.finish c (u.load c x a w) = .next ((r.1.dropReads c).precise c cause (a.da c)) := by
  obtain ⟨t, v, e⟩ := r
  subst bad
  simp only [State.load, memory, allowed, parts, State.finish_exc]

end Memory

end Data

/-! One part -/

/-- A part with an active byte has a run of them. -/
theorem runsOf_ne_nil {a : MemAcc} {p : Nat × Nat} (part : p ∈ a.lines) : a.runsOf p ≠ [] := by
  have active := (List.mem_filter.mp part).2
  rw [MemAcc.runsOf, activeRuns]
  revert active
  generalize List.range p.2 = l
  have grows : ∀ (l : List Nat) (acc : List (Nat × Nat)), (acc ≠ [] ∨ l.any (fun k => a.en (p.1 - a.ea + k)) = true) →
      l.foldl (fun l k =>
        if a.en (p.1 - a.ea + k) then
          match l.getLast? with
          | some (b, n) => if b + n = p.1 + k then l.dropLast ++ [(b, n + 1)] else l ++ [(p.1 + k, 1)]
          | none => [(p.1 + k, 1)]
        else l) acc ≠ [] := by
    intro l
    induction l with
    | nil => intro acc h; simpa using h
    | cons k l ih =>
      intro acc h
      rw [List.foldl_cons]
      refine ih _ ?_
      by_cases en : a.en (p.1 - a.ea + k) = true
      · left
        rw [if_pos en]
        split
        · split <;> simp
        · simp
      · rw [if_neg en]
        simpa [en] using h
  exact fun active => grows l [] (.inr active)

/-- Reads of host memory: one more is waited for with each run. -/
theorem hostPart_left (a : MemAcc) (l : List (Nat × Nat)) (st : State × LdWait) :
    (l.foldl (State.hostPart a) st).2.left = st.2.left + l.length := by
  induction l generalizing st with
  | nil => rfl
  | cons r l ih =>
    rw [List.foldl_cons, ih, List.length_cons]
    simp only [State.hostPart]
    omega

section Part

variable {u : State} {c : Nat} {x : Core} {a : MemAcc} {w : LdWait} {p : Nat × Nat}

section Scratch

variable {k off : Nat} (place : u.partPlace c a p = some (.scratch k off))
include place

theorem loadPart_scratch (good : ((activeParts off p.2 (a.enAt p.1) 8).any fun e => u.scratchUe k e.1 e.2) = false) :
    State.loadPart c x a (u, w, none) p = ((activeParts off p.2 (a.enAt p.1) 8).foldl (fun s e => s.scratchFix k e.1 e.2) u,
      { w with buf := patch w.buf (p.1 - a.ea) (u.scratchRead k off p.2) }, none) := by
  simp only [State.loadPart, Option.isSome_none, Bool.false_eq_true, if_false, place, State.readScratch, good]

theorem loadPart_scratchBad (bad : ((activeParts off p.2 (a.enAt p.1) 8).any fun e => u.scratchUe k e.1 e.2) = true) :
    State.loadPart c x a (u, w, none) p = ((activeParts off p.2 (a.enAt p.1) 8).foldl (fun s e => s.scratchFix k e.1 e.2) u,
      w, some causeScratch) := by
  simp only [State.loadPart, Option.isSome_none, Bool.false_eq_true, if_false, place, State.readScratch, bad, if_true]

end Scratch

section Slice

variable {k off : Nat} (place : u.partPlace c a p = some (.slice k off))
include place

theorem loadPart_cached (path : a.path = 1) :
    State.loadPart c x a (u, w, none) p = (u.queueCached c (a.creq c x .load [] p), { w with left := w.left + 1 }, none) := by
  simp only [State.loadPart, Option.isSome_none, Bool.false_eq_true, if_false, place, path, if_true]

variable (path : a.path = 0) {q : Nat} (backed : u.phys k = some q) (free : u.bankFree q (bankOf off) = true) {t : State}
include path backed free

theorem loadPart_read {d : Bytes} (read : (u.turn q (byCore x c k 0) off p.2 true).readLine q off p.2 (a.enAt p.1) (byCore x c k 0) = (t, .ok d)) :
    State.loadPart c x a (u, w, none) p = (t, { w with buf := patch w.buf (p.1 - a.ea) d }, none) := by
  simp only [State.loadPart, Option.isSome_none, Bool.false_eq_true, if_false, place, path, Nat.zero_ne_one, backed, free, if_true, read]

theorem loadPart_unreadable {cause word : Nat}
    (read : (u.turn q (byCore x c k 0) off p.2 true).readLine q off p.2 (a.enAt p.1) (byCore x c k 0) = (t, .error (cause, word))) :
    State.loadPart c x a (u, w, none) p = (t, w, some cause) := by
  simp only [State.loadPart, Option.isSome_none, Bool.false_eq_true, if_false, place, path, Nat.zero_ne_one, backed, free, if_true, read]

end Slice

theorem loadPart_remote {m o : Nat} (place : u.partPlace c a p = some (.remote m o)) :
    State.loadPart c x a (u, w, none) p = ((a.runsOf p).foldl (fun s r => (s.remoteReq (.core c) false r.1 r.2 []).1) u,
      { w with left := w.left + (a.runsOf p).length }, none) := by
  simp only [State.loadPart, Option.isSome_none, Bool.false_eq_true, if_false, place]

theorem loadPart_host {h : Nat} (place : u.partPlace c a p = some (.host h)) :
    State.loadPart c x a (u, w, none) p = (((a.runsOf p).foldl (State.hostPart a) (u, w)).1, ((a.runsOf p).foldl (State.hostPart a) (u, w)).2, none) := by
  simp only [State.loadPart, Option.isSome_none, Bool.false_eq_true, if_false, place]

end Part

/-- Settles O18: the issue by the lemmas of `execLoad`, its data path by those of `State.load`, a load of one part by that of its place. -/
theorem loadsComplete : Obligations.loadsComplete := by
  intro s c f issues u x path
  have holds : ∀ (i : Instr) (a : Core → MemAcc) (w : Core → LdWait), exec i s = execLoad c true a w s → (w x).left = 0 →
      path i (a x) (w x) := by
    intro i a w meaning start cause
    rw [meaning]
    refine ⟨execLoad_nothing issues cause, fun active => ⟨fun ev => execLoad_held issues cause active,
      fun free => execLoad_full issues cause active free, fun free room => ?performs⟩⟩
    rw [execLoad_performs issues cause active free room]
    refine ⟨fun o control => ⟨State.load_register control, State.load_wrongWidth control⟩, fun memory => ?memory⟩
    intro refusal r
    refine ⟨fun cause refused => State.load_refused memory refused, fun allowed => ⟨State.load_done memory allowed rfl,
      State.load_waits memory allowed rfl, fun cause => State.load_fails memory allowed rfl, fun p single => ?part⟩⟩
    have part : p ∈ (a x).lines := single ▸ List.mem_singleton_self p
    have alone : ∀ {t}, State.loadPart c x (a x) (u, w x, none) p = t → (a x).lines.foldl (State.loadPart c x (a x)) (u, w x, none) = t :=
      fun h => by rw [single]; exact h
    have some : 0 < ((a x).runsOf p).length := List.length_pos_iff.mpr (runsOf_ne_nil part)
    refine ⟨fun k off place => ?scratch, fun k off q place path backed free => ?slice, fun k off place path => ?cached,
      fun m o place => ?remote, fun h place => ?host⟩
    case scratch =>
      exact ⟨fun good => State.load_done memory allowed (alone (loadPart_scratch place good)) rfl start,
        fun bad => State.load_fails memory allowed (alone (loadPart_scratchBad place bad)) rfl⟩
    case slice =>
      exact ⟨fun t d read => State.load_done memory allowed (alone (loadPart_read place path backed free read)) rfl start,
        fun t cause k read => State.load_fails memory allowed (alone (loadPart_unreadable place path backed free read)) rfl⟩
    case cached =>
      have waits := State.load_waits (s := s) memory allowed (alone (loadPart_cached place path)) rfl (Nat.succ_ne_zero _)
      rwa [start] at waits
    case remote =>
      have waits := State.load_waits (s := s) memory allowed (alone (loadPart_remote place)) rfl (by dsimp only; omega)
      rwa [start, Nat.zero_add] at waits
    case host =>
      exact State.load_waits memory allowed (alone (loadPart_host place)) rfl (by dsimp only; rw [hostPart_left]; omega)
  refine ⟨fun ok => holds _ (accS f) (fun x => ⟨[], fRD f, false, 2 ^ mSIZE f, mSX f, 0, 64, mEA f x, none, List.replicate (2 ^ mSIZE f) 0, 0⟩)
      ?scalar rfl, fun ok => holds _ (accV f) (fun x => ⟨[], fRD f, true, 64, false, x.preg (fPG f), 8 * 2 ^ mSIZE f, mEA f x, none,
        List.replicate 64 0, 0⟩) ?vector rfl⟩
  case scalar => rw [exec_ld, execLd, ok]
  case vector => rw [exec_vld, execVld, ok]

end Sys2Proof.Machine

/-! Stores: issue, refusals and data paths (R50, R54, R64, R121, R125, R130), and O19 from them. -/

namespace Sys2Proof.Machine

/-! Issue of a store -/

section Issue

variable {s : State} {c : Nat} (issues : Issues s c) {a : Core → MemAcc} {data : Core → Bytes}
  (cause : (s.goOn c).accCause (s.seen c) (a (s.seen c)) = none)
include issues cause

/-- R130: with no active byte nothing is performed. -/
theorem execStore_nothing (none : (a (s.seen c)).lines = []) : execStore c true a data s = .next (s.retire c) := by
  rw [execStore, runCore_issues issues]
  simp only [legal_true, cause, none, if_true]
  rfl

variable (active : (a (s.seen c)).lines ≠ [])
include active

theorem execStore_held {ev : Bool} (held : (s.goOn c).accHeld c (s.seen c) (a (s.seen c)) = some ev) :
    execStore c true a data s = .next (s.noteRun c (if ev then 4 else 3)) := by
  rw [execStore, runCore_issues issues]
  simp only [legal_true, cause, if_neg active, held, State.finish_held]

theorem execStore_performs (free : (s.goOn c).accHeld c (s.seen c) (a (s.seen c)) = none) :
    execStore c true a data s = s.finish c ((s.goOn c).store c (s.seen c) (a (s.seen c)) (data (s.seen c))) := by
  rw [execStore, runCore_issues issues]
  simp only [legal_true, cause, if_neg active, free]

end Issue

/-! The data path -/

section Data

variable {s u : State} {c : Nat} {x : Core} {a : MemAcc} {data : Bytes}

theorem State.store_register {o : Nat} (control : u.toControl c a = some o) (width : a.len = 4 ∨ a.len = 8) :
    s.finish c (u.store c x a data) = .next ((u.storeReg o a.len (ofLe data) true).advance c) := by
  simp only [State.store, control, if_pos width]
  rfl

theorem State.store_wrongWidth {o : Nat} (control : u.toControl c a = some o) (width : ¬(a.len = 4 ∨ a.len = 8)) :
    s.finish c (u.store c x a data) = .next ((u.accessFault 0 0 o).advance c) := by
  simp only [State.store, control, if_neg width]
  rfl

section Memory

variable (memory : u.toControl c a = none)
include memory

/-- R125: the core refuses a part in its own scratch or slice at once. -/
theorem State.store_refused {cause : Nat} (own : firstCause (a.lines.filterMap (u.ownCause c x a data)) = some cause) :
    s.finish c (u.store c x a data) = .next (u.precise c cause (a.da c)) := by
  simp only [State.store, memory, own, State.finish_exc]

variable (own : firstCause (a.lines.filterMap (u.ownCause c x a data)) = none)
include own

/-- R125: a home refuses later. -/
theorem State.store_refusedAtHome {cause : Nat} (home : firstCause (a.lines.filterMap (u.homeCause c x a)) = some cause) :
    s.finish c (u.store c x a data) = .next ((u.imprecise c ⟨cause, a.ea, 0, 0⟩).advance c) := by
  simp only [State.store, memory, own, home]
  rfl

theorem State.store_parts (home : firstCause (a.lines.filterMap (u.homeCause c x a)) = none) :
    s.finish c (u.store c x a data) = .next ((a.lines.foldl (State.storePart c x a data) u).advance c) := by
  simp only [State.store, memory, own, home]
  rfl

end Memory

end Data

/-! One part -/

section Part

variable {u : State} {c : Nat} {x : Core} {a : MemAcc} {data : Bytes} {p : Nat × Nat}

theorem storePart_scratch {k off : Nat} (place : u.partPlace c a p = some (.scratch k off)) :
    State.storePart c x a data u p = u.scratchWrite k off (a.bytesAt data p) (a.enAt p.1) := by
  simp only [State.storePart, place]

theorem storePart_cached {k off : Nat} (place : u.partPlace c a p = some (.slice k off)) (path : a.path = 1) :
    State.storePart c x a data u p = (u.queueCached c (a.creq c x .store data p)).addOutst c 1 := by
  simp only [State.storePart, place, path, if_true]

theorem storePart_slice {k off q : Nat} (place : u.partPlace c a p = some (.slice k off)) (path : a.path ≠ 1) (backed : u.phys k = some q)
    {t : State} {waits : Bool}
    (write : u.writeStore q off (a.bytesAt data p) (a.enAt p.1) (decide (k = c)) c (byCore x c k 2) = (t, waits)) :
    State.storePart c x a data u p = if waits then t.addOutst c 1 else t := by
  simp only [State.storePart, place, if_neg path, backed, write]

theorem storePart_remote {m o : Nat} (place : u.partPlace c a p = some (.remote m o)) :
    State.storePart c x a data u p =
      ((a.runsOf p).foldl (fun s r => (s.remoteReq (.core c) true r.1 r.2 (a.bytesAt data r)).1) u).addOutst c (a.runsOf p).length := by
  simp only [State.storePart, place]

theorem storePart_host {h : Nat} (place : u.partPlace c a p = some (.host h)) {t : State}
    (writes : (a.runsOf p).foldl (fun s r => s.hostWrite (r.1 % 2 ^ 40) (a.bytesAt data r)) u = t) :
    State.storePart c x a data u p =
      t.setCore c { t.core c with hostDirty := (a.runsOf p).getLast?.map fun r => (r.1 + r.2 - 1) % 2 ^ 40 } := by
  simp only [State.storePart, place, writes]

end Part

/-- Settles O19: the issue by the lemmas of `execStore`, its data path by those of `State.store`, a store of one part by that of its
place. -/
theorem storesComplete : Obligations.storesComplete := by
  intro s c f issues u x path
  have holds : ∀ (i : Instr) (a : Core → MemAcc) (data : Core → Bytes), exec i s = execStore c true a data s → path i (a x) (data x) := by
    intro i a data meaning cause
    rw [meaning]
    refine ⟨execStore_nothing issues cause, fun active => ⟨fun ev => execStore_held issues cause active, fun free => ?performs⟩⟩
    rw [execStore_performs issues cause active free]
    refine ⟨fun o control => ⟨State.store_register control, State.store_wrongWidth control⟩, fun memory => ?memory⟩
    intro own home
    refine ⟨fun cause refused => State.store_refused memory refused, fun cause kept refused => State.store_refusedAtHome memory kept refused,
      fun kept taken => ⟨State.store_parts memory kept taken, fun p single => ?part⟩⟩
    have alone : ∀ {t}, State.storePart c x (a x) (data x) u p = t →
        s.finish c (u.store c x (a x) (data x)) = .next (t.advance c) := by
      intro t part
      rw [State.store_parts memory kept taken, single, List.foldl_cons, List.foldl_nil, part]
    exact ⟨fun k off place => alone (storePart_scratch place), fun k off place path => alone (storePart_cached place path),
      fun k off q place path backed => alone (storePart_slice place path backed rfl), fun m o place => alone (storePart_remote place),
      fun h place => alone (storePart_host place rfl)⟩
  refine ⟨fun ok => holds _ (accS f) (fun x => leBytes (2 ^ mSIZE f) (x.sreg (fRD f)).toNat) ?scalar,
    fun ok => holds _ (accV f) (fun x => vbytes (x.vreg (fRD f))) ?vector⟩
  case scalar => rw [exec_st, execSt, ok]
  case vector => rw [exec_vst, execVst, ok]

end Sys2Proof.Machine

/-! Why O59 fails: a table of controllers that lists a physical core twice. `State.dropReads` maps the table of controllers, and `tmap` leaves out
an entry that becomes the default: where a table lists its key again, the second entry, which nothing saw before, is then the controller's
state. A vector store across the end of slice 0 first lets a refused read of core 1 have its turn at controller 0; the read is dropped, so
the first entry of controller 1 leaves the table; the store's second line then finds the second entry, and the flush that waits there
writes a code word that neither the store nor a request of the state before touches. -/

namespace Sys2Proof.Machine

namespace StoreFrameRefutation

/-- A core in user mode whose s1 is 32 bytes below the end of slice 0. -/
def storing : Core := { (default : Core) with run := 3, icache := [(0, 15)], s := [(1, 2 ^ 28 - 32)] }
/-- A core of another context that waits for a load. -/
def waiting : Core := { (default : Core) with run := 3, ctx := 5, wait := some default }
/-- The read of that load, which waits at a controller. -/
def read : HReq := ⟨.otherCore, 1, false, 0, 0, false, [], 1, 1, false, false, false⟩
/-- The flush of a whole code word at slice offset 64. -/
def flush : HReq := ⟨.merge, 0, false, 0, 64, true, List.replicate 32 0xFF, fullMask, 32, false, true, false⟩
/-- A controller that holds one request. -/
def holding (r : HReq) : Hal := { (default : Hal) with reqs := [r] }
/-- A bank that context 0 owns. -/
def owned : Owner := { (default : Owner) with owned := true }

/-- Two backed cores, of which core 0 stores; the second entry of controller 1 holds the flush. -/
def twice : State :=
  { State.reset with
    perstOut := true
    boot := { State.reset.boot with state := 1 }
    map := [(0, 1), (1, 2)]
    dies := [(0, { (default : Die) with up := true, locked := true })]
    own := [(0, owned), (127, owned), (128, owned)]
    cores := [(0, storing), (1, waiting)]
    hals := [(0, holding read), (1, holding read), (1, holding flush)] }

/-- `vst` of v0 at s1, PATH 0, elements of one byte, under p0. -/
def word : BitVec 56 := BitVec.ofNat 56 (2 ^ 43)

/-- The first byte of the word that is flushed: byte 64 of slice 1. -/
def byte : Nat := 2 ^ 28 + 64

theorem twice_issues : Issues twice 0 := ⟨by decide, by decide, by decide, by decide⟩

/-- The byte in the state that a command leaves. -/
def byteIn : Host.Outcome State Fault Refusal → Byte
  | .next t => tget t.mem byte
  | _ => 0

theorem byteIn_store : byteIn (exec (.vst 0 word) twice) = 0xFF := by decide +kernel

/-- The store changes the byte. -/
theorem store_changes_byte : ∃ t, exec (.vst 0 word) twice = .next t ∧ tget t.mem byte ≠ tget twice.mem byte := by
  obtain ⟨t, runs⟩ : ∃ t, exec (.vst 0 word) twice = .next t := by
    rw [exec_vst, execVst, execStore]
    exact runCore_next (by decide) _
  have written := byteIn_store
  rw [runs] at written
  exact ⟨t, runs, by rw [show tget t.mem byte = 0xFF from written]; decide⟩

/-- The store touches the last 32 bytes of slice 0 and the first 32 of slice 1. -/
theorem store_lines : (accV word (twice.seen 0)).lines = [(2 ^ 28 - 32, 32), (2 ^ 28, 32)] := by decide

theorem store_places : (twice.goOn 0).partPlace 0 (accV word (twice.seen 0)) (2 ^ 28 - 32, 32) = some (.slice 0 (2 ^ 28 - 32)) ∧
    (twice.goOn 0).partPlace 0 (accV word (twice.seen 0)) (2 ^ 28, 32) = some (.slice 1 0) ∧
    (twice.goOn 0).phys 0 = some 0 ∧ (twice.goOn 0).phys 1 = some 1 := by decide

theorem not_storesByte : ¬ (twice.goOn 0).storesByte 0 (accV word (twice.seen 0)) byte := by
  obtain ⟨place0, place1, phys0, phys1⟩ := store_places
  rintro ⟨part, mem, k, off, p, place, backed, i, inside, -, hit⟩
  rw [store_lines, List.mem_cons, List.mem_singleton] at mem
  unfold byte at hit
  rcases mem with rfl | rfl
  · obtain ⟨rfl, rfl⟩ := Place0.slice.inj (Option.some.inj (place0.symm.trans place))
    obtain rfl := Option.some.inj (phys0.symm.trans backed)
    dsimp only at inside
    omega
  · obtain ⟨rfl, rfl⟩ := Place0.slice.inj (Option.some.inj (place1.symm.trans place))
    obtain rfl := Option.some.inj (phys1.symm.trans backed)
    dsimp only at inside
    omega

/-- No controller has an entry in its merge buffer, or a write or a flush in its queue. -/
theorem controllers_idle (p : Nat) : (twice.hal p).merge = [] ∧ ∀ r ∈ (twice.hal p).reqs, r.write = false ∧ r.flush = false := by
  have table : twice.hal p = holding read ∨ twice.hal p = default := by
    simp only [State.hal, twice, tget]
    split
    · exact .inl rfl
    · split
      · exact .inl rfl
      · exact .inr rfl
  rcases table with h | h <;> rw [h]
  · exact ⟨rfl, fun r mem => List.mem_singleton.mp mem ▸ ⟨rfl, rfl⟩⟩
  · exact ⟨rfl, fun r mem => absurd mem List.not_mem_nil⟩

theorem not_waitsAt : ¬ twice.waitsAt byte := by
  rintro (⟨p, e, mem, -⟩ | ⟨p, r, mem, waits, -⟩)
  · rw [(controllers_idle p).1] at mem
    exact List.not_mem_nil mem
  · obtain ⟨write, flush⟩ := (controllers_idle p).2 r mem
    simp [write, flush] at waits

end StoreFrameRefutation

open StoreFrameRefutation in
/-- Refutes O59: in `twice` the second clause fails at `byte`. -/
theorem not_storeFrames : ¬ Obligations.storeFrames := by
  intro h
  obtain ⟨t, runs, changed⟩ := store_changes_byte
  obtain ⟨-, memory, -⟩ := (h twice t 0 word twice_issues).2 (.inr (by decide)) runs
  exact changed (memory byte not_storesByte not_waitsAt (.inl (by decide)))

end Sys2Proof.Machine

/-! Conversion, quantisation and plane split of vector elements (R96, R112, R133, R135, R136). -/

namespace Sys2Proof.Machine

/-- One more field that is zero. -/
theorem zeros_with {f : BitVec 56} {l m : List (Nat × Nat)} (rest : zeros f l = true) {r : Nat × Nat} (zero : fld f r.1 r.2 = 0)
    (named : ∀ q ∈ m, q = r ∨ q ∈ l) : zeros f m = true := by
  simp only [zeros, List.all_eq_true, decide_eq_true_eq] at rest ⊢
  intro q mem
  rcases named q mem with rfl | other
  · exact zero
  · exact rest q other

/-- The instruction of core `c` retires with the registers of `y`, and the trace counter of lost NaNs reads `n`. -/
def State.retireNans (s : State) (c : Nat) (y : Core) (n : Nat) : State :=
  ((s.goOn c).setCore c { y with stat := { y.stat with nanSrc := n } }).advance c

/-- R133: the elements of the destination after a conversion of part `part`. -/
def cvtLanes (t v : EType) (rtz sat : Bool) (part : Nat) (va vd : V512) : List Nat :=
  let p := vcvtPlace t.width v.width part
  (lanes v.width vd).take p.2.2 ++ ((List.range p.2.1).map fun k => v.conv rtz sat (t.val (lane t.width va (p.1 + k)))) ++
    (lanes v.width vd).drop (p.2.2 + p.2.1)

/-- R135: the group that VQUANT quantises, of 16 elements or, for E2M1, of 32. -/
def quantSource (t : EType) (va vb : V512) : List Fv :=
  (lanes 32 va ++ if t = .e2m1 then lanes 32 vb else []).map f32

theorem execVcvt_retires {s : State} {c : Nat} {f : BitVec 56} (issues : Issues s c) {t v : EType} (source : etypeOf (vET f) = some t)
    (target : etypeOf (vET2 f) = some v)
    (ok : zeros f [vfVB, vfVC, vfIMM, vfFN, vfZ] = true) (rnd : vRND f < 2) (sat : vSAT f = 0 ∨ v = .e5m2)
    (part : vPART f < vcvtParts t.width v.width) :
    ∃ n, exec (.vcvt c f) s = .next (s.retireNans c ((s.seen c).setV (fRD f) ((s.seen c).blendV f v.width (packLanes v.width
      (cvtLanes t v (vRND f = 1) (vSAT f = 1) (vPART f) ((s.seen c).vreg (fRA f)) ((s.seen c).vreg (fRD f)))))) n) := by
  have word : (zeros f [vfVB, vfVC, vfIMM, vfFN, vfZ] && decide (vRND f < 2) && (decide (vSAT f = 0) || decide (v = .e5m2)) &&
      decide (vPART f < vcvtParts t.width v.width)) = true := by
    simp only [ok, Bool.true_and, Bool.and_eq_true, Bool.or_eq_true, decide_eq_true_eq]
    exact ⟨⟨rnd, sat⟩, part⟩
  rw [exec_vcvt, execVcvt, runCore_issues issues]
  simp only [source, target, word, legal_true, List.map_map]
  exact ⟨_, rfl⟩

section Quantise

variable {s : State} {c : Nat} {f : BitVec 56} (issues : Issues s c) {t : EType} (target : etypeOf (vET2 f) = some t)
  (listed : t = .e4m3 ∨ t = .e5m2 ∨ t = .e2m1) (fp32 : vET f = 8)
  (ok : zeros f [vfRND, vfZ] = true) (second : t = .e2m1 ∨ fRB f = 0) (sat : vSAT f = 0 ∨ t = .e5m2) (part : vPART f < 4)

include listed fp32 ok second sat part in
/-- The fields of a legal VQUANT, FN apart. -/
theorem vquant_legal :
    (decide (vET f = 8) && (decide (t = .e4m3) || decide (t = .e5m2) || decide (t = .e2m1)) && zeros f [vfRND, vfZ] &&
      (decide (t = .e2m1) || decide (fRB f = 0)) && (decide (vSAT f = 0) || decide (t = .e5m2)) && decide (vPART f < 4)) = true := by
  simp only [Bool.and_eq_true, Bool.or_eq_true, decide_eq_true_eq, or_assoc]
  exact ⟨⟨⟨⟨⟨fp32, listed⟩, ok⟩, second⟩, sat⟩, part⟩

include issues target listed fp32 ok second sat part

/-- R112: FN 0 takes the scale from the group, and puts it into a byte of RC after the elements. -/
theorem execVquant_ownScale (fn : vFN f = 0) :
    let x := s.seen c
    let q := quantGroup t (vSAT f = 1) (quantSource t (x.vreg (fRA f)) (x.vreg (fRB f)))
    let y := x.setV (fRD f) (putBytes (x.vreg (fRD f)) (16 * vPART f) (elemBytes t.width q.2) (x.preg (fPG f)))
    ∃ n, exec (.vquant c f) s = .next (s.retireNans c
      (y.setV (fRC f) (putBytes (y.vreg (fRC f)) (vIMM f) [BitVec.ofNat 8 q.1] (BitVec.allOnes 64))) n) := by
  have word := vquant_legal listed fp32 ok second sat part
  rw [exec_vquant, execVquant, runCore_issues issues]
  simp only [target, word, fn, Nat.zero_lt_two, decide_true, Bool.and_self, legal_true, if_true, decide_eq_true_eq]
  exact ⟨_, rfl⟩

/-- R135: FN 1 takes the scale from a byte of RC. -/
theorem execVquant_givenScale (fn : vFN f = 1) :
    let x := s.seen c
    let q := quantGiven t (vSAT f = 1) (lane 8 (x.vreg (fRC f)) (vIMM f)) (quantSource t (x.vreg (fRA f)) (x.vreg (fRB f)))
    ∃ n, exec (.vquant c f) s = .next (s.retireNans c
      (x.setV (fRD f) (putBytes (x.vreg (fRD f)) (16 * vPART f) (elemBytes t.width q) (x.preg (fPG f)))) n) := by
  have word := vquant_legal listed fp32 ok second sat part
  rw [exec_vquant, execVquant, runCore_issues issues]
  simp only [target, word, fn, Nat.one_lt_two, decide_true, Bool.and_self, legal_true, one_ne_zero, if_false, decide_eq_true_eq]
  exact ⟨_, rfl⟩

end Quantise

/-! Plane split -/

theorem State.planeBytes_known {l : List Fv} {e : Option Int} (known : (planeKnown l e).all id = true) (s : State) :
    s.planeBytes l e = (s, splitBytes l e) := by
  simp only [State.planeBytes, known, if_true]

/-- Free bytes are used alike before and after a core goes on. -/
theorem State.freeBytes_goOn (s : State) (c n : Nat) : (s.goOn c).freeBytes n = ((s.freeBytes n).1, (s.freeBytes n).2.goOn c) := by
  have same : (s.freeBytes n).2.core c = s.core c := rfl
  simp only [State.goOn, same]
  split <;> rfl

theorem State.planeBytes_goOn (s : State) (c : Nat) (l : List Fv) (e : Option Int) :
    (s.goOn c).planeBytes l e = ((s.planeBytes l e).1.goOn c, (s.planeBytes l e).2) := by
  by_cases known : (planeKnown l e).all id = true
  · rw [State.planeBytes_known known, State.planeBytes_known known]
  · simp only [State.planeBytes, known, Bool.false_eq_true, if_false, State.freeBytes_goOn]

/-- R136: the E that FN 2 takes from element 0 of vb, none for an E or a group that has none. -/
def givenExp (vb : V512) (l : List Fv) : Option Int :=
  if lane 32 vb 0 = 0x7FFFFFFF ∨ l.any (fun v => !v.isFinite) then none else some (sext 32 (lane 32 vb 0))

/-- R136: the group of part `part`. -/
def planeGroup (va : V512) (part : Nat) : List Fv := (List.range 16).map fun k => EType.bf16.val (lane 16 va (16 * part + k))

/-- R136: the running exponent over the active elements of va. -/
def runningExp (t : EType) (pg : Word) (va vb : V512) : Nat :=
  let act := (List.range (512 / t.width)).filterMap fun k => if laneActive pg t.width k then some (t.val (lane t.width va k)) else none
  if act.any (fun v => !v.isFinite) || decide (lane 32 vb 0 = 0x7FFFFFFF) then 0x7FFFFFFF
  else match maxExp act with
    | none => lane 32 vb 0
    | some e => toTwos 32 (max (sext 32 (lane 32 vb 0)) e)

section PlaneSplit

variable {s : State} {c : Nat} {f : BitVec 56} (issues : Issues s c) (ok : zeros f [vfVC, vfET2, vfRND, vfSAT, vfIMM, vfZ] = true)
include issues ok

theorem execVplane_running {t : EType} (type : etypeOf (vET f) = some t) (float : t = .bf16 ∨ t = .fp32) (part : vPART f = 0)
    (fn : vFN f = 0) :
    exec (.vplane c f) s = .next (s.retireV c (fRD f) (BitVec.ofNat 512
      (runningExp t ((s.seen c).preg (fPG f)) ((s.seen c).vreg (fRA f)) ((s.seen c).vreg (fRB f))))) := by
  have word : zeros f [vfVC, vfET2, vfRND, vfPART, vfSAT, vfIMM, vfZ] = true := zeros_with ok (r := vfPART) part (by simp)
  have types : (decide (t = .bf16) || decide (t = .fp32)) = true := by simpa using float
  rw [exec_vplane, execVplane, runCore_issues issues]
  simp only [type, fn, types, word, Bool.and_self, legal_true, if_true]
  rfl

section Planes

variable (bf16 : vET f = 6) (pred : fPG f = 0) (part : vPART f < 2)
include bf16 pred part

theorem execVplane_ownExp (fn : vFN f = 1) (second : fRB f = 0) :
    exec (.vplane c f) s = .next (s.retireV c (fRD f) (vofBytes
      (splitBytes (planeGroup ((s.seen c).vreg (fRA f)) (vPART f)) (groupExp (planeGroup ((s.seen c).vreg (fRA f)) (vPART f)))))) := by
  have word : zeros f [vfPG, vfVC, vfET2, vfRND, vfSAT, vfIMM, vfZ] = true := zeros_with ok (r := vfPG) pred (by simp)
  rw [exec_vplane, execVplane, runCore_issues issues]
  simp only [bf16, etypeOf, fn, word, second, part, Nat.mod_eq_of_lt part, decide_true, Bool.or_true, Bool.and_self,
    Nat.one_lt_ofNat, one_ne_zero, if_false, if_true, legal_true]
  rfl

theorem execVplane_givenExp (fn : vFN f = 2) :
    let b := s.planeBytes (planeGroup ((s.seen c).vreg (fRA f)) (vPART f))
      (givenExp ((s.seen c).vreg (fRB f)) (planeGroup ((s.seen c).vreg (fRA f)) (vPART f)))
    exec (.vplane c f) s = .next (b.1.retireV c (fRD f) (vofBytes b.2)) := by
  have word : zeros f [vfPG, vfVC, vfET2, vfRND, vfSAT, vfIMM, vfZ] = true := zeros_with ok (r := vfPG) pred (by simp)
  rw [exec_vplane, execVplane, runCore_issues issues]
  simp only [bf16, etypeOf, fn, word, part, Nat.mod_eq_of_lt part, decide_true, Bool.true_or, Bool.and_self, Nat.lt_add_one,
    OfNat.ofNat_ne_one, OfNat.ofNat_ne_zero, if_false, legal_true, State.planeBytes_goOn]
  rfl

end Planes

end PlaneSplit

/-- Settles O11: VCVT by its retirement, VQUANT with an own and with a given scale, VPLANE by its FN. -/
theorem vectorConversions : Obligations.vectorConversions := by
  intro s c f issues u x va ends
  refine ⟨?convert, ?quantise, fun ok => ⟨?running, ?planes⟩⟩
  case convert =>
    intro t v source target ok rnd sat part p out old
    exact execVcvt_retires issues source target ok rnd sat part
  case quantise =>
    intro t target listed fp32 ok second sat part grp q b y
    exact ⟨execVquant_ownScale issues target listed fp32 ok second sat part,
      execVquant_givenScale issues target listed fp32 ok second sat part⟩
  case running =>
    intro t type float part fn act e0
    exact execVplane_running issues ok type float part fn
  case planes =>
    intro bf16 pred part grp e0 given
    refine ⟨execVplane_ownExp issues ok bf16 pred part, fun fn => ?_⟩
    have split : exec (.vplane c f) s = .next ((s.planeBytes grp given).1.retireV c (fRD f) (vofBytes (s.planeBytes grp given).2)) :=
      execVplane_givenExp issues ok bf16 pred part fn
    exact ⟨split, fun known => by rw [split, State.planeBytes_known known]⟩

end Sys2Proof.Machine

/-! What the matrix arrays do on their own: the block shift and the rows (R78, R85, R88, R91 to R93). -/

namespace Sys2Proof.Machine

/-! A second write of a core -/

theorem terase_terase {α : Type} (t : Tbl α) (k : Nat) : terase (terase t k) k = terase t k := by
  induction t with
  | nil => rfl
  | cons e t ih =>
    obtain ⟨n, v⟩ := e
    by_cases hn : n = k <;> simp [terase, hn, ih]

theorem terase_tinsert {α : Type} (t : Tbl α) (k : Nat) (x : α) : terase (tinsert t k x) k = terase t k := by
  induction t with
  | nil => simp [tinsert, terase]
  | cons e t ih =>
    obtain ⟨n, v⟩ := e
    by_cases hk : k < n
    · simp [tinsert, hk, terase]
    · by_cases hn : n = k <;> simp [tinsert, hk, terase, hn, ih]

/-- The second of two writes of one key stands. -/
theorem tput_tput {α : Type} [Inhabited α] [DecidableEq α] (t : Tbl α) (k : Nat) (x y : α) : tput (tput t k x) k y = tput t k y := by
  have erased : terase (tput t k x) k = terase t k := by
    unfold tput
    split
    · exact terase_terase t k
    · rw [terase_tinsert, terase_terase]
  rw [tput, erased, ← tput]

theorem State.setCore_setCore (s : State) (c : Nat) (x y : Core) : (s.setCore c x).setCore c y = s.setCore c y := by
  simp [State.setCore, tput_tput]

/-! The block shift (R91, R92) -/

/-- A stationary load whose bytes can be delivered takes them. -/
theorem State.loadBlock_delivers {s t : State} {c p q u : Nat} (ready : s.unitsWait c p q u 16 = false) {data : Bytes}
    (read : s.readUnits c p q u 16 = (t, .ok data)) (seq : Nat) :
    s.loadBlock c p q u seq = some (t.setCore c ((t.core c).delivered q u 16), some data) := by
  simp only [State.loadBlock, ready, read, Bool.false_eq_true, if_false]

section Events

variable {s : State} {c p : Nat} (core : c < 1280) (backed : s.phys c = some p) (runs : s.dieRuns (c / 256) = true)
include core backed runs

section Shift

variable (held : (s.core c).blk.held = true)
include held

theorem execBlockShiftStart_registers (waits : (s.core c).blk.shifted = false) (first : (s.core c).blkOld = [])
    (source : (s.core c).blk.src = none) :
    execBlockShiftStart c s = .next (s.setCore c { s.core c with blk := { (s.core c).blk with shifted := true } }) := by
  simp only [execBlockShiftStart, unit, core, decide_true, if_true, runs, held, Bool.not_true, Bool.or_self, Bool.false_eq_true, if_false,
    first, backed, waits, source]

theorem execBlockShiftStart_stream (waits : (s.core c).blk.shifted = false) (first : (s.core c).blkOld = []) {q v : Nat}
    (source : (s.core c).blk.src = some (q, v)) (ready : s.unitsWait c p q v 16 = false) {t : State} {data : Bytes}
    (read : s.readUnits c p q v 16 = (t, .ok data)) :
    let y := (t.core c).delivered q v 16
    execBlockShiftStart c s = .next (t.setCore c { y with blk := { y.blk with src := none, shifted := true, data := data } }) := by
  simp only [execBlockShiftStart, unit, core, decide_true, if_true, runs, held, Bool.not_true, Bool.or_self, Bool.false_eq_true, if_false,
    first, backed, waits, source, State.loadBlock_delivers ready read, State.core_setCore_self, State.setCore_setCore]

theorem execBlockShiftStart_replaced {q v n : Nat} {old : List (Nat × Nat × Nat)} (first : (s.core c).blkOld = (q, v, n) :: old)
    (ready : s.unitsWait c p q v 16 = false) {t : State} {data : Bytes} (read : s.readUnits c p q v 16 = (t, .ok data)) :
    let w := t.setCore c ((t.core c).delivered q v 16)
    execBlockShiftStart c s = .next (w.setCore c { w.core c with blkOld := old }) := by
  simp only [execBlockShiftStart, unit, core, decide_true, if_true, runs, held, Bool.not_true, Bool.or_self, Bool.false_eq_true, if_false,
    first, backed, State.loadBlock_delivers ready read]

end Shift

/-! The head of an array's queue (R79, R85, R88) -/

section Rows

variable {k : Nat} (array : k < 4) {op : ArrOp} {rest : List ArrOp} (head : (s.core c).queue k = op :: rest)
include array head

theorem execArrayRowEnter_clear (clear : op.clear = true) (flt : RowFault) :
    execArrayRowEnter c k flt s =
      .next (s.setCore c (((List.range 16).foldl (fun x r => x.setTile op.tile r 0) (s.core c)).popOp k)) := by
  simp only [execArrayRowEnter, unit, core, array, decide_true, Bool.and_self, if_true, head, backed, runs, Bool.not_true,
    Bool.false_eq_true, if_false, clear]

theorem execArrayRowEnter_registers (mop : op.clear = false) (source : op.src = none) (shifted : (s.core c).blk.shifted = true) (flt : RowFault) :
    execArrayRowEnter c k flt s =
      .next (s.enterRow c k op (((vbytes (op.regs.getD (op.next / 4) 0)).drop (16 * (op.next % 4))).take 16) flt) := by
  simp only [execArrayRowEnter, unit, core, array, decide_true, Bool.and_self, if_true, head, backed, runs, Bool.not_true,
    Bool.false_eq_true, if_false, mop, shifted, source, State.rowBytes]

end Rows

end Events

/-- R83: the elements of a row image. -/
def rowVals (t : EType) (img : Bytes) : List Fv := (List.range (arrayK t)).map fun j => t.val (rowElem t img j)

/-- R82: the elements of the current block. -/
def Core.blockVals (x : Core) (t : EType) : Nat → Nat → Fv := fun a n => t.val (blockElem t x.blk.tr x.blk.data a n)

/-- R85: the row scale of an operation for its next row. -/
def ArrOp.scale (op : ArrOp) : Nat :=
  match op.xs with
  | none => 127
  | some v => lane 8 v op.next

/-- R85: the tile row that the next row of an operation updates. -/
def ArrOp.place (op : ArrOp) : Nat := (op.r0 + op.next) % 16

/-- R85: what that tile row holds after the row, from the column sums. -/
def Core.tileRow (x : Core) (op : ArrOp) (sums : List Fv) : V512 :=
  packLanes 32 ((List.range 16).map fun n =>
    tileElem (if !op.acc && decide (op.next < 16) then 0 else lane 32 (x.tile op.tile op.place) n) (sums.getD n .nan) op.neg op.psh
      op.scale x.blk.ws)

theorem Core.tileRow_sums (x : Core) (op : ArrOp) (sum : Nat → Fv) :
    x.tileRow op ((List.range 16).map sum) = packLanes 32 ((List.range 16).map fun n =>
      tileElem (if op.acc = false ∧ op.next < 16 then 0 else lane 32 (x.tile op.tile op.place) n) (sum n) op.neg op.psh op.scale x.blk.ws) := by
  refine congrArg (packLanes 32) (List.map_congr_left fun n mem => ?_)
  have listed : ((List.range 16).map sum).getD n .nan = sum n := by
    simp [List.getD_eq_getElem?_getD, List.getElem?_range (List.mem_range.mp mem)]
  rw [listed]
  simp only [Bool.and_eq_true, Bool.not_eq_true', decide_eq_true_eq]

/-- The core after a row that passes its check: the row counted, and its tile row written. -/
def Core.passRow (x : Core) (op : ArrOp) (row : V512) : Core :=
  ({ x with stat := { x.stat with rows := x.stat.rows + 1 } } : Core).setTile op.tile op.place row

theorem Core.blk_passRow (x : Core) (op : ArrOp) (row : V512) : (x.passRow op row).blk = x.blk := rfl

theorem Core.queue_passRow (x : Core) (op : ArrOp) (row : V512) (k : Nat) : (x.passRow op row).queue k = x.queue k := rfl

/-- The row counted for a context. -/
def State.countRow (s : State) (n : Nat) : State := s.setCtx n { s.ctx n with rows := (s.ctx n).rows + 1 }

/-- R85, R93: a row that passes its check on a valid block updates its tile row; the operation goes on to its next row, or leaves. -/
theorem State.enterRow_passes {s : State} {c k : Nat} {op : ArrOp} {xt wt : EType} (rowType : arrayType op.xtype = some xt)
    (blockType : arrayType (s.core c).blk.typ = some wt) (valid : (s.core c).blk.invalid = false) {img : Bytes}
    (passes : checkRow (rowVals xt img) ((s.core c).blockVals wt) ((List.range 16).map (colSum (rowVals xt img) ((s.core c).blockVals wt))) =
      none) :
    s.enterRow c k op img .none = (s.countRow (s.core c).ctx).setCore c
      (((s.core c).passRow op ((s.core c).tileRow op ((List.range 16).map (colSum (rowVals xt img) ((s.core c).blockVals wt))))).setQueue k
        (if op.rows ≤ op.next + 1 then ((s.core c).queue k).tail else { op with next := op.next + 1 } :: ((s.core c).queue k).tail)) := by
  unfold State.enterRow
  extract_lets x i t scale old base stat counted ctx u goesOn put
  rw [rowType, show arrayType x.blk.typ = some wt from blockType]
  dsimp -zeta only
  extract_lets kk xs w sums row parity bad
  have sound : bad = none := by
    dsimp only [bad, parity]
    rw [show checkRow xs w sums = none from passes]
    rfl
  have written : put counted row = x.passRow op (x.tileRow op ((List.range 16).map (colSum xs w))) := by
    dsimp only [put]
    rw [show counted.blk.invalid = false from valid, if_neg Bool.false_ne_true]
    rfl
  have proceeds : ∀ z : Core, z.blk.invalid = false → goesOn z =
      z.setQueue k (if op.rows ≤ op.next + 1 then (z.queue k).tail else { op with next := op.next + 1 } :: (z.queue k).tail) := by
    intro z sane
    dsimp only [goesOn]
    rw [sane, if_neg Bool.false_ne_true, apply_ite (z.setQueue k)]
    rfl
  have stays : (x.passRow op (x.tileRow op ((List.range 16).map (colSum xs w)))).blk.invalid = false := by
    rw [Core.blk_passRow]
    exact valid
  rw [sound]
  dsimp only
  rw [written, proceeds _ stays, Core.queue_passRow]
  rfl

/-- Settles O25: the block shift by its source, and the head of a queue by `execArrayRowEnter` and `State.enterRow_passes`. -/
theorem arrayEvents : Obligations.arrayEvents := by
  intro s c p core backed runs x
  refine ⟨?shift, ?replaced, ?rows⟩
  case shift =>
    intro held waits first
    exact ⟨execBlockShiftStart_registers core backed runs held waits first, fun q v t data source ready read =>
      execBlockShiftStart_stream core backed runs held waits first source ready read⟩
  case replaced =>
    intro q v n old t data held first ready read
    exact execBlockShiftStart_replaced core backed runs held first ready read
  case rows =>
    intro k op rest flt array head
    refine ⟨fun clear => execArrayRowEnter_clear core backed runs array head clear flt, ?_⟩
    rintro xt wt mop source shifted valid rowType blockType rfl img xs w r base scale row y t passes
    have enters := execArrayRowEnter_registers core backed runs array head mop source shifted .none
    rw [State.enterRow_passes rowType blockType valid passes, Core.tileRow_sums, head, List.tail_cons] at enters
    refine ⟨fun more => ?_, fun last => ?_⟩
    · rw [if_neg (Nat.not_le.mpr more)] at enters
      exact enters
    · rw [if_pos last] at enters
      exact enters

end Sys2Proof.Machine

/-! Words and instruction commands of a Garno core (R117, R119). -/

namespace Sys2Proof.Machine

/-- R117: OP of a word, its bits 63:56. -/
def opcode (w : Word) : Nat := (w.extractLsb' 56 8).toNat

/-- A word is its opcode above its bits 55:0. -/
theorem opcode_append_fields {w : Word} {n : Nat} (op : opcode w = n) : BitVec.ofNat 8 n ++ w.extractLsb' 0 56 = w := by
  rw [← op, opcode, BitVec.ofNat_toNat, BitVec.setWidth_eq]
  exact (BitVec.extractLsb'_append_extractLsb'_eq_extractLsb' (by decide)).trans BitVec.extractLsb'_eq_self

theorem opcode_append (o : BitVec 8) (f : BitVec 56) : opcode (o ++ f : Word) = o.toNat := by
  rw [opcode, BitVec.extractLsb'_append_eq_left]

theorem fields_append (o : BitVec 8) (f : BitVec 56) : (o ++ f : Word).extractLsb' 0 56 = f :=
  BitVec.extractLsb'_append_eq_right

/-- An opcode that the instruction set does not list decodes to the illegal-opcode command. -/
theorem decodeGarno_unassigned {w : Word} (op : garnoOpcodes.contains (opcode w) = false) (c : Nat) :
    decodeGarno c w = .illegalOpcode c w := by
  unfold decodeGarno
  extract_lets f
  split
  case h_64 => rfl
  all_goals
    rename_i named
    rw [opcode, named] at op
    exact absurd op (by decide)

/-- A word of an assigned opcode is the word of the instruction that it decodes to, opcode by opcode. -/
theorem encodeGarno_decodeGarno_assigned (c : Nat) (w : Word) :
    ∀ n ∈ garnoOpcodes, opcode w = n → encodeGarno (decodeGarno c w) = some (c, w) := by
  simp only [garnoOpcodes, List.forall_mem_cons, List.not_mem_nil, false_implies, implies_true, and_true]
  and_intros
  all_goals
    intro op
    rw [decodeGarno, ← opcode, op]
    exact congrArg (fun w => some (c, w)) (opcode_append_fields op)

theorem encodeGarno_decodeGarno (c : Nat) (w : Word) : encodeGarno (decodeGarno c w) = some (c, w) := by
  by_cases assigned : garnoOpcodes.contains (opcode w) = true
  · exact encodeGarno_decodeGarno_assigned c w _ (List.contains_iff_mem.mp assigned) rfl
  · have unassigned := Bool.eq_false_iff.mpr assigned
    rw [decodeGarno_unassigned unassigned, encodeGarno, ← opcode, unassigned, if_neg Bool.false_ne_true]

/-- An instruction command is what its word decodes to; the commands that are no instructions have no word. -/
theorem decodeGarno_encodeGarno {i : Instr} {c : Nat} {w : Word} (word : encodeGarno i = some (c, w)) : decodeGarno c w = i := by
  cases i
  case illegalOpcode d v =>
    rw [encodeGarno] at word
    split at word
    · cases word
    · rename_i unassigned
      cases word
      exact decodeGarno_unassigned (Bool.eq_false_iff.mpr unassigned) c
  all_goals simp only [encodeGarno, Option.some.injEq, Prod.mk.injEq, reduceCtorEq] at word
  all_goals
    obtain ⟨rfl, rfl⟩ := word
    rw [decodeGarno, ← opcode, opcode_append, fields_append]
    rfl

/-- Settles O2: both directions of the round trip between words and instruction commands. -/
theorem encodeDecode : Obligations.encodeDecode :=
  ⟨fun _ _ _ => decodeGarno_encodeGarno, encodeGarno_decodeGarno⟩

end Sys2Proof.Machine

/-! Division, immediates, predicates and branches (R119, R126, R127, R129, R138, R139). -/

namespace Sys2Proof.Machine

@[simp] theorem State.finish_done (s t : State) (c : Nat) : s.finish c (.done t) = .next (t.advance c) := rfl

@[simp] theorem State.finish_jump (s t : State) (c pc : Nat) : s.finish c (.jump t pc) = .next (t.setPc c pc) := rfl

/-! Division -/

/-- R127: the quotient that 64 bits do not hold is the dividend again, with remainder 0. -/
theorem divOp_overflow {a b : Word} (dividend : a.toInt = -2 ^ 63) (divisor : b.toInt = -1) :
    divOp 0 a b = some a ∧ divOp 2 a b = some 0 := by
  obtain rfl : a = BitVec.ofInt 64 (-2 ^ 63) := by rw [← dividend, BitVec.ofInt_toInt]
  obtain rfl : b = BitVec.ofInt 64 (-1) := by rw [← divisor, BitVec.ofInt_toInt]
  decide

/-- R127: division is defined for every pair of operands. -/
theorem divOp_total {n : Nat} (listed : n < 4) (a b : Word) : ∃ w, divOp n a b = some w := by
  interval_cases n <;> exact ⟨_, rfl⟩

/-- Settles O3: the value of each FN by `divOp`, its retirement by `regOp_retires`. -/
theorem divisionEdges : Obligations.divisionEdges := by
  intro s c f issues ok listed a b
  have gives : ∀ {w}, divOp (rFN f) a b = some w → exec (.divide c f) s = .next (s.retireS c (fRD f) w) := regOp_retires issues ok
  have quotient : b = 0 → rFN f < 2 → divOp (rFN f) a b = some (-1) := by
    intro zero fn
    rw [zero]
    interval_cases rFN f <;> rfl
  have remainder : b = 0 → 2 ≤ rFN f → divOp (rFN f) a b = some a := by
    intro zero fn
    rw [zero]
    interval_cases rFN f <;> rfl
  obtain ⟨w, total⟩ := divOp_total listed a b
  exact ⟨⟨w, gives total⟩, fun zero fn => gives (quotient zero fn), fun zero fn => gives (remainder zero fn),
    fun dividend divisor fn => gives (fn ▸ (divOp_overflow dividend divisor).1),
    fun dividend divisor fn => gives (fn ▸ (divOp_overflow dividend divisor).2)⟩

/-! Immediates -/

/-- A field as a two's complement number. -/
theorem sext_fld (f : BitVec 56) (lo : Nat) {len : Nat} (some : 0 < len) : sext len (fld f lo len) = (f.extractLsb' lo len).toInt := by
  obtain ⟨n, rfl⟩ := Nat.exists_eq_add_of_lt some
  simp [sext, fld, BitVec.toInt_eq_toNat_cond, pow_succ']

theorem ofI_sext_fld (f : BitVec 56) (lo : Nat) {len : Nat} (some : 0 < len) :
    ofI (sext len (fld f lo len)) = (f.extractLsb' lo len).signExtend 64 := by
  rw [sext_fld f lo some]
  rfl

theorem ofI_iImm (f : BitVec 56) : ofI (iImm f) = (f.extractLsb' 0 43).signExtend 64 := ofI_sext_fld f 0 (by decide)

/-- Formats I and L have no Z range but bits 55:53. -/
theorem zeros_fPG {f : BitVec 56} (pg : fPG f = 0) : zeros f [(53, 3)] = true := by
  simp only [zeros, List.all_cons, List.all_nil, Bool.and_true, decide_eq_true_eq]
  exact pg

/-- R126: the kind and the count of SHI fill bits 42:0 with their zeros. -/
theorem fld_shi {f : BitVec 56} {k : Nat} (small : k < 4) (kind : fld f 6 37 = k) : fld f 6 2 = k ∧ fld f 8 35 = 0 := by
  rw [fld_eq] at kind ⊢
  rw [fld_eq]
  omega

/-- R126: LIH puts its immediate above bits 47:0 of its register. -/
theorem ofNat_halfword_append (f : BitVec 56) (w : Word) :
    BitVec.ofNat 64 (fld f 0 16 * 2 ^ 48 + w.toNat % 2 ^ 48) = f.extractLsb' 0 16 ++ w.extractLsb' 0 48 := by
  apply BitVec.eq_of_toNat_eq
  rw [BitVec.toNat_append, ← Nat.shiftLeft_add_eq_or_of_lt (BitVec.isLt _), Nat.shiftLeft_eq, BitVec.toNat_ofNat, fld]
  have high := (f.extractLsb' 0 16).isLt
  simp only [BitVec.extractLsb'_toNat, Nat.shiftRight_zero] at high ⊢
  omega

section Immediate

variable {s : State} {c : Nat} {f : BitVec 56} (issues : Issues s c) (pg : fPG f = 0)
include issues pg

/-- A legal immediate operation of format I retires with its value. -/
theorem immOp_retires {i : Instr} {op : Word → Word → Word} (meaning : exec i s = immOp c f op s) :
    exec i s = .next (s.retireS c (fRD f) (op ((s.seen c).sreg (fRA f)) ((f.extractLsb' 0 43).signExtend 64))) := by
  rw [meaning, immOp, runCore_issues issues, iOk, zeros_fPG pg, legal_true, ofI_iImm, State.finish_doneS]

theorem execShi_retires {k : Nat} (small : k < 4) (kind : fld f 6 37 = k) {w : Word}
    (listed : shiOp k (fld f 0 6) ((s.seen c).sreg (fRA f)) = some w) : exec (.shi c f) s = .next (s.retireS c (fRD f) w) := by
  obtain ⟨low, high⟩ := fld_shi small kind
  have ok : zeros f [(53, 3), (8, 35)] = true := zeros_with (zeros_fPG pg) (r := (8, 35)) high (by simp)
  rw [exec_shi, execShi, runCore_issues issues]
  simp only [ok, legal_true, low, listed, State.finish_doneS]

theorem execLi_retires : exec (.li c f) s = .next (s.retireS c (fRD f) ((f.extractLsb' 0 48).signExtend 64)) := by
  rw [exec_li, execLi, runCore_issues issues, zeros_fPG pg, legal_true, ofI_sext_fld f 0 (by decide), State.finish_doneS]

theorem execLiu_retires : exec (.liu c f) s = .next (s.retireS c (fRD f) ((f.extractLsb' 0 48).setWidth 64)) := by
  rw [exec_liu, execLiu, runCore_issues issues, zeros_fPG pg, legal_true, State.finish_doneS, fld, BitVec.ofNat_toNat]

theorem execLih_retires (ok : fld f 16 32 = 0) : exec (.lih c f) s =
    .next (s.retireS c (fRD f) (f.extractLsb' 0 16 ++ ((s.seen c).sreg (fRD f)).extractLsb' 0 48)) := by
  have word : zeros f [(53, 3), (16, 32)] = true := zeros_with (zeros_fPG pg) (r := (16, 32)) ok (by simp)
  rw [exec_lih, execLih, runCore_issues issues, word, legal_true, ofNat_halfword_append, State.finish_doneS]

end Immediate

/-- Settles O5: format I by `immOp_retires`, SHI by its kind, format L by one lemma each. -/
theorem scalarImmediateResults : Obligations.scalarImmediateResults := by
  intro s c f issues a m n gives pg
  refine ⟨immOp_retires issues pg (exec_addi ..), immOp_retires issues pg (exec_andi ..), immOp_retires issues pg (exec_ori ..),
    immOp_retires issues pg (exec_xori ..), ?slti, ?sltiu, fun kind => execShi_retires issues pg (by decide) kind rfl,
    fun kind => execShi_retires issues pg (by decide) kind rfl, fun kind => execShi_retires issues pg (by decide) kind rfl,
    execLi_retires issues pg, execLiu_retires issues pg, execLih_retires issues pg⟩
  case slti => exact (immOp_retires issues pg (exec_slti ..)).trans (congrArg gives (flagWord_decide _))
  case sltiu => exact (immOp_retires issues pg (exec_sltiu ..)).trans (congrArg gives (flagWord_decide _))

/-! PRED (R129) -/

section Pred

variable {s : State} {c : Nat} {f : BitVec 56} (issues : Issues s c) (ok : rOk f = true)
include issues ok

/-- FN 0 to 3: two predicates to a predicate. -/
theorem execPred_logic (rd : fRD f < 8) (ra : fRA f < 8) (rb : fRB f < 8) {n : Nat} (listed : n < 4) (fn : rFN f = n) :
    exec (.pred c f) s = .next (s.retireP c (fRD f) (predOp n ((s.seen c).preg (fRA f)) ((s.seen c).preg (fRB f)))) := by
  rw [exec_pred, execPred, runCore_issues issues]
  interval_cases n <;> simp only [ok, fn, rd, ra, rb, listed, decide_true, Bool.and_self, legal_true] <;> rfl

theorem execPred_toScalar (ra : fRA f < 8) (rb : fRB f = 0) (fn : rFN f = 4) :
    exec (.pred c f) s = .next (s.retireS c (fRD f) ((s.seen c).preg (fRA f))) := by
  rw [exec_pred, execPred, runCore_issues issues]
  simp only [ok, fn, ra, rb, decide_true, Bool.and_self, legal_true, State.finish_doneS]

theorem execPred_ofScalar (rd : fRD f < 8) (rb : fRB f = 0) (fn : rFN f = 5) :
    exec (.pred c f) s = .next (s.retireP c (fRD f) ((s.seen c).sreg (fRA f))) := by
  rw [exec_pred, execPred, runCore_issues issues]
  simp only [ok, fn, rd, rb, decide_true, Bool.and_self, legal_true]
  rfl

/-- A move between the files has no RB. -/
theorem execPred_secondOperand (rb : fRB f ≠ 0) (fn : rFN f = 4 ∨ rFN f = 5) :
    exec (.pred c f) s = .next ((s.goOn c).precise c causeIllegal 0) := by
  rw [exec_pred, execPred, runCore_issues issues]
  rcases fn with fn | fn <;> simp only [ok, fn, rb, decide_false, Bool.and_false, legal_true, legal_false, State.finish_exc]

end Pred

/-- Settles O6: one lemma per kind of FN, and `Core.setP_zero` for p0. -/
theorem predicateResults : Obligations.predicateResults := by
  refine ⟨?results, fun s c w => ?p0⟩
  case results =>
    intro s c f issues ok x put
    refine ⟨fun rd ra rb => ?_, execPred_toScalar issues ok, execPred_ofScalar issues ok, execPred_secondOperand issues ok⟩
    have logic := fun n => execPred_logic issues ok rd ra rb (n := n)
    exact ⟨logic 0 (by decide), logic 1 (by decide), logic 2 (by decide), logic 3 (by decide)⟩
  case p0 => rw [State.retireP, Core.setP_zero]; rfl

/-! Branches -/

theorem branchTo_inside {t : Int} (low : 0 ≤ t) (high : t < 2 ^ 48) (s k : State) : branchTo s t k = .jump k t.toNat :=
  if_neg (by omega)

theorem branchTo_outside {t : Int} (outside : t < 0 ∨ 2 ^ 48 ≤ t) (s k : State) : branchTo s t k = .exc s causeRange 0 :=
  if_pos outside

/-- R139: the conditions. -/
theorem branchCond_iff (k : Nat) (a b p : Word) : branchCond k a b p = true ↔
    match k with
    | 0 => a = b | 1 => a ≠ b | 2 => a.toInt < b.toInt | 3 => b.toInt ≤ a.toInt
    | 4 => a.toNat < b.toNat | 5 => b.toNat ≤ a.toNat | 6 => p ≠ 0 | _ => p = 0 := by
  unfold branchCond
  split <;> simp [BitVec.slt, BitVec.ult]

section Branch

variable {s : State} {c : Nat} {f : BitVec 56} (issues : Issues s c)
include issues

theorem execBr_legal (ok : fld f 40 3 = 0) (registers : 6 ≤ fPG f → fld f 43 5 = 0 ∧ fld f 48 5 < 8) :
    exec (.br c f) s = s.finish c
      (if branchCond (fPG f) ((s.seen c).sreg (fld f 48 5)) ((s.seen c).sreg (fld f 43 5)) ((s.seen c).preg (fld f 48 5)) then
        branchTo (s.goOn c) (((s.seen c).pc : Int) + 8 * (f.extractLsb' 0 40).toInt) (s.goOn c) else .done (s.goOn c)) := by
  have word : (zeros f [(40, 3)] && (!decide (6 ≤ fPG f) || (decide (fld f 43 5 = 0) && decide (fld f 48 5 < 8)))) = true := by
    simpa [zeros, ok, imp_iff_not_or] using registers
  rw [exec_br, execBr, runCore_issues issues, ← sext_fld f 0 (by decide)]
  simp only [word, legal_true]

variable (pg : fPG f = 0)
include pg

theorem execJal_legal : exec (.jal c f) s = s.finish c
    (branchTo (s.goOn c) (((s.seen c).pc : Int) + 8 * (f.extractLsb' 0 48).toInt)
      ((s.goOn c).setCore c ((s.seen c).setS (fRD f) (BitVec.ofNat 64 ((s.seen c).pc + 8))))) := by
  rw [exec_jal, execJal, runCore_issues issues, zeros_fPG pg, legal_true, sext_fld f 0 (by decide)]

variable {t : Nat} (target : ((s.seen c).sreg (fRA f) + (f.extractLsb' 0 43).signExtend 64).toNat = t)
include target

theorem execJalr_jumps (aligned : t % 8 = 0) (inside : t < 2 ^ 48) : exec (.jalr c f) s =
    .next (((s.goOn c).setCore c ((s.seen c).setS (fRD f) (BitVec.ofNat 64 ((s.seen c).pc + 8)))).setPc c t) := by
  rw [exec_jalr, execJalr, runCore_issues issues]
  simp only [iOk, zeros_fPG pg, legal_true, ofI_iImm, target, aligned, ne_eq, not_true, Nat.not_le.mpr inside, if_false, State.finish_jump]

theorem execJalr_unaligned (unaligned : t % 8 ≠ 0) : exec (.jalr c f) s = .next ((s.goOn c).precise c causeAlign 0) := by
  rw [exec_jalr, execJalr, runCore_issues issues]
  simp only [iOk, zeros_fPG pg, legal_true, ofI_iImm, target, if_pos unaligned, State.finish_exc]

theorem execJalr_outside (aligned : t % 8 = 0) (outside : 2 ^ 48 ≤ t) :
    exec (.jalr c f) s = .next ((s.goOn c).precise c causeRange 0) := by
  rw [exec_jalr, execJalr, runCore_issues issues]
  simp only [iOk, zeros_fPG pg, legal_true, ofI_iImm, target, aligned, ne_eq, not_true, if_false, if_pos outside, State.finish_exc]

end Branch

/-- Settles O7: BR and JAL by `branchTo` on either side of 48 bits, JALR by its target. -/
theorem branchResults : Obligations.branchResults := by
  intro s c f issues x u link a b cond tb tj tr
  refine ⟨fun zero => ?nop, fun ok registers => ?br, fun pg => ?jumps⟩
  case nop =>
    subst zero
    rw [exec_nop, execNop, runCore_issues issues]
    rfl
  case br =>
    have taken : branchCond (fPG f) a b (x.preg (fld f 48 5)) = true ↔ cond := branchCond_iff ..
    have branch := execBr_legal issues ok registers
    refine ⟨fun holds low high => ?_, fun holds outside => ?_, fun fails => ?_⟩
    · rw [branch, if_pos (taken.mpr holds), branchTo_inside low high, State.finish_jump]
    · rw [branch, if_pos (taken.mpr holds), branchTo_outside outside, State.finish_exc]
    · rw [branch, if_neg (mt taken.mp fails)]
      rfl
  case jumps =>
    have jal := execJal_legal issues pg
    refine ⟨fun low high => ?_, fun outside => ?_, execJalr_jumps issues pg rfl, execJalr_unaligned issues pg rfl,
      execJalr_outside issues pg rfl⟩
    · rw [jal, branchTo_inside low high, State.finish_jump]
    · rw [jal, branchTo_outside outside, State.finish_exc]

end Sys2Proof.Machine

/-! VRED, VPERM, VBCAST and VMOVS (R130, R132, R134, R137). -/

namespace Sys2Proof.Machine

section Moves

variable {s : State} {c : Nat} {f : BitVec 56} (issues : Issues s c)
include issues

theorem execVred_retires {t : EType} (type : etypeOf (vET f) = some t) (allowed : t.isVInt = true ∨ t = .fp32) (listed : vFN f < 3)
    (ok : zeros f [vfVB, vfVC, vfET2, vfRND, vfPART, vfSAT, vfIMM, vfZ] = true) :
    exec (.vred c f) s = .next (s.retireV c (fRD f) (BitVec.ofNat 512 (pairTree (vredOp t (vFN f)) (512 / t.width).log2
      (vredTerms t (vFN f) ((s.seen c).preg (fPG f)) ((s.seen c).vreg (fRA f)))))) := by
  have types : (t.isVInt || decide (t = .fp32)) = true := by simpa using allowed
  rw [exec_vred, execVred, runCore_issues issues]
  simp only [type, types, ok, decide_eq_true listed, Bool.and_self, legal_true, State.finish_doneV]

/-! VPERM -/

section Perm

variable (ok : zeros f [vfVC, vfET2, vfRND, vfPART, vfSAT, vfZ] = true)
include ok

/-- FN 0 takes bytes by index, FN 5 rotates them: neither names a type. -/
theorem execVperm_bytes (type : vET f = 0) (fn : vFN f = 0 ∧ vIMM f = 0 ∨ vFN f = 5 ∧ fRB f = 0) :
    exec (.vperm c f) s = .next (s.retireV c (fRD f) ((s.seen c).blendV f 8
      (vpermOp (vFN f) 8 (vIMM f) ((s.seen c).vreg (fRA f)) ((s.seen c).vreg (fRB f))))) := by
  rw [exec_vperm, execVperm, runCore_issues issues]
  rcases fn with ⟨fn, zero⟩ | ⟨fn, zero⟩ <;> simp [ok, type, fn, zero, EType.width]

/-- FN 1 to 4 interleave elements and take them apart. -/
theorem execVperm_elements {t : EType} (type : etypeOf (vET f) = some t) (first : 1 ≤ vFN f) (last : vFN f ≤ 4) (imm : vIMM f = 0) :
    exec (.vperm c f) s = .next (s.retireV c (fRD f) ((s.seen c).blendV f t.width
      (vpermOp (vFN f) t.width 0 ((s.seen c).vreg (fRA f)) ((s.seen c).vreg (fRB f))))) := by
  have noIndex : vFN f ≠ 0 := Nat.ne_of_gt first
  have noRotation : vFN f ≠ 5 := Nat.ne_of_lt (Nat.lt_succ_of_le last)
  have listed : vFN f < 6 := Nat.lt_succ_of_lt (Nat.lt_succ_of_le last)
  rw [exec_vperm, execVperm, runCore_issues issues]
  simp [noIndex, noRotation, listed, type, ok, imm]

end Perm

/-! VBCAST and VMOVS -/

variable {t : EType} (type : etypeOf (vET f) = some t) (inside : vIMM f < 512 / t.width)
include type inside

theorem execVbcast_retires (ok : zeros f [vfPG, vfVB, vfVC, vfET2, vfRND, vfPART, vfSAT, vfZ] = true)
    (fn : vFN f = 0 ∧ vIMM f = 0 ∨ vFN f = 1) :
    exec (.vbcast c f) s = .next (s.retireV c (fRD f) (packLanes t.width (List.replicate (512 / t.width)
      (if vFN f = 0 then ((s.seen c).sreg (fRA f)).toNat % 2 ^ t.width else lane t.width ((s.seen c).vreg (fRA f)) (vIMM f))))) := by
  have listed : (decide (vFN f < 2) && (decide (vFN f = 1) || decide (vIMM f = 0))) = true := by simp; omega
  rw [exec_vbcast, execVbcast, runCore_issues issues]
  simp only [type, ok, Bool.true_and, listed, decide_eq_true inside, Bool.and_self, legal_true, State.finish_doneV]

theorem execVmovs_retires (ok : zeros f [vfPG, vfVB, vfVC, vfET2, vfRND, vfPART, vfSAT, vfFN, vfZ] = true) :
    exec (.vmovs c f) s = .next (s.retireS c (fRD f) (vmovsVal t (lane t.width ((s.seen c).vreg (fRA f)) (vIMM f)))) := by
  rw [exec_vmovs, execVmovs, runCore_issues issues]
  simp only [type, ok, decide_eq_true inside, Bool.and_self, legal_true, State.finish_doneS]

end Moves

/-- Settles O10: each instruction by its retirement, VPERM by the kind of its FN. -/
theorem vectorMoves : Obligations.vectorMoves := by
  intro s c f issues x va vb
  refine ⟨fun t => execVred_retires issues, fun ok => ⟨?index, ?rotate, fun t => execVperm_elements issues ok⟩, fun t type inside =>
    ⟨fun ok => ⟨?scalar, ?element⟩, fun ok => ?vmovs⟩⟩
  case index =>
    intro fn type imm
    have perm := execVperm_bytes issues ok type (.inl ⟨fn, imm⟩)
    rwa [fn] at perm
  case rotate =>
    intro fn type rb
    have perm := execVperm_bytes issues ok type (.inr ⟨fn, rb⟩)
    rwa [fn] at perm
  case scalar =>
    intro fn imm
    have bcast := execVbcast_retires issues type inside ok (.inl ⟨fn, imm⟩)
    rwa [if_pos fn] at bcast
  case element =>
    intro fn
    have bcast := execVbcast_retires issues type inside ok (.inr fn)
    rwa [if_neg (by rw [fn]; decide)] at bcast
  case vmovs =>
    rw [execVmovs_retires issues type inside ok]
    simp only [vmovsVal, Bool.or_eq_true, decide_eq_true_eq]
    rfl

end Sys2Proof.Machine

/-! RDCTR, the privileged instructions in firmware mode, and END (R140 to R142, R144, R145). -/

namespace Sys2Proof.Machine

@[simp] theorem State.finish_wait (s t : State) (c : Nat) : s.finish c (.wait t) = .next t := rfl

section System

variable {s : State} {c : Nat} {f : BitVec 56} (issues : Issues s c)
include issues

/-! RDCTR -/

section Rdctr

variable (ok : cOk f true false = true)
include ok

theorem execRdctr_retires (listed : cImm f < 2) : exec (.rdctr c f) s = .next (s.retireS c (fRD f) (BitVec.ofNat 64
    (if cImm f = 1 then ((s.goOn c).die (c / 256)).lockSeq else if (s.seen c).fw then ((s.goOn c).die (c / 256)).count
      else ((s.goOn c).die (c / 256)).count / 10800 * 10800 / 2 ^ 12 * 2 ^ 12))) := by
  rw [exec_rdctr, execRdctr, runCore_issues issues]
  simp only [ok, decide_eq_true listed, Bool.and_self, legal_true, State.finish_doneS]

theorem execRdctr_unlisted (unlisted : 2 ≤ cImm f) : exec (.rdctr c f) s = .next ((s.goOn c).precise c causeIllegal 0) := by
  rw [exec_rdctr, execRdctr, runCore_issues issues]
  simp only [ok, decide_eq_false (Nat.not_lt.mpr unlisted), Bool.and_false, legal_false, State.finish_exc]

end Rdctr

/-! END -/

/-- R141: the END of a role, once its fence is complete. -/
theorem execEndRole_ends (ok : cOk f false false = true) (imm : cImm f = 0) (user : (s.seen c).fw = false)
    (complete : ((s.goOn c).fence c 63).2 = true) : exec (.endRole c f) s = .next (((s.goOn c).fence c 63).1.endRole c) := by
  rw [exec_endRole, execEndRole, runCore_issues issues, ok, decide_eq_true imm, Bool.and_self, legal_true]
  generalize (s.goOn c).fence c 63 = r at complete ⊢
  obtain ⟨t, b⟩ := r
  obtain rfl : b = true := complete
  simp only [user, Bool.false_eq_true, if_false, State.finish_wait]

/-! System registers -/

theorem execSysr_unknown (unknown : (s.seen c).sysReg (cImm f) = none) :
    exec (.sysr c f) s = .next ((s.goOn c).precise c causeIllegal 0) := by
  rw [exec_sysr, execSysr, runCore_issues issues]
  simp only [unknown, Option.isSome_none, Bool.and_false, privileged, legal_false, State.finish_exc]

variable (firmware : (s.seen c).fw = true)
include firmware

theorem execSysr_retires (ok : cOk f true false = true) {w : Word} (known : (s.seen c).sysReg (cImm f) = some w) :
    exec (.sysr c f) s = .next (s.retireS c (fRD f) w) := by
  rw [exec_sysr, execSysr, runCore_issues issues]
  simp only [ok, known, Option.isSome_some, Bool.and_self, privileged_firmware firmware, State.finish_doneS]

theorem execSysw_retires (ok : cOk f false true = true) (vector : cImm f = 8) : exec (.sysw c f) s =
    .next (((s.goOn c).setCore c { s.seen c with
      sys := { (s.seen c).sys with fwVector := (s.seen c).sreg (fRA f) &&& ~~~7 } }).advance c) := by
  rw [exec_sysw, execSysw, runCore_issues issues]
  simp only [ok, vector, decide_true, Bool.and_self, privileged_firmware firmware, State.finish_done]

/-! SCLR -/

section Sclr

variable (ok : cOk f false false = true) (actions : cImm f < 128)
include ok actions

theorem execSclr_clears (drain : (cImm f).testBit 1 = false) : exec (.sclr c f) s =
    .next (((if (cImm f).testBit 0 then (s.goOn c).abortOps c else s.goOn c).clearActions c (cImm f)).advance c) := by
  rw [exec_sclr, execSclr, runCore_issues issues]
  simp only [ok, decide_eq_true actions, Bool.and_self, privileged_firmware firmware, drain, Bool.false_eq_true, if_false,
    State.finish_done]

/-- SCLR with DRAIN, once nothing is left to wait for. -/
theorem execSclr_drains (drain : (cImm f).testBit 1 = true) {t : State}
    (drained : (if (cImm f).testBit 0 then (s.goOn c).abortOps c else s.goOn c).drained c = (t, true)) :
    exec (.sclr c f) s = .next ((t.clearActions c (cImm f)).advance c) := by
  rw [exec_sclr, execSclr, runCore_issues issues]
  simp only [ok, decide_eq_true actions, Bool.and_self, privileged_firmware firmware, drain, if_true, drained, State.finish_done]

end Sclr

variable (ok : cOk f false true = true) (imm : cImm f = 0)
include ok imm

/-! CTXSET -/

theorem execCtxset_outside (outside : 256 ≤ ((s.seen c).sreg (fRA f)).toNat) :
    exec (.ctxset c f) s = .next ((s.goOn c).precise c causeIllegal 0) := by
  rw [exec_ctxset, execCtxset, runCore_issues issues]
  simp only [ok, imm, decide_true, Bool.and_self, privileged_firmware firmware, if_pos outside, State.finish_exc]

theorem execCtxset_retires (inside : ((s.seen c).sreg (fRA f)).toNat < 256) (quiet : (s.seen c).quiet = true) : exec (.ctxset c f) s =
    .next (((s.goOn c).setCore c { s.seen c with ctx := ((s.seen c).sreg (fRA f)).toNat }).advance c) := by
  rw [exec_ctxset, execCtxset, runCore_issues issues]
  simp only [ok, imm, decide_true, Bool.and_self, privileged_firmware firmware, if_neg (Nat.not_le.mpr inside), quiet, if_true,
    State.finish_done]

/-! UENTER -/

/-- R144: CLEAN and COLD come before UENTER. -/
theorem execUenter_unclean (unclean : (s.seen c).sys.clean = false ∨ (s.seen c).sys.cold = false) :
    exec (.uenter c f) s = .next ((s.goOn c).precise c causeIllegal 0) := by
  have bad : (!(s.seen c).sys.clean || !(s.seen c).sys.cold) = true := by simpa using unclean
  rw [exec_uenter, execUenter, runCore_issues issues]
  simp only [ok, imm, decide_true, Bool.and_self, privileged_firmware firmware, if_pos bad, State.finish_exc]

section Clean

variable (clean : (s.seen c).sys.clean = true) (cold : (s.seen c).sys.cold = true) {v : State} (cleared : (s.goOn c).clearRegs c = v)
  {y : Core} (core : v.core c = y) {pc : Nat} (target : (s.seen c).sys.uenter.getD (((s.seen c).sreg (fRA f)).toNat % 2 ^ 48 / 8 * 8) = pc)
include clean cold cleared core target

theorem execUenter_enters (quiet : y.quiet = true) : exec (.uenter c f) s = .next ((v.setCore c
    { y with run := 3, fw := false, exc := default, tickets := [], impr := [], issue := 0
             sys := { y.sys with uenter := none } }).setPc c pc) := by
  rw [exec_uenter, execUenter, runCore_issues issues]
  simp only [ok, imm, decide_true, Bool.and_self, privileged_firmware firmware, clean, cold, Bool.not_true, Bool.or_self,
    Bool.false_eq_true, if_false, cleared, core, target, quiet, State.finish_jump]

theorem execUenter_waits (busy : y.quiet = false) : exec (.uenter c f) s =
    .next (v.setCore c { y with sys := { y.sys with uenter := some pc } }) := by
  rw [exec_uenter, execUenter, runCore_issues issues]
  simp only [ok, imm, decide_true, Bool.and_self, privileged_firmware firmware, clean, cold, Bool.not_true, Bool.or_self,
    Bool.false_eq_true, if_false, cleared, core, target, busy, Bool.not_false, if_true, State.finish_wait]

end Clean

end System

/-- Settles O14: a listed IMM16 by `execRdctr_retires`, any other by `execRdctr_unlisted`. -/
theorem rdctrReads : Obligations.rdctrReads := by
  intro s c f issues ok d reads
  have listed := execRdctr_retires issues ok
  refine ⟨fun imm firmware => ?full, fun imm user => ?coarse, fun imm => ?lock, execRdctr_unlisted issues ok⟩
  case full =>
    rw [listed (imm ▸ Nat.zero_lt_two), imm, firmware]
    rfl
  case coarse =>
    rw [listed (imm ▸ Nat.zero_lt_two), imm, user]
    rfl
  case lock => rw [listed (imm ▸ Nat.one_lt_two), if_pos imm]

/-- Settles O15: one lemma per instruction and outcome. -/
theorem systemInstructionResults : Obligations.systemInstructionResults := by
  intro s c f issues u x
  refine ⟨fun firmware => ⟨fun ok w => execSysr_retires issues firmware ok, fun _ => execSysr_unknown issues,
    fun ok => execSysw_retires issues firmware ok, fun ok actions => ?sclr, fun ok imm => ⟨?ctxset, execCtxset_outside issues firmware ok imm,
      fun clean cold => ?uenter, execUenter_unclean issues firmware ok imm⟩⟩, execEndRole_ends issues⟩
  case sclr =>
    exact ⟨execSclr_clears issues firmware ok actions, fun drain complete =>
      execSclr_drains issues firmware ok actions drain (Prod.ext rfl complete)⟩
  case ctxset => exact execCtxset_retires issues firmware ok imm
  case uenter =>
    intro v y pc
    have cleared : u.clearRegs c = v := rfl
    have core : v.core c = y := rfl
    have target : x.sys.uenter.getD ((x.sreg (fRA f)).toNat % 2 ^ 48 / 8 * 8) = pc := rfl
    exact ⟨execUenter_enters issues firmware ok imm clean cold cleared core target,
      execUenter_waits issues firmware ok imm clean cold cleared core target⟩

end Sys2Proof.Machine

/-! AMO (R124, R125, R128, R257). -/

namespace Sys2Proof.Machine

/-- R128: with RD = s0 an AMO is a reduction. -/
theorem amoReq_post (c : Nat) (f : BitVec 56) (x : Core) : (amoReq c f x).post = decide (fRD f = 0) := rfl

section Amo

variable {s : State} {c : Nat} {f : BitVec 56} (issues : Issues s c)
  (ok : zeros f [(53, 3), (0, 29)] = true) (listed : fld f 29 4 < 7) (operand : fld f 29 4 = 4 ∨ fRC f = 0)
  (cause : (s.goOn c).accCause (s.seen c) (accAmo f (s.seen c)) = none)

include ok listed operand in
/-- Only the compare-and-swap has a third operand. -/
theorem amo_legal : (zeros f [(53, 3), (0, 29)] && decide (fld f 29 4 < 7) && (decide (fld f 29 4 = 4) || decide (fRC f = 0))) = true := by
  simp [ok, listed, operand]

include issues ok listed operand cause

theorem execAmo_outsideSpace (space : (accAmo f (s.seen c)).space ≠ 0) :
    exec (.amo c f) s = .next ((s.goOn c).precise c causeAtomic (accAmo f (s.seen c)).ea) := by
  rw [exec_amo, execAmo, runCore_issues issues]
  simp only [amo_legal ok listed operand, legal_true, cause, if_pos space, State.finish_exc]

section Space

variable (space : (accAmo f (s.seen c)).space = 0)
include space

theorem execAmo_held {ev : Bool} (held : (s.goOn c).accHeld c (s.seen c) (accAmo f (s.seen c)) = some ev) :
    exec (.amo c f) s = .next (s.noteRun c (if ev then 4 else 3)) := by
  rw [exec_amo, execAmo, runCore_issues issues]
  simp only [amo_legal ok listed operand, legal_true, cause, space, ne_eq, not_true, if_false, held, State.finish_held]

variable (free : (s.goOn c).accHeld c (s.seen c) (accAmo f (s.seen c)) = none)
include free

theorem execAmo_waits (returns : fRD f ≠ 0) :
    exec (.amo c f) s = .next (((s.goOn c).queueCached c (amoReq c f (s.seen c))).waits c (amoWait f (s.seen c))) := by
  rw [exec_amo, execAmo, runCore_issues issues]
  simp only [amo_legal ok listed operand, legal_true, cause, space, ne_eq, not_true, if_false, free, amoReq_post, returns, decide_false,
    Bool.not_false, if_true, State.finish_loadWait]

section Reduction

variable (reduces : fRD f = 0)
include reduces

/-- A reduction is posted, as a store is. -/
theorem execAmo_posted (taken : (accAmo f (s.seen c)).ea / 2 ^ 28 = c →
      (s.goOn c).partRefusal (amoReq c f (s.seen c)) (accAmo f (s.seen c)).ea (accAmo f (s.seen c)).len = none) :
    exec (.amo c f) s = .next ((((s.goOn c).queueCached c (amoReq c f (s.seen c))).addOutst c 1).advance c) := by
  rw [exec_amo, execAmo, runCore_issues issues]
  simp only [amo_legal ok listed operand, legal_true, cause, space, ne_eq, not_true, if_false, free, amoReq_post, reduces, decide_true,
    Bool.not_true, Bool.false_eq_true, ite_eq_right_iff.mpr taken, State.finish_done]

/-- R125: the core's own slice refuses a reduction at once. -/
theorem execAmo_refused (own : (accAmo f (s.seen c)).ea / 2 ^ 28 = c) {k : Nat}
    (refused : (s.goOn c).partRefusal (amoReq c f (s.seen c)) (accAmo f (s.seen c)).ea (accAmo f (s.seen c)).len = some k) :
    exec (.amo c f) s = .next ((s.goOn c).precise c k (accAmo f (s.seen c)).ea) := by
  rw [exec_amo, execAmo, runCore_issues issues]
  simp only [amo_legal ok listed operand, legal_true, cause, space, ne_eq, not_true, if_false, free, amoReq_post, reduces, decide_true,
    Bool.not_true, Bool.false_eq_true, if_pos own, refused, State.finish_exc]

end Reduction

end Space

end Amo

/-- Settles O20: one lemma per outcome of an AMO. -/
theorem atomicsIssue : Obligations.atomicsIssue := by
  intro s c f issues u x a r ok listed operand cause
  exact ⟨execAmo_outsideSpace issues ok listed operand cause, fun _ space => execAmo_held issues ok listed operand cause space,
    fun space free => ⟨execAmo_waits issues ok listed operand cause space free, execAmo_posted issues ok listed operand cause space free,
      fun _ reduces own => execAmo_refused issues ok listed operand cause space free reduces own⟩⟩

end Sys2Proof.Machine

/-! QSTART (R152, R154): what the bounds check covers, one lemma per outcome, and O21 from them. -/

namespace Sys2Proof.Machine

/-! The bounds check -/

/-- A multiple between 0 and `n` times `k` lies between the two ends, whatever the sign of `k`. -/
theorem mul_between_ends {r n k : Int} (low : 0 ≤ r) (high : r ≤ n) : min 0 (n * k) ≤ r * k ∧ r * k ≤ max 0 (n * k) := by
  rcases le_total 0 k with up | down
  · exact ⟨min_le_of_left_le (mul_nonneg low up), le_max_of_le_right (mul_le_mul_of_nonneg_right high up)⟩
  · exact ⟨min_le_of_right_le (mul_le_mul_of_nonpos_right high down), le_max_of_le_left (mul_nonpos_of_nonneg_of_nonpos low down)⟩

/-- R154: QSTART looks at the first and the last run of a pattern alone; they bound every run between them. -/
theorem QDesc.inside_iff {d : QDesc} (runs : d.count ≠ 0) : d.inside = true ↔
    ∀ r : Nat, r < d.count → 0 ≤ (d.base : Int) + r * d.stride ∧ (d.base : Int) + r * d.stride + d.runLen ≤ 2 ^ 24 := by
  simp only [QDesc.inside, Bool.and_eq_true, decide_eq_true_eq]
  constructor
  · rintro ⟨⟨low, high⟩, first⟩ r hr
    have ends := mul_between_ends (r := r) (n := (d.count : Int) - 1) (k := d.stride) (by omega) (by omega)
    omega
  · intro every
    have first := every 0 (Nat.pos_of_ne_zero runs)
    have last := every (d.count - 1) (Nat.sub_lt (Nat.pos_of_ne_zero runs) Nat.one_pos)
    rw [Nat.cast_pred (Nat.pos_of_ne_zero runs)] at last
    simp only [Nat.cast_zero, Int.zero_mul, Int.add_zero] at first
    exact ⟨last, by omega⟩

/-- R154: a pattern is refused where one of its runs leaves the slice. -/
theorem QDesc.not_inside_iff {d : QDesc} (runs : d.count ≠ 0) : ¬ d.inside = true ↔ ∃ r : Nat, r < d.count ∧
    ((d.base : Int) + r * d.stride < 0 ∨ (2 : Int) ^ 24 < (d.base : Int) + r * d.stride + d.runLen) := by
  rw [QDesc.inside_iff runs]
  simp only [not_forall, exists_prop, not_and_or, not_le]

/-! The instruction -/

/-- The descriptor at position 0 in STATE `st`. -/
def QDesc.startedIn (d : QDesc) (st : Nat) : QDesc :=
  { d with state := st, pos := 0, got := 0, low := 0, more := [], puts := [], stalled := false }

section Qstart

variable {s : State} {c : Nat} {f : BitVec 56} (issues : Issues s c) (word : qOk f = true) (r1 : qR1 f = 0) (w : qW f = 0)
  {d : QDesc} (desc : (s.seen c).desc (qN f) = d) (idle : d.state ≠ 1)
include issues word r1 w desc idle

/-- R154: the checks of QSTART in their order. -/
theorem execQstart_eq : exec (.qstart c f) s = s.finish c
    (if 2 ≤ d.dir ∨ d.cls = 3 ∨ (d.dir = 1 ∧ d.cls ≠ 2) then .exc (s.goOn c) causeIllegal 0
      else if d.runLen = 0 ∨ d.count = 0 then
        .done ((s.goOn c).setCore c (((s.seen c).dropQ (qN f)).setDesc (qN f) (d.startedIn 2)))
      else if !d.inside then .exc (s.goOn c) causeLen 0
      else .done ((s.goOn c).setCore c (((s.seen c).dropQ (qN f)).setDesc (qN f) (d.startedIn 1)))) := by
  subst desc
  rw [exec_qstart, execQstart, runCore_issues issues]
  simp only [word, r1, w, decide_true, Bool.and_self, legal_true, if_neg idle]
  rfl

theorem execQstart_illegal (bad : 2 ≤ d.dir ∨ d.cls = 3 ∨ (d.dir = 1 ∧ d.cls ≠ 2)) :
    exec (.qstart c f) s = .next ((s.goOn c).precise c causeIllegal 0) := by
  rw [execQstart_eq issues word r1 w desc idle, if_pos bad, State.finish_exc]

section Known

variable (known : ¬(2 ≤ d.dir ∨ d.cls = 3 ∨ (d.dir = 1 ∧ d.cls ≠ 2)))
include known

theorem execQstart_empty (empty : d.runLen = 0 ∨ d.count = 0) : exec (.qstart c f) s =
    .next (((s.goOn c).setCore c (((s.seen c).dropQ (qN f)).setDesc (qN f) (d.startedIn 2))).advance c) := by
  rw [execQstart_eq issues word r1 w desc idle, if_neg known, if_pos empty, State.finish_done]

theorem execQstart_outside (nonempty : ¬(d.runLen = 0 ∨ d.count = 0)) (outside : ¬ d.inside = true) :
    exec (.qstart c f) s = .next ((s.goOn c).precise c causeLen 0) := by
  rw [execQstart_eq issues word r1 w desc idle, if_neg known, if_neg nonempty, if_pos (by simpa using outside), State.finish_exc]

theorem execQstart_activates (nonempty : ¬(d.runLen = 0 ∨ d.count = 0)) (inside : d.inside = true) : exec (.qstart c f) s =
    .next (((s.goOn c).setCore c (((s.seen c).dropQ (qN f)).setDesc (qN f) (d.startedIn 1))).advance c) := by
  rw [execQstart_eq issues word r1 w desc idle, if_neg known, if_neg nonempty, if_neg (by simpa using inside), State.finish_done]

end Known

end Qstart

/-- Settles O21: one lemma per outcome of QSTART, its bounds check by `QDesc.not_inside_iff`. -/
theorem streamStartChecks : Obligations.streamStartChecks := by
  intro s c f issues word r1 w u x d starts bad outside idle
  refine ⟨execQstart_illegal issues word r1 w rfl idle, execQstart_empty issues word r1 w rfl idle, ?leaves, ?active⟩
  case leaves =>
    intro known run leaves
    have count : d.count ≠ 0 := by
      obtain ⟨r, below, -⟩ := leaves
      omega
    exact execQstart_outside issues word r1 w rfl idle known (not_or.mpr ⟨run, count⟩) ((QDesc.not_inside_iff count).mpr leaves)
  case active =>
    intro known run count stays
    exact execQstart_activates issues word r1 w rfl idle known (not_or.mpr ⟨run, count⟩)
      (not_not.mp (mt (QDesc.not_inside_iff count).mp stays))

end Sys2Proof.Machine

/-! The message instructions (R160, R161, R163, R164): one lemma per outcome, and O26 from them. -/

namespace Sys2Proof.Machine

/-- Correcting words of scratch leaves every port as it is. -/
@[simp] theorem State.port_scratchFix (s : State) (c off len m : Nat) : ((s.scratchFix c off len).core c).port m = (s.core c).port m := by
  simp only [State.scratchFix]
  split
  · rfl
  · rw [State.core_setCore_self]
    rfl

/-! What becomes of a send (R161, R162, R277) -/

section SendOn

variable {v : State} {c m : Nat} {p : Port} (port : (v.core c).port m = p)
include port

theorem State.sendOn_refused (n : Nat) (data : Bytes) (returned : p.nacked = true ∨ p.epoch = 0) :
    v.sendOn c m n data = .done (v.setCore c { (v.core c).setPort m { p with nacked := true } with
      stat := { (v.core c).stat with nackRet := (v.core c).stat.nackRet + 1 } }) := by
  subst port
  rw [State.sendOn]
  exact if_pos (by simpa using returned)

/-- R161: the send takes its credits, is counted for the context, and puts one message on its way. -/
theorem State.sendOn_sends {n : Nat} (data : Bytes) (fresh : p.nacked = false) (role : p.epoch ≠ 0) (credits : n ≤ p.credits) :
    let x := v.core c
    let t := v.setCore c { x.setPort m { p with credits := p.credits - n, pending := p.pending + 1 } with
      stat := { x.stat with msgUnits := x.stat.msgUnits + n } }
    let t := t.setCtx x.ctx { t.ctx x.ctx with units := (t.ctx x.ctx).units + n }
    v.sendOn c m n data = .done { t with net := { t.net with
      msgs := t.net.msgs ++ [⟨c, x.epoch, m, p.dst, p.dport, p.epoch, x.ctx, data⟩] } } := by
  subst port
  simp only [State.sendOn, fresh, role, Nat.not_lt.mpr credits, decide_false, Bool.or_self, Bool.false_eq_true, if_false]

end SendOn

section Message

variable {s : State} {c : Nat} {f : BitVec 56} (issues : Issues s c) (word : gOk f = true)
include issues word

/-! GBIND -/

section Gbind

variable (r1 : gR1 f = 0) (settled : ((s.seen c).port (gPort f)).pending = 0) {w : Word} (hw : (s.seen c).sreg (gR2 f) = w)
include r1 settled hw

theorem execGbind_unbinds (zero : w = 0) : exec (.gbind c f) s = .next (((s.goOn c).unbindPort c (gPort f)).advance c) := by
  rw [exec_gbind, execGbind, runCore_issues issues]
  have kind : bits w 62 2 = 0 := zero ▸ rfl
  have rest : bits w 0 62 = 0 := zero ▸ rfl
  simp only [word, r1, settled, hw, kind, rest, decide_true, Bool.and_self, legal_true, ne_eq, not_true, if_false, if_true,
    State.finish_done]

theorem execGbind_send (kind : bits w 62 2 = 1) (rest : bits w 0 32 = 0) : exec (.gbind c f) s =
    .next (((s.goOn c).bindSend c (gPort f) (bits w 51 11) (bits w 48 3) (bits w 32 16)).advance c) := by
  rw [exec_gbind, execGbind, runCore_issues issues]
  simp only [word, r1, settled, hw, kind, rest, decide_true, Bool.and_self, legal_true, ne_eq, not_true, if_false, if_true,
    Nat.one_ne_zero, State.finish_done]

/-- R276: a receive port is bound over the ring that a record names for it, or over any ring where none does, within its bounds. -/
theorem execGbind_recv {base size : Nat} (hbase : bits w 32 20 = base) (hsize : bits w 0 20 = size) (kind : bits w 62 2 = 2)
    (high : bits w 52 10 = 0) (low : bits w 20 12 = 0) (baseAligned : base % 64 = 0) (sizeAligned : size % 64 = 0) (nonzero : size ≠ 0)
    (named : (s.goOn c).ringOf c (gPort f) = none ∨ (s.goOn c).ringOf c (gPort f) = some (base, size)) :
    exec (.gbind c f) s = s.finish c (if 524288 < size ∨ 2 ^ 20 < base + size then .exc (s.goOn c) causeLen 0
      else .done ((s.goOn c).bindRecv c (gPort f) base size)) := by
  subst hbase hsize
  rw [exec_gbind, execGbind, runCore_issues issues]
  rcases named with named | named <;>
    simp only [word, r1, settled, hw, kind, high, low, baseAligned, sizeAligned, nonzero, named, decide_true, Bool.and_self, legal_true,
      ne_eq, not_true, not_false_eq_true, if_false, if_true, OfNat.ofNat_ne_zero, OfNat.ofNat_ne_one]

end Gbind

/-! GSENDV and GSENDS -/

section Send

variable (send : ((s.seen c).port (gPort f)).kind = 1)
include send

theorem execGsendv_eq (r1 : gR1 f = 0) :
    exec (.gsendv c f) s = s.finish c ((s.goOn c).sendOn c (gPort f) 1 (vbytes ((s.seen c).vreg (gR2 f)))) := by
  rw [exec_gsendv, execGsendv, runCore_issues issues]
  simp only [word, r1, send, decide_true, Bool.and_self, legal_true]

variable {len off : Nat} (hlen : ((s.seen c).sreg (gR1 f)).toNat = len)
include hlen

theorem execGsends_nothing (none : len = 0) : exec (.gsends c f) s = .next (s.retire c) := by
  rw [exec_gsends, execGsends, runCore_issues issues]
  simp only [word, send, hlen, none, decide_true, Bool.and_self, legal_true, if_true]
  rfl

theorem execGsends_eq (hoff : ((s.seen c).sreg (gR2 f)).toNat = off) (nonzero : len ≠ 0) (units : len % 64 = 0) (aligned : off % 64 = 0)
    (short : len ≤ 2048) (granted : len ≤ ((s.seen c).port (gPort f)).maxlen * 64) (inside : off + len ≤ 2 ^ 20)
    (good : (s.goOn c).scratchUe c off len = false) : exec (.gsends c f) s =
      s.finish c (((s.goOn c).scratchFix c off len).sendOn c (gPort f) (len / 64) ((s.goOn c).scratchRead c off len)) := by
  rw [exec_gsends, execGsends, runCore_issues issues]
  have bounds : ¬(len % 64 ≠ 0 ∨ 2048 < len ∨ ((s.seen c).port (gPort f)).maxlen * 64 < len ∨ 2 ^ 20 < off + len) := by omega
  simp only [word, send, hlen, hoff, nonzero, aligned, good, decide_true, Bool.and_self, legal_true, ne_eq, not_true, if_false,
    Bool.false_eq_true]
  exact congrArg (s.finish c) (if_neg bounds)

end Send

/-! GRECV, GRECVV and GFREE -/

section Receive

variable {p : Port} (port : (s.seen c).port (gPort f) = p) (recv : p.kind = 2)
include port recv

section Head

variable (r2 : gR2 f = 0) {r : RingMsg} (head : p.head = some r)
include r2 head

theorem execGrecv_takes : exec (.grecv c f) s = .next (((s.goOn c).setCore c
    (((s.seen c).setPort (gPort f) { p with ring := takeHead p.ring }).setS (gR1 f) (r.header p.base))).advance c) := by
  rw [exec_grecv, execGrecv, runCore_issues issues]
  simp only [word, r2, port, recv, head, decide_true, Bool.and_self, legal_true, State.finish_done]

theorem execGrecvv_takes (unit : r.units = 1) (good : (s.goOn c).scratchUe c (p.base + r.off) 64 = false) :
    let v := (s.goOn c).scratchFix c (p.base + r.off) 64
    exec (.grecvv c f) s = .next (((v.setCore c (((v.core c).setPort (gPort f) { p with ring := dropHead p.ring }).setV (gR1 f)
      (vofBytes ((s.goOn c).scratchRead c (p.base + r.off) 64)))).returnCredits c (gPort f) [(r, 1)]).advance c) := by
  rw [exec_grecvv, execGrecvv, runCore_issues issues]
  simp only [word, r2, port, recv, head, unit, good, decide_true, Bool.and_self, legal_true, ne_eq, not_true, if_false,
    Bool.false_eq_true, State.finish_done]

theorem execGrecvv_long (long : r.units ≠ 1) : exec (.grecvv c f) s = .next ((s.goOn c).precise c causeLen 0) := by
  rw [exec_grecvv, execGrecvv, runCore_issues issues]
  simp only [word, r2, port, recv, head, if_pos long, decide_true, Bool.and_self, legal_true, State.finish_exc]

end Head

theorem execGfree_frees (r1 : gR1 f = 0) {n : Nat} (hn : ((s.seen c).sreg (gR2 f)).toNat = n) (units : n % 64 = 0)
    (held : n ≤ ((p.ring.filter (·.taken)).map fun r => r.units - r.freed).sum * 64) : exec (.gfree c f) s =
      .next ((((s.goOn c).setCore c ((s.seen c).setPort (gPort f) { p with ring := (freeUnits (n / 64) p.ring).1 })).returnCredits c
        (gPort f) (freeUnits (n / 64) p.ring).2).advance c) := by
  rw [exec_gfree, execGfree, runCore_issues issues]
  simp only [word, r1, port, recv, hn, units, Nat.not_lt.mpr held, decide_true, Bool.and_self, legal_true, ne_eq, not_true, or_self,
    if_false, State.finish_done]

end Receive

/-! GSTAT -/

theorem execGstat_retires (r2 : gR2 f = 0) :
    exec (.gstat c f) s = .next (s.retireS c (gR1 f) ((s.seen c).port (gPort f)).status) := by
  rw [exec_gstat, execGstat, runCore_issues issues]
  simp only [word, r2, decide_true, Bool.and_self, legal_true, State.finish_doneS]

end Message

/-- Settles O26: GBIND by its KIND, the sends by `State.sendOn_refused` and `State.sendOn_sends`, the rest by one lemma per outcome. -/
theorem messageInstructionResults : Obligations.messageInstructionResults := by
  intro s c f issues word u x m p w ends
  refine ⟨fun r1 settled => ⟨execGbind_unbinds issues word r1 settled rfl, execGbind_send issues word r1 settled rfl, ?recvBind⟩,
    fun send => ?send, fun recv => ⟨fun r r2 head => ?taken, fun r1 units held => ?free⟩, execGstat_retires issues word⟩
  case recvBind =>
    intro kind high low baseAligned sizeAligned nonzero named
    have bind := execGbind_recv issues word r1 settled rfl rfl rfl kind high low baseAligned sizeAligned nonzero named
    refine ⟨fun short inside => ?_, fun long => ?_⟩
    · rw [bind, if_neg (not_or.mpr ⟨Nat.not_lt.mpr short, Nat.not_lt.mpr inside⟩), State.finish_done]
    · rw [bind, if_pos long, State.finish_exc]
  case send =>
    intro sends refused len off
    refine ⟨fun r1 => ?gsendv, execGsends_nothing issues word send rfl, fun nonzero units aligned short granted inside good => ?gsends⟩
    case gsendv =>
      rw [execGsendv_eq issues word send r1]
      exact ⟨fun returned => congrArg (s.finish c) (State.sendOn_refused rfl _ _ returned),
        fun fresh role credits => congrArg (s.finish c) (State.sendOn_sends rfl _ fresh role credits)⟩
    case gsends =>
      have port := State.port_scratchFix u c off len m
      rw [execGsends_eq issues word send rfl rfl nonzero units aligned short granted inside good]
      exact ⟨fun returned => congrArg (s.finish c) (State.sendOn_refused port _ _ returned),
        fun fresh role credits => congrArg (s.finish c) (State.sendOn_sends port _ fresh role credits)⟩
  case taken =>
    exact ⟨execGrecv_takes issues word rfl recv r2 head, execGrecvv_takes issues word rfl recv r2 head,
      execGrecvv_long issues word rfl recv r2 head⟩
  case free => exact execGfree_frees issues word rfl recv r1 rfl units held

end Sys2Proof.Machine

/-! What a halyard controller does with the requests it holds (R189, R190, R205, R212, R217, R254): one lemma per command, and O31 from them. -/

namespace Sys2Proof.Machine

/-- The turn that R189 and R190 give next, where every eligible request counts. -/
theorem State.nextGrant_any (s : State) (p : Nat) (free : Nat → Bool) : s.nextGrant p free (fun _ => true) =
    (grantClass (s.hal p) (eligible free (s.hal p).reqs [])).bind fun k => (eligible free (s.hal p).reqs []).find? fun r => r.cls = k := by
  simp only [State.nextGrant, List.filter_true]

/-- R176: the CAPAR mismatches of a command, counted. -/
def State.countRetries (s : State) (p n : Nat) : State :=
  s.setHal p { s.hal p with via := { (s.hal p).via with capRetry := min 0xFF ((s.hal p).via.capRetry + n) } }

theorem State.setHal_capRetry (s : State) (p n : Nat) :
    s.setHal p { s.hal p with via := { (s.hal p).via with capRetry := min 0xFF ((s.hal p).via.capRetry + n) } } = s.countRetries p n := rfl

section HalyardRequests

variable {s : State} {c p : Nat} (core : c < 1280) (backed : s.phys c = some p) (runs : s.dieRuns (c / 256) = true)
include core backed runs

/-! A grant (R176, R189, R190) -/

section Grant

variable (ups : List Upset) {k : Nat} {t : State}

section FewMismatches

variable (few : k < 4) (ht : s.countRetries p k = t)
include few ht

theorem execHalyardGrant_few : execHalyardGrant c ups k s =
    .next ((t.nextGrant p (t.bankFree p) fun _ => true).elim t fun r => (t.upsets p (r.off / 128) ups).grantReq p r) := by
  have counted : min k 3 = k := Nat.min_eq_left (Nat.le_of_lt_succ few)
  simp only [execHalyardGrant, unit, core, backed, runs, counted, State.setHal_capRetry, ht, Nat.not_le.mpr few, decide_true,
    Bool.not_true, Bool.false_eq_true, if_true, if_false]
  cases t.nextGrant p (t.bankFree p) fun _ => true <;> rfl

theorem execHalyardGrant_grants {r : HReq} (next : t.nextGrant p (t.bankFree p) (fun _ => true) = some r) :
    execHalyardGrant c ups k s = .next ((t.upsets p (r.off / 128) ups).grantReq p r) := by
  rw [execHalyardGrant_few core backed runs ups few ht, next, Option.elim_some]

theorem execHalyardGrant_idle (next : t.nextGrant p (t.bankFree p) (fun _ => true) = none) :
    execHalyardGrant c ups k s = .next t := by
  rw [execHalyardGrant_few core backed runs ups few ht, next, Option.elim_none]

end FewMismatches

/-- R176, R185: four mismatches in a row make a command via due; which one is free (log entry 5). -/
theorem execHalyardGrant_viaDue (many : 4 ≤ k) (ht : s.countRetries p 3 = t) : execHalyardGrant c ups k s =
    .next (t.free.2.setHal p { t.free.2.hal p with via := (t.free.2.hal p).via.dueVia (576 + t.free.1 % 44) }) := by
  have counted : min k 3 = 3 := Nat.min_eq_right (Nat.le_of_succ_le many)
  simp only [execHalyardGrant, unit, core, backed, runs, counted, State.setHal_capRetry, ht, many, decide_true, Bool.not_true,
    Bool.false_eq_true, if_true, if_false]

end Grant

/-! Write-backs and flushes (R205, R212, R217) -/

theorem execCorrectedWriteback_writes {w : Nat} {rest : List Nat} (queue : (s.hal p).fix = w :: rest) :
    execCorrectedWriteback c s = .next ((s.setHal p { s.hal p with fix := rest }).writeBack p w 2) := by
  simp [execCorrectedWriteback, unit, core, backed, queue, runs]

theorem execScrubWriteback_writes {w : Nat} {rest : List Nat} (queue : (s.hal p).scrubFix = w :: rest)
    (idle : eligible (s.bankFree p) (s.hal p).reqs [] = []) :
    execScrubWriteback c s = .next ((s.setHal p { s.hal p with scrubFix := rest }).writeBack p w 3) := by
  simp [execScrubWriteback, unit, core, backed, queue, runs, idle]

theorem execMergeAgeFlush_flushes {e : MergeEntry} {rest : List MergeEntry} (buffer : (s.hal p).merge = e :: rest) :
    execMergeAgeFlush c s = .next (s.flushWhere p (fun f => decide (f.word = e.word)) 2) := by
  simp [execMergeAgeFlush, unit, core, backed, buffer, runs]

/-! Confirmed writes (R254) -/

theorem execSealedWriteConfirm_confirms {r go : HReq}
    (oldest : confirmable (fun r => s.invals.any fun e => decide (e.2.1 = lineOf c r.off)) (s.hal p).reqs [] = some r)
    {t : State} (ht : s.dropHome (lineOf c r.off) true = t) (hgo : { r with waits := false } = go) :
    execSealedWriteConfirm c s = .next ((t.setHal p { t.hal p with reqs := (t.hal p).reqs.map fun q => if q = r then go else q }).serveWhile
      p (t.bankFree p) (fun _ => true) (fun x _ => x.reqs.contains go) (t.hal p).reqs.length) := by
  subst ht hgo
  simp only [execSealedWriteConfirm, unit, core, backed, runs, oldest, decide_true, Bool.not_true, Bool.false_eq_true, if_true, if_false]

end HalyardRequests

/-- Settles O31: the grant by the request that `State.nextGrant` finds, the other commands by one lemma each. -/
theorem halyardRequests : Obligations.halyardRequests := by
  intro s c p core backed runs x
  refine ⟨?grant, fun ups k many => execHalyardGrant_viaDue core backed runs ups many rfl,
    fun w rest => execCorrectedWriteback_writes core backed runs, fun w rest => execScrubWriteback_writes core backed runs,
    fun e rest => execMergeAgeFlush_flushes core backed runs, fun r oldest => execSealedWriteConfirm_confirms core backed runs oldest rfl rfl⟩
  case grant =>
    intro ups k few t l
    refine ⟨fun cls r hcls hr => execHalyardGrant_grants core backed runs ups few rfl ?_, fun ungranted =>
      execHalyardGrant_idle core backed runs ups few rfl ?_⟩
    · exact (t.nextGrant_any p _).trans ((congrArg (Option.bind · _) hcls).trans hr)
    · exact (t.nextGrant_any p _).trans (congrArg (Option.bind · _) ungranted)

end Sys2Proof.Machine

/-! Refresh, windows, the scrubber, the region map and test mode (R194, R196, R200, R215 to R218, R244): one lemma per outcome, and O32 from
them. -/

namespace Sys2Proof.Machine

section RefreshAndScrubbing

variable {s : State} {c p : Nat} (core : c < 1280) (backed : s.phys c = some p) (runs : s.dieRuns (c / 256) = true)
include core backed

/-! Refresh (R194) -/

section Refresh

variable {b : Nat} (bank : b < 128)
include bank

theorem execRefreshDue_free (free : s.bankFree p b = true) : execRefreshDue c b s = .next s := by
  simp [execRefreshDue, unit, core, bank, backed, free]

include runs

section Busy

variable (busy : s.bankFree p b = false)
include busy

theorem execRefreshDue_owes (few : tget (s.hal p).owed b < 4) : execRefreshDue c b s = .next (s.setHal p { s.hal p with
    owed := tput (s.hal p).owed b (tget (s.hal p).owed b + 1)
    owedMax := tput (s.hal p).owedMax (b / 16) (max (tget (s.hal p).owedMax (b / 16)) (tget (s.hal p).owed b + 1)) }) := by
  simp [execRefreshDue, unit, core, bank, backed, runs, busy, few]

variable (full : 4 ≤ tget (s.hal p).owed b)
include full

theorem execRefreshDue_paused (paused : (tget (s.nbu p).units b).paused = true) :
    execRefreshDue c b s = .next (s.setHal p ((s.hal p).payOwed b)) := by
  simp [execRefreshDue, unit, core, bank, backed, runs, busy, Nat.not_lt.mpr full, paused]

theorem execRefreshDue_asksPause (going : (tget (s.nbu p).units b).paused = false) : execRefreshDue c b s =
    .next ((s.setNbu p { s.nbu p with units := tput (s.nbu p).units b { tget (s.nbu p).units b with pauseReq := true } }).setHal p
      { s.hal p with pauses := wrap 32 ((s.hal p).pauses + 1) }) := by
  simp [execRefreshDue, unit, core, bank, backed, runs, busy, Nat.not_lt.mpr full, going]

end Busy

theorem execRefreshOwedIssue_issues (free : s.bankFree p b = true) : execRefreshOwedIssue c b s =
    .next (s.setHal p { s.hal p with owed := tput (s.hal p).owed b (tget (s.hal p).owed b - 1) }) := by
  simp [execRefreshOwedIssue, unit, core, bank, backed, runs, free]

end Refresh

/-! The scrubber (R216 to R218) -/

include runs in
theorem execScrubLine_reads (ups : List Upset) (enabled : (s.hal p).scrub.enabled = true) (normal : (s.hal p).test.mode = 0)
    (free : s.bankFree p (bankOf ((s.hal p).scrub.line * 128)) = true) (idle : eligible (s.bankFree p) (s.hal p).reqs [] = [])
    {t : State} (ht : (List.range 4).foldl (fun u i => u.scrubWord c p ((s.hal p).scrub.line * 4 + i))
      (s.upsets p (s.hal p).scrub.line ups) = t) :
    execScrubLine c ups s = .next (t.setHal p { t.hal p with
      scrub := (t.hal p).scrub.next (t.die (c / 256))
      grants := tput (t.hal p).grants 3 (wrap 64 (tget (t.hal p).grants 3 + 1)) }) := by
  simp [execScrubLine, unit, core, backed, runs, enabled, normal, free, idle, ht]

include runs in
theorem execScrubLapLate_late (enabled : (s.hal p).scrub.enabled = true)
    (long : (s.hal p).scrub.limitNow < (s.die (c / 256)).count - (s.hal p).scrub.lapStart) :
    execScrubLapLate c s = .next (s.setHal p { s.hal p with scrub := { (s.hal p).scrub with late := true } }) := by
  simp [execScrubLapLate, unit, core, backed, runs, enabled, long]

theorem execScrubLapLate_inTime (inTime : (s.hal p).scrub.enabled = false ∨
    (s.die (c / 256)).count - (s.hal p).scrub.lapStart ≤ (s.hal p).scrub.limitNow) : execScrubLapLate c s = .next s := by
  rcases inTime with off | short
  · simp [execScrubLapLate, unit, core, backed, off]
  · simp [execScrubLapLate, unit, core, backed, Nat.not_lt.mpr short]

/-! The region map (R200) -/

include runs in
theorem execRegionMapWrite_writes (lo hi : Word) (stopped : (s.core c).run = 0 ∨ (s.core c).run = 2) :
    execRegionMapWrite c lo hi s = .next (s.setRegions p (hi ++ lo)) := by
  simp [execRegionMapWrite, unit, core, backed, runs, stopped]

theorem execRegionMapWrite_refused (lo hi : Word) (stopped : ¬((s.core c).run = 0 ∨ (s.core c).run = 2)) :
    execRegionMapWrite c lo hi s = .next s := by
  simp [execRegionMapWrite, unit, core, backed, not_or.mp stopped]

/-! Test mode (R215) -/

section TestMode

variable {mode : Nat} {b : TestRun} (bank : b.bank < 128)
include runs bank

theorem execTestModeEnable_leaves (off : mode = 0) : execTestModeEnable c mode b s =
    .next (s.setHal p { s.hal p with test := { (s.hal p).test with mode := 0, refused := false, bank := b.bank } }) := by
  subst off
  simp [execTestModeEnable, unit, core, bank, backed, runs]

variable (listed : mode < 3) (on : mode ≠ 0)
include listed on

theorem execTestModeEnable_enters (stopped : (s.core c).run = 0 ∨ (s.core c).run = 2) {t : State} (ht : s.flushNow p (fun _ => true) = t) :
    execTestModeEnable c mode b s = .next (b.acc.foldl (fun u a => u.testAccess p b.bank a)
      (t.setHal p { t.hal p with test := ⟨mode, false, b.bank, (t.hal p).test.check⟩ })) := by
  simp [execTestModeEnable, unit, core, listed, bank, backed, runs, on, stopped, ht]

theorem execTestModeEnable_refused (running : ¬((s.core c).run = 0 ∨ (s.core c).run = 2)) : execTestModeEnable c mode b s =
    .next (s.setHal p { s.hal p with test := { (s.hal p).test with mode := 0, refused := true } }) := by
  simp [execTestModeEnable, unit, core, listed, bank, backed, runs, on, not_or.mp running]

end TestMode

end RefreshAndScrubbing

/-! Recalibration windows (R196, R244) -/

section Window

variable {s : State} {p : Nat} (halyard : p < 1440)
include halyard

theorem execRecalWindow_opens (runs : s.dieRuns (p / 288) = true)
    (wanted : (s.hal p).band ≠ (s.hal p).bandSet ∨ (s.hal p).via.due ≠ []) : execRecalWindow p s = .next (s.recal p) := by
  rcases wanted with band | due
  · simp [execRecalWindow, unit, halyard, runs, band]
  · simp [execRecalWindow, unit, halyard, runs, due]

theorem execRecalWindow_shut (band : (s.hal p).band = (s.hal p).bandSet) (due : (s.hal p).via.due = []) :
    execRecalWindow p s = .next s := by
  simp [execRecalWindow, unit, halyard, band, due]

end Window

/-- Settles O32: refresh, windows, and the commands of scrubber, region map and test mode, by one lemma per outcome. -/
theorem refreshAndScrubbing : Obligations.refreshAndScrubbing := by
  refine ⟨?refresh, ?window, ?commands⟩
  case refresh =>
    intro s c p core backed runs x b bank k
    exact ⟨execRefreshDue_free core backed bank, execRefreshDue_owes core backed runs bank, execRefreshDue_paused core backed runs bank,
      execRefreshDue_asksPause core backed runs bank, execRefreshOwedIssue_issues core backed runs bank⟩
  case window =>
    intro s p halyard runs x band
    exact ⟨execRecalWindow_opens halyard runs, execRecalWindow_shut halyard⟩
  case commands =>
    intro s c p core backed runs x
    refine ⟨fun ups enabled normal free idle => execScrubLine_reads core backed runs ups enabled normal free idle rfl,
      execScrubLapLate_late core backed runs, execScrubLapLate_inTime core backed, fun lo hi => ?regions, fun mode b listed bank => ?test⟩
    case regions =>
      exact ⟨execRegionMapWrite_writes core backed runs lo hi,
        fun up role => execRegionMapWrite_refused core backed lo hi (not_or.mpr ⟨up, role⟩)⟩
    case test =>
      exact ⟨execTestModeEnable_leaves core backed runs bank,
        fun on stopped => execTestModeEnable_enters core backed runs bank listed on stopped rfl,
        fun on up role => execTestModeEnable_refused core backed runs bank listed on (not_or.mpr ⟨up, role⟩)⟩

end Sys2Proof.Machine

/-! Every step keeps the memories in canonical form and takes one command from the queue (R54, R203, R206): what `Keeps` says of the
shared operations holds of every operation, so of every command, and O60 follows. The lemmas stand in the order of the model. -/

namespace Sys2Proof.Machine

variable {s t u : State}

/-- An update of fields other than the queue and the byte memories. Each field is an argument of its own, so that unification finds
an update that stands inside a chain of operations. -/
theorem keeps_update (s : State)
    {tx fresh struck perstOut halfMast hubCount hubPllLost boot alert accessErr mbox flash mapGen guestUp map dies clus cores hals
    nbus scratchBad scratchOne caches invals net jobs place ctxs own sec sess reports flt serve dma que host lnk pairs guest thm
    pwr mtrPres meter mtr trc} :
    Keeps s ⟨s.pending, tx, fresh, struck, perstOut, halfMast, hubCount, hubPllLost, boot, alert, accessErr, mbox, flash, mapGen,
      guestUp, map, dies, clus, cores, hals, nbus, s.mem, s.flips, s.scratch, scratchBad, scratchOne, caches, invals, net, jobs,
      place, ctxs, own, sec, sess, reports, flt, serve, dma, que, host, lnk, pairs, guest, thm, pwr, mtrPres, meter, mtr, trc⟩ :=
  .of_eq rfl rfl rfl rfl

/-- New contents of the slices in canonical form. -/
theorem keeps_mem {m : List Host.Cell} (h : twf s.mem = true → twf m = true) : Keeps s { s with mem := m } := ⟨rfl, h, id, id⟩

/-- New symbol changes in canonical form. -/
theorem keeps_flips {m : List Host.Cell} (h : twf s.flips = true → twf m = true) : Keeps s { s with flips := m } := ⟨rfl, id, h, id⟩

theorem Keeps.foldl_at {σ α : Type} (st : σ → State) (f : σ → α → σ) (hf : ∀ x a, Keeps (st x) (st (f x a))) (l : List α) :
    ∀ x, Keeps (st x) (st (l.foldl f x)) := by
  induction l with
  | nil => exact fun x => .refl _
  | cons a l ih => exact fun x => (hf x a).trans (ih _)

/-- The state of a pair that an operation answers. -/
theorem Keeps.fst {α : Type} {x : State × α} {a : α} (he : x = (t, a)) (h : Keeps s x.1) : Keeps s t := by
  rw [he] at h
  exact h

theorem Keeps.snd {α : Type} {x : α × State} {a : α} (he : x = (a, t)) (h : Keeps s x.2) : Keeps s t := by
  rw [he] at h
  exact h

/-- A meaning that starts from a state that is reached. -/
theorem Keeps.ir {r : Ir} (h : Keeps s t) (k : r.Keeps t) : r.Keeps s := by
  cases r with
  | held => trivial
  | exc | done | jump | wait => exact h.trans k

theorem Ir.Keeps.ite {c : Prop} [Decidable c] {r r' : Ir} (h : r.Keeps s) (k : r'.Keeps s) : (if c then r else r').Keeps s := by
  split
  · exact h
  · exact k

/-- Where an operation answers, the state of its answer keeps the queue and the canonical form. -/
structure OptKeeps {α : Type} (st : α → State) (s : State) (o : Option α) : Prop where
  keeps : ∀ x, o = some x → Keeps s (st x)

section OptKeeps

variable {α β : Type} {st : α → State} {st' : β → State} {o o' : Option α} {x : α}

theorem OptKeeps.some (h : Keeps s (st x)) : OptKeeps st s (.some x) := ⟨fun _ e => Option.some.inj e ▸ h⟩

theorem OptKeeps.pair {a : α} (h : Keeps s t) : OptKeeps Prod.fst s (.some (t, a)) := .some h

theorem OptKeeps.none : OptKeeps st s .none := ⟨fun _ e => nomatch e⟩

theorem OptKeeps.of_eq (he : o = .some x) (h : OptKeeps st s o) : Keeps s (st x) := h.keeps x he

theorem OptKeeps.ite {c : Prop} [Decidable c] (h : OptKeeps st s o) (k : OptKeeps st s o') : OptKeeps st s (if c then o else o') := by
  split
  · exact h
  · exact k

theorem OptKeeps.bind {f : α → Option β} (h : OptKeeps st s o) (hf : ∀ x, OptKeeps st' (st x) (f x)) : OptKeeps st' s (o.bind f) := by
  refine ⟨fun y hy => ?_⟩
  obtain ⟨x, hx, hy⟩ := Option.bind_eq_some_iff.mp hy
  exact (h.keeps x hx).trans ((hf x).keeps y hy)

theorem OptKeeps.map {f : α → β} (h : OptKeeps st s o) (hf : ∀ x, Keeps (st x) (st' (f x))) : OptKeeps st' s (o.map f) := by
  refine ⟨fun y hy => ?_⟩
  obtain ⟨x, hx, rfl⟩ := Option.map_eq_some_iff.mp hy
  exact (h.keeps x hx).trans (hf x)

theorem OptKeeps.mapPair {f : α → State} {g : α → β} (h : OptKeeps st s o) (hf : ∀ x, Keeps (st x) (f x)) :
    OptKeeps Prod.fst s (o.map fun x => (f x, g x)) :=
  h.map hf

theorem OptKeeps.foldl {γ : Type} {f : α → γ → Option α} (hf : ∀ x a, OptKeeps st (st x) (f x a)) (l : List γ) :
    ∀ {o : Option α}, OptKeeps st s o → OptKeeps st s (l.foldl (fun o a => o.bind fun x => f x a) o) := by
  induction l with
  | nil => exact id
  | cons a l ih => exact fun h => ih (h.bind fun x => hf x a)

theorem Keeps.opt (h : Keeps s t) (k : OptKeeps st t o) : OptKeeps st s o := ⟨fun x hx => h.trans (k.keeps x hx)⟩

end OptKeeps

/-- What a command answers keeps the queue and the canonical form, where it answers a next state. -/
structure AnswerKeeps (s : State) (o : Host.Outcome State Fault Refusal) : Prop where
  keeps : ∀ t, o = .next t → Keeps s t

theorem AnswerKeeps.next (h : Keeps s t) : AnswerKeeps s (.next t) := ⟨fun _ e => Host.Outcome.next.inj e ▸ h⟩

theorem AnswerKeeps.ite {c : Prop} [Decidable c] {o o' : Host.Outcome State Fault Refusal} (h : AnswerKeeps s o) (k : AnswerKeeps s o') :
    AnswerKeeps s (if c then o else o') := by
  split
  · exact h
  · exact k

theorem AnswerKeeps.fault {f : Fault} : AnswerKeeps s (.fault f) := ⟨fun _ e => nomatch e⟩

theorem AnswerKeeps.unit {ok : Bool} (h : Keeps s t) : AnswerKeeps s (unit ok t) := by
  cases ok
  · exact .fault
  · exact .next h

theorem AnswerKeeps.core {c : Nat} {body : State → Core → Ir} (h : ∀ u x, (body u x).Keeps u) :
    AnswerKeeps s (runCore c s body) := ⟨fun _ => runCore_keeps h⟩

/-! Free values and reports -/

theorem keeps_freeBytes (s : State) (n : Nat) : Keeps s (s.freeBytes n).2 := keeps_update ..

theorem keeps_reportExcOf (s : State) (c job stage cause addr : Nat) : Keeps s (s.reportExcOf c job stage cause addr) := keeps_report ..

/-! Scratch (R54) -/

theorem keeps_scratchUpset (s : State) (c w : Nat) (one : Bool) : Keeps s (s.scratchUpset c w one) :=
  .ite (.refl _) (.ite (keeps_update ..) (keeps_update ..))

/-! Held requests and the instruction cache (R56, R190) -/

theorem keeps_fetched (s : State) (c line : Nat) : Keeps s (s.fetched c line) := .ite (keeps_setCore ..) (.refl _)

theorem keeps_fetchFails (s : State) (c line cause : Nat) : Keeps s (s.fetchFails c line cause) :=
  .ite ((keeps_setCore ..).trans (.ite (keeps_precise ..) (.refl _))) (.refl _)

theorem keeps_serveBoundary (s : State) (p b : Nat) : Keeps s (s.serveBoundary p b) := keeps_serveBank ..

/-! Cluster caches (R248 to R261) -/

theorem keeps_dropLinesAll (s : State) (drop : Nat → Nat → CLine → Bool) : Keeps s (s.dropLinesAll drop) := keeps_update ..

theorem keeps_allocLine (s : State) (h line : Nat) (l : CLine) : Keeps s (s.allocLine h line l) := by
  unfold State.allocLine
  extract_lets s1
  have h1 : Keeps s s1 := by
    unfold s1
    split
    · exact .ite (keeps_dropHome ..) (keeps_dropAt ..)
    · exact .refl _
  exact .ite (.refl _) (h1.trans (keeps_setCache ..))

theorem keeps_ringChannel (s : State) (k v : Nat) (host : Bool) : Keeps s (s.ringChannel k v host) := by
  unfold State.ringChannel
  extract_lets
  split
  · exact keeps_update ..
  · exact keeps_update ..

theorem keeps_ringWords (s : State) (en : Nat → Bool) (line : Bytes) : Keeps s (s.ringWords en line) :=
  .foldl _ (fun _ _ => keeps_ringChannel ..) _ _

theorem keeps_writeThrough (s : State) (r : CReq) (data : Bytes) (en : Nat → Bool) : Keeps s (s.writeThrough r data en) := by
  unfold State.writeThrough
  extract_lets
  split
  · exact .refl _
  · extract_lets s1 _ _ _ s2 _ s3
    have h1 : Keeps s s1 := (keeps_turn ..).trans (keeps_writeWords ..)
    have h2 : Keeps s s2 := .ite (h1.trans (keeps_setCache ..)) h1
    have h3 : Keeps s s3 := h2.trans (keeps_ringWords ..)
    split
    · exact h3.trans (keeps_update ..)
    · exact h3

theorem keeps_dropSharers (s : State) (h line : Nat) : Keeps s (s.dropSharers h line) :=
  (Keeps.foldl _ (fun _ _ => keeps_dropAt ..) _ _).trans (.ite (keeps_setCache ..) (.refl _))

theorem keeps_dropPartner (s : State) (r : CReq) : Keeps s (s.dropPartner r) := by
  unfold State.dropPartner
  split
  · exact .refl _
  · extract_lets
    split
    · exact .refl _
    · exact (keeps_setCache ..).trans (keeps_acked ..)

theorem keeps_refuseCached (s : State) (r : CReq) (cause : Nat) : Keeps s (s.refuseCached r cause) := by
  unfold State.refuseCached
  split
  · exact ((keeps_acked ..).trans (keeps_dropPartner ..)).trans (keeps_imprecise ..)
  · exact keeps_fetchFails ..
  · exact .ite ((keeps_acked ..).trans (keeps_imprecise ..)) (keeps_loadFails ..)

theorem keeps_changeLine (s : State) (h : Nat) (r : CReq) (line : Bytes) : Keeps s (s.changeLine h r line) :=
  (keeps_dropSharers ..).trans ((keeps_writeThrough ..).trans (keeps_setCache ..))

theorem keeps_performAmo (s : State) (h : Nat) (r : CReq) (line : Bytes) : Keeps s (s.performAmo h r line) :=
  (keeps_changeLine ..).trans (.ite (keeps_acked ..) (keeps_deliver ..))

theorem keeps_answerLoad (s : State) (h : Nat) (r : CReq) (data : Bytes) : Keeps s (s.answerLoad h r data) := by
  unfold State.answerLoad
  extract_lets _ _ _ s1
  have h1 : Keeps s s1 := by
    unfold s1
    split
    · exact .ite ((keeps_setCache ..).trans (keeps_allocLine ..)) (.refl _)
    · exact .refl _
  exact .ite (h1.trans (keeps_fetched ..)) (h1.trans (keeps_deliver ..))

theorem keeps_forward (s : State) (r : CReq) : Keeps s (s.forward r) := keeps_setCache ..

theorem keeps_settleLine (s : State) (line : Nat) : Keeps s (s.settleLine line) := by
  unfold State.settleLine
  split
  · exact keeps_settle ..
  · exact .refl _

theorem keeps_serveHome (s : State) (h : Nat) (r : CReq) : Keeps s (s.serveHome h r) := by
  unfold State.serveHome
  extract_lets _ _ _ s1
  have h1 : Keeps s s1 := .ite (keeps_dropHome ..) (.refl _)
  split
  · exact h1.trans (keeps_refuseCached ..)
  · split
    · exact ((h1.trans (keeps_dropSharers ..)).trans (keeps_writeThrough ..)).trans (keeps_acked ..)
    · exact .ite (h1.trans (keeps_performAmo ..)) (h1.trans (keeps_setCache ..))
    · exact .ite (h1.trans (keeps_answerLoad ..)) (h1.trans (keeps_setCache ..))

theorem keeps_countAccess (s : State) (h line ctx : Nat) (counts : Bool) : Keeps s (s.countAccess h line ctx counts) := keeps_setCache ..

theorem keeps_serveAccess (s : State) (h : Nat) (r : CReq) : Keeps s (s.serveAccess h r) :=
  (Keeps.ite (keeps_settleLine ..) (.refl _)).trans ((keeps_countAccess ..).trans
    (.ite (keeps_serveHome ..) (.ite (.ite (keeps_answerLoad ..) ((keeps_dropAt ..).trans (keeps_forward ..)))
      ((keeps_dropAt ..).trans (keeps_forward ..)))))

theorem keeps_cacheError (s : State) (h line : Nat) (e : CacheErr) : Keeps s (s.cacheError h line e) := by
  unfold State.cacheError
  extract_lets
  split
  · exact .refl _
  · exact keeps_setCache ..
  · exact (keeps_setCache ..).trans (.ite (keeps_dropHome ..) (keeps_dropAt ..))
  · exact (keeps_setCache ..).trans (((keeps_dropLinesAll ..).trans (keeps_update ..)).trans (keeps_report ..))

theorem keeps_execCcAccess (h : Nat) (e : CacheErr) (s : State) : AnswerKeeps s (execCcAccess h e s) := by
  unfold execCcAccess
  refine .unit ?_
  extract_lets
  refine .ite (.refl _) ?_
  split
  · exact .refl _
  · exact ((keeps_setCache ..).trans (keeps_cacheError ..)).trans (keeps_serveAccess ..)

theorem keeps_fillFor (s : State) (h : Nat) (r : CReq) : Keeps s (s.fillFor h r) := by
  unfold State.fillFor
  split
  · exact keeps_refuseCached ..
  · exact keeps_refuseCached ..
  · split
    · rename_i s1 _ _ he
      have h1 := Keeps.fst he (keeps_readSlice ..)
      exact h1.trans (keeps_refuseCached ..)
    · rename_i s2 _ he
      have h2 := Keeps.fst he (keeps_readSlice ..)
      exact (h2.trans (keeps_allocLine ..)).trans (.ite (keeps_performAmo ..) (keeps_answerLoad ..))

theorem keeps_execCcFill (h : Nat) (u : List Upset) (s : State) : AnswerKeeps s (execCcFill h u s) := by
  unfold execCcFill
  refine .unit ?_
  extract_lets
  refine .ite (.refl _) ?_
  split
  · exact .refl _
  · extract_lets s1 s2
    have h1 : Keeps s s1 := keeps_setCache ..
    have h2 : Keeps s s2 := by
      unfold s2
      split
      · exact h1.trans (keeps_upsets ..)
      · exact h1
    exact h2.trans (keeps_fillFor ..)

theorem keeps_ackInval (s : State) (g line : Nat) : Keeps s (s.ackInval g line) :=
  .ite (keeps_setCache ..) (.ite ((keeps_dropAt ..).trans (keeps_setCache ..)) (keeps_setCache ..))

theorem keeps_execCcInvalidate (i : Nat) (s : State) : AnswerKeeps s (execCcInvalidate i s) := by
  unfold execCcInvalidate
  split
  · exact .next (.refl _)
  · exact .next (.ite (.refl _) (((keeps_dropAt ..).trans (keeps_update ..)).trans (keeps_ackInval ..)))

theorem keeps_walkContext (s : State) (h ctx : Nat) : Keeps s (s.walkContext h ctx) :=
  (keeps_setCache ..).trans (.foldl _ (fun _ _ => .ite (keeps_dropAt ..)
    (.ite (keeps_dropHome ..) ((keeps_sendInvals ..).trans (keeps_setCache ..)))) _ _)

theorem keeps_dropContext (s : State) (h ctx : Nat) : Keeps s (s.dropContext h ctx) :=
  (keeps_setCache ..).trans (.foldl _ (fun _ _ => .ite (keeps_dropHome ..) (keeps_dropAt ..)) _ _)

theorem keeps_execCcContextInvalidate (h ctx : Nat) (s : State) : AnswerKeeps s (execCcContextInvalidate h ctx s) :=
  .unit (.ite (keeps_walkContext ..) (.refl _))

/-! The host's memory, interrupts and the queue table (R371 to R378) -/

theorem keeps_hostWrite (s : State) (a : Nat) (data : Bytes) : Keeps s (s.hostWrite a data) :=
  .foldl _ (fun _ _ => .ite (keeps_send ..) (.refl _)) _ _

theorem keeps_hostRead (s : State) (a len : Nat) : Keeps s (s.hostRead a len).2 := (keeps_send ..).trans (keeps_update ..)

theorem keeps_hostReads (s : State) (a len : Nat) : Keeps s (s.hostReads a len) := .foldl _ (fun _ _ => keeps_hostRead ..) _ _

theorem keeps_message (s : State) (v : Nat) : Keeps s (s.message v) := .ite (keeps_send ..) (.refl _)

theorem keeps_sendMsix (s : State) (v : Nat) : Keeps s (s.sendMsix v) :=
  .ite (.refl _) (.ite (keeps_message ..) (.ite (.refl _) (keeps_update ..)))

theorem keeps_raiseAlert (s : State) (k : Nat) : Keeps s (s.raiseAlert k) :=
  (keeps_alertOn ..).trans (.ite ((keeps_send ..).trans (keeps_update ..)) (.refl _))

theorem keeps_hubWrite (s : State) (c off : Nat) (data : Bytes) : Keeps s (s.hubWrite c off data) := by
  unfold State.hubWrite
  split
  · exact .ite (.refl _) (keeps_writeNow ..)
  · exact .refl _

theorem keeps_writeCopies (s : State) (l : List Nat) (off : Nat) (data : Bytes) : Keeps s (s.writeCopies l off data) :=
  .foldl _ (fun _ _ => keeps_hubWrite ..) _ _

theorem keeps_writeMidx (s : State) (l : List Nat) (q : Nat) : Keeps s (s.writeMidx l q) := keeps_writeCopies ..

theorem keeps_setQe (s : State) (q : Nat) (e : QEntry) : Keeps s (s.setQe q e) :=
  (keeps_update ..).trans ((Keeps.ite (.refl _) (keeps_writeCopies ..)).trans
    ((Keeps.ite (.refl _) (keeps_writeCopies ..)).trans (.ite (.refl _) (keeps_writeMidx ..))))

theorem keeps_takeMidx (s : State) (q m : Nat) : Keeps s (s.takeMidx q m) := (keeps_update ..).trans (keeps_writeMidx ..)

theorem keeps_rejectQueue (s : State) (q reason : Nat) : Keeps s (s.rejectQueue q reason) := keeps_update ..

theorem keeps_shadowQueue (s : State) (q : Nat) : Keeps s (s.shadowQueue q) :=
  (Keeps.ite (keeps_hostWrite ..) (.refl _)).trans (.ite (.refl _)
    (.ite (keeps_sendMsix ..) (.ite (keeps_update ..) ((keeps_sendMsix ..).trans (keeps_update ..)))))

theorem keeps_reserveBanks (s : State) (c : Nat) (on : Bool) : Keeps s (s.reserveBanks c on) := keeps_update ..

theorem twf_foldl_tput_entries (k : Nat × Byte → Nat) (l : List (Nat × Byte)) :
    ∀ {m : Tbl Byte}, twf m = true → twf (l.foldl (fun m e => tput m (k e) e.2) m) = true := by
  induction l with
  | nil => exact id
  | cons e l ih => exact fun h => ih (twf_tput _ _ h)

theorem keeps_copyBanks (s : State) (k c : Nat) : Keeps s (s.copyBanks k c) := by
  unfold State.copyBanks
  split
  · rename_i p q _ _
    extract_lets src s1 x
    have h1 : Keeps s s1 := .foldl _ (fun _ _ => keeps_zeroBank ..) _ _
    clear_value s1
    exact (h1.trans (keeps_setHal ..)).trans (keeps_mem fun h => twf_foldl_tput_entries _ _ h)
  · exact .refl _

theorem keeps_resetVectors (s : State) (d : Nat) : Keeps s (s.resetVectors d) := keeps_update ..

theorem keeps_queCopyLost (s : State) (c : Nat) : Keeps s (s.queCopyLost c).1 := by
  unfold State.queCopyLost
  extract_lets _ s1
  have h1 : Keeps s s1 := keeps_reserveBanks ..
  split
  · exact .refl _
  · split
    · exact h1.trans (keeps_update ..)
    · exact (h1.trans (keeps_update ..)).trans (((keeps_reserveBanks ..).trans (keeps_copyBanks ..)).trans (keeps_resetVectors ..))
    · exact (h1.trans (keeps_update ..)).trans (keeps_resetVectors ..)

theorem keeps_postEntry (s : State) (q : Nat) (entry : Bytes) : Keeps s (s.postEntry q entry) :=
  (keeps_hostWrite ..).trans ((keeps_setQe ..).trans (keeps_shadowQueue ..))

theorem keeps_postOrHold (s : State) (q : Nat) (entry : Bytes) : Keeps s (s.postOrHold q entry) :=
  .ite (keeps_postEntry ..) (keeps_update ..)

theorem keeps_postLate (s : State) (q : Nat) : Keeps s (s.postLate q) := by
  unfold State.postLate
  extract_lets
  split
  · exact .ite ((keeps_update ..).trans (keeps_postEntry ..)) (.refl _)
  · exact .refl _

theorem keeps_postToRange (s : State) (j status : Nat) : Keeps s (s.postToRange j status) := .foldl _ (fun _ _ => keeps_postOrHold ..) _ _

/-! Frames that the module sends (R388 to R394) -/

theorem keeps_setLport (s : State) (p : Nat) (x : LPort) : Keeps s (s.setLport p x) := keeps_update ..

theorem keeps_transmit (s : State) (p typ : Nat) (f : Frame) : Keeps s (s.transmit p typ f) := (keeps_setLport ..).trans (keeps_send ..)

theorem keeps_sendFrame (s : State) (p typ : Nat) (f : Frame) : Keeps s (s.sendFrame p typ f) :=
  .ite (keeps_transmit ..) (keeps_setLport ..)

theorem keeps_drainFrames (p : Nat) (l : List (Nat × Frame)) : ∀ (s : State) (b : List Nat), Keeps s (s.drainFrames p l b) := by
  induction l with
  | nil => exact fun s _ => .refl s
  | cons e l ih => exact fun s b => .ite (((keeps_setLport ..).trans (keeps_transmit ..)).trans (ih ..)) (ih ..)

theorem keeps_drainPort (s : State) (p : Nat) : Keeps s (s.drainPort p) := keeps_drainFrames ..

theorem keeps_noticeEpoch (s : State) (p i e : Nat) : Keeps s (s.noticeEpoch p i e) := .ite (keeps_sendFrame ..) (.refl _)

theorem keeps_noticeSegment (s : State) (p inst : Nat) : Keeps s (s.noticeSegment p inst) := .ite (keeps_sendFrame ..) (.refl _)

theorem keeps_remoteReq (s : State) (who : RemWho) (write : Bool) (da len : Nat) (data : Bytes) :
    Keeps s (s.remoteReq who write da len data).1 :=
  (keeps_update ..).trans (.ite (.refl _) (keeps_sendFrame ..))

/-! Messages (R160 to R164, R274 to R280) -/

theorem keeps_returnCredits (s : State) (c m : Nat) (l : List (RingMsg × Nat)) : Keeps s (s.returnCredits c m l) := keeps_update ..

theorem keeps_takeHeld (s : State) (c m : Nat) : Keeps s (s.takeHeld c m) := (keeps_setCore ..).trans (keeps_update ..)

theorem keeps_unbindPort (s : State) (c m : Nat) : Keeps s (s.unbindPort c m) := (keeps_returnCredits ..).trans (keeps_setCore ..)

theorem keeps_bindSend (s : State) (c m dst dport epoch : Nat) : Keeps s (s.bindSend c m dst dport epoch) :=
  (Keeps.ite (.refl _) (keeps_unbindPort ..)).trans ((keeps_setCore ..).trans (.ite (.refl _) (keeps_takeHeld ..)))

theorem keeps_bindRecv (s : State) (c m base size : Nat) : Keeps s (s.bindRecv c m base size) :=
  (keeps_unbindPort ..).trans (keeps_setCore ..)

theorem keeps_execGbind (c : Nat) (f : BitVec 56) (s : State) : AnswerKeeps s (execGbind c f s) := by
  unfold execGbind
  refine .core fun s x => ?_
  extract_lets
  exact keeps_legal (.ite trivial (.ite (keeps_legal (keeps_unbindPort ..))
    (.ite (keeps_legal (keeps_bindSend ..)) (.ite (keeps_legal (.ite (Keeps.refl _) (keeps_bindRecv ..))) (Keeps.refl _)))))

theorem keeps_sendOn (s : State) (c m n : Nat) (data : Bytes) : (s.sendOn c m n data).Keeps s := by
  unfold State.sendOn
  extract_lets _ _ _ _ _ s1 _ s2
  have h1 : Keeps s s1 := keeps_setCore ..
  have h2 : Keeps s s2 := h1.trans (keeps_setCtx ..)
  exact .ite (keeps_setCore ..) (.ite trivial (h2.trans (keeps_update ..)))

theorem keeps_execGsendv (c : Nat) (f : BitVec 56) (s : State) : AnswerKeeps s (execGsendv c f s) :=
  .core fun _ _ => keeps_legal (keeps_sendOn ..)

theorem keeps_execGsends (c : Nat) (f : BitVec 56) (s : State) : AnswerKeeps s (execGsends c f s) :=
  .core fun _ _ => keeps_legal (.ite (Keeps.refl _) (.ite (Keeps.refl _)
    (.ite (Keeps.refl _) (.ite (Keeps.refl _) ((keeps_scratchFix ..).ir (keeps_sendOn ..))))))

theorem keeps_execGrecv (c : Nat) (f : BitVec 56) (s : State) : AnswerKeeps s (execGrecv c f s) := by
  unfold execGrecv
  refine .core fun s x => ?_
  extract_lets
  refine keeps_legal ?_
  split
  · exact trivial
  · exact keeps_setCore ..

theorem keeps_execGrecvv (c : Nat) (f : BitVec 56) (s : State) : AnswerKeeps s (execGrecvv c f s) := by
  unfold execGrecvv
  refine .core fun s x => ?_
  extract_lets
  refine keeps_legal ?_
  split
  · exact trivial
  · extract_lets _ s1 s2
    have h1 : Keeps s s1 := keeps_scratchFix ..
    have h2 : Keeps s s2 := h1.trans (keeps_setCore ..)
    exact .ite (Keeps.refl _) (.ite (Keeps.refl _) (h2.trans (keeps_returnCredits ..)))

theorem keeps_execGfree (c : Nat) (f : BitVec 56) (s : State) : AnswerKeeps s (execGfree c f s) := by
  unfold execGfree
  refine .core fun s x => ?_
  extract_lets
  refine keeps_legal (.ite (Keeps.refl _) ?_)
  split
  exact (keeps_setCore ..).trans (keeps_returnCredits ..)

theorem keeps_execGstat (c : Nat) (f : BitVec 56) (s : State) : AnswerKeeps s (execGstat c f s) :=
  .core fun _ _ => keeps_legal (keeps_doneS ..)

theorem keeps_accepted (s : State) (m : Msg) : Keeps s (s.accepted m) := .ite (keeps_setCore ..) (.refl _)

theorem keeps_countDrop (s : State) (m : Msg) (epoch : Nat) : Keeps s (s.countDrop m epoch) := keeps_setClu ..

theorem keeps_deliverMsg (s : State) (m : Msg) : Keeps s (s.deliverMsg m) :=
  (keeps_scratchWrite ..).trans ((keeps_setCore ..).trans (keeps_accepted ..))

theorem keeps_execMsgArrive (i : Nat) (s : State) : AnswerKeeps s (execMsgArrive i s) := by
  unfold execMsgArrive
  extract_lets _ s1
  have h1 : Keeps s s1 := keeps_update ..
  split
  · exact .next (.refl _)
  · extract_lets _ _ s2
    have h2 : Keeps s s2 := .ite (h1.trans (keeps_countDrop ..)) h1
    exact .ite (.next (.refl _)) (.ite (.next (h1.trans (keeps_deliverMsg ..))) (.next (h2.trans (keeps_update ..))))

theorem keeps_eventCredits (s : State) (dst epoch n : Nat) : Keeps s (s.eventCredits dst epoch n) := .ite (keeps_setJob ..) (.refl _)

theorem keeps_eventReturned (s : State) (n : Nack) : Keeps s (s.eventReturned n) := .ite (keeps_setJob ..) (.refl _)

theorem keeps_execNackEpoch (i : Nat) (s : State) : AnswerKeeps s (execNackEpoch i s) := by
  unfold execNackEpoch
  extract_lets _ s1
  have h1 : Keeps s s1 := keeps_update ..
  split
  · exact .next (.refl _)
  · extract_lets
    exact .ite (.next (.refl _)) (.ite (.next (h1.trans (keeps_eventReturned ..)))
      (.ite (.next (h1.trans (keeps_setCore ..))) (.next (h1.trans (keeps_setCore ..)))))

theorem keeps_execCreditRelease (i : Nat) (s : State) : AnswerKeeps s (execCreditRelease i s) := by
  unfold execCreditRelease
  extract_lets
  split
  · exact .next (.refl _)
  · exact .ite (.next (keeps_update ..)) (.next (.refl _))

theorem keeps_execCreditArrive (i : Nat) (s : State) : AnswerKeeps s (execCreditArrive i s) := by
  unfold execCreditArrive
  extract_lets _ s1
  have h1 : Keeps s s1 := keeps_update ..
  split
  · exact .next (.refl _)
  · extract_lets
    exact .ite (.next (.refl _)) (.ite (.next (h1.trans (keeps_eventCredits ..)))
      (.ite (.next (h1.trans (keeps_setCore ..))) (.next (h1.trans (keeps_update ..)))))

/-! Streams (R67 to R72, R152 to R159) -/

theorem keeps_readPieces (c p : Nat) (l : List (Nat × Nat × Option Bytes)) : ∀ s : State, Keeps s (s.readPieces c p l).1 := by
  induction l with
  | nil => exact .refl
  | cons e l ih =>
    intro s
    obtain ⟨o, n, d⟩ := e
    have h : Keeps s (match d with | some d => (s, Except.ok d) | none => s.readSlice p o n ((s.core c).byStream c 0)).1 := by
      cases d with
      | some d => exact .refl s
      | none => exact keeps_readSlice ..
    unfold State.readPieces
    split
    · rename_i t _ _ he
      exact Keeps.fst he h
    · rename_i t a he
      have ht : Keeps s t := Keeps.fst he h
      split
      · rename_i he
        exact ht.trans (.fst he (ih t))
      · rename_i he
        exact ht.trans (.fst he (ih t))

theorem keeps_readUnits (s : State) (c p q u n : Nat) : Keeps s (s.readUnits c p q u n).1 := by
  unfold State.readUnits
  extract_lets
  split
  · exact .refl _
  · exact keeps_readPieces ..

theorem keeps_execQset (c : Nat) (f : BitVec 56) (s : State) : AnswerKeeps s (execQset c f s) := by
  unfold execQset
  refine .core fun s x => ?_
  extract_lets
  exact keeps_legal (.ite trivial (keeps_setCore ..))

theorem keeps_execQget (c : Nat) (f : BitVec 56) (s : State) : AnswerKeeps s (execQget c f s) :=
  .core fun _ _ => keeps_legal (keeps_doneS ..)

theorem keeps_execQstart (c : Nat) (f : BitVec 56) (s : State) : AnswerKeeps s (execQstart c f s) := by
  unfold execQstart
  refine .core fun s x => ?_
  extract_lets
  exact keeps_legal (.ite trivial (.ite (Keeps.refl _) (.ite (keeps_setCore ..) (.ite (Keeps.refl _) (keeps_setCore ..)))))

theorem keeps_execQtake (c : Nat) (f : BitVec 56) (s : State) : AnswerKeeps s (execQtake c f s) := by
  unfold execQtake
  refine .core fun s x => ?_
  extract_lets
  refine keeps_legal ?_
  split
  · exact Keeps.refl _
  · split
    · exact trivial
    · refine .ite trivial (.ite trivial (.ite (keeps_setCore ..) ?_))
      split
      · rename_i he
        exact Keeps.fst he (keeps_readUnits ..)
      · rename_i s1 _ he
        have h1 := Keeps.fst he (keeps_readUnits ..)
        exact h1.trans (keeps_setCore ..)

theorem keeps_execQput (c : Nat) (f : BitVec 56) (s : State) : AnswerKeeps s (execQput c f s) := by
  unfold execQput
  refine .core fun s x => ?_
  extract_lets
  refine keeps_legal ?_
  split
  · exact Keeps.refl _
  · exact .ite trivial (keeps_setCore ..)

theorem keeps_execQcancel (c : Nat) (f : BitVec 56) (s : State) : AnswerKeeps s (execQcancel c f s) := by
  unfold execQcancel
  refine .core fun s x => ?_
  extract_lets
  exact keeps_legal (.ite trivial (keeps_setCore ..))

theorem keeps_execStreamPrefetch (c q : Nat) (s : State) : AnswerKeeps s (execStreamPrefetch c q s) := by
  unfold execStreamPrefetch
  extract_lets
  refine .unit ?_
  split
  · exact .refl _
  · extract_lets
    refine .ite ?_ (.refl _)
    split
    · exact .refl _
    · exact .ite (.refl _) ((keeps_setHal ..).trans (keeps_setCore ..))

theorem keeps_execStreamLineArrive (c line : Nat) (u : List Upset) (s : State) : AnswerKeeps s (execStreamLineArrive c line u s) := by
  unfold execStreamLineArrive
  refine .unit ?_
  split
  · exact .refl _
  · split
    · exact .ite (.refl _) ((keeps_upsets ..).trans (keeps_serveWhile ..))
    · exact .refl _

theorem keeps_execStreamWrite (c q : Nat) (s : State) : AnswerKeeps s (execStreamWrite c q s) := by
  unfold execStreamWrite
  extract_lets
  refine .unit ?_
  split
  · extract_lets s1
    have h1 : Keeps s s1 := by
      refine Keeps.foldl_pair _ (fun _ _ => ?_) _ (s, _)
      exact .ite (keeps_imprecise ..) (keeps_writeNow ..)
    exact .ite (.refl _) (h1.trans (keeps_setCore ..))
  · exact .refl _

/-! Writes to control space (R44 to R46, R378) -/

theorem keeps_accessFault (s : State) (kind bar off : Nat) : Keeps s (s.accessFault kind bar off) := keeps_update ..

theorem keeps_noteUnbacked (s : State) (off : Nat) : Keeps s (s.noteUnbacked off) := by
  unfold State.noteUnbacked
  split
  · exact .ite (.refl _) (keeps_accessFault ..)
  · exact .refl _

theorem keeps_commandWord (s : State) (off half v : Nat) : Keeps s (s.commandWord off half v).1 := by
  unfold State.commandWord
  extract_lets
  split
  · exact keeps_update ..
  · split
    · exact .refl _
    · exact keeps_update ..

theorem keeps_clearAlerts (s : State) (w : Word) : Keeps s (s.clearAlerts w) := .foldl _ (fun _ _ => .ite (keeps_alertOff ..) (.refl _)) _ _

theorem keeps_writeHub (s : State) (o half v : Nat) : OptKeeps id s (s.writeHub o half v) := by
  unfold State.writeHub
  extract_lets
  refine .ite (.some (keeps_clearAlerts ..)) (.ite (.some (keeps_update ..)) (.ite ?_ ?_))
  · split
    rename_i s1 _ he
    have h1 := Keeps.fst he (keeps_commandWord ..)
    extract_lets
    split
    · exact .some h1
    · exact .ite (.some (h1.trans (keeps_update ..))) (.ite (.some (h1.trans (keeps_update ..))) (.some h1))
  · refine .ite (.some (keeps_update ..)) (.ite (.some (keeps_update ..))
      (.ite ?_ (.ite (.some (keeps_update ..)) (.ite (.some (keeps_update ..)) (.ite (.some (keeps_update ..)) .none)))))
    split
    rename_i s2 _ he
    have h2 := Keeps.fst he (keeps_commandWord ..)
    extract_lets
    split
    · exact .some h2
    · exact .ite (.some (h2.trans (keeps_update ..))) (.ite (.some (h2.trans (keeps_update ..))) (.some h2))

theorem keeps_writeQue (s : State) (o half v : Nat) : OptKeeps id s (s.writeQue o half v) := by
  unfold State.writeQue
  extract_lets
  refine .ite (.some (keeps_update ..)) (.ite (.some (keeps_update ..))
    (.ite (.some (keeps_update ..)) (.ite ?_ (.ite (.some (keeps_update ..)) .none))))
  split
  rename_i s1 _ he
  have h1 := Keeps.fst he (keeps_commandWord ..)
  extract_lets
  split
  · exact .some h1
  · exact .ite (.some (h1.trans (keeps_update ..))) (.ite (.some (h1.trans (keeps_update ..))) (.some h1))

theorem keeps_writeChan (s : State) (k o half v : Nat) (fw : Bool) : OptKeeps id s (s.writeChan k o half v fw) := by
  unfold State.writeChan
  extract_lets _ _ _ put
  have hput : ∀ y, OptKeeps id s (put y) := fun y => .some (keeps_update ..)
  exact .ite (.ite (hput _) (hput _)) (.ite (hput _) (.ite (.ite (.some (.refl s)) (.some (keeps_ringChannel ..))) .none))

theorem keeps_writeCrcValue (s : State) (n : Nat) (w : Word) : Keeps s (s.writeCrcValue n w) :=
  .ite (.refl _) (.ite (keeps_update ..) (keeps_update ..))

theorem keeps_writeCrc (s : State) (o half v : Nat) (fw : Bool) : OptKeeps id s (s.writeCrc o half v fw) := by
  unfold State.writeCrc
  extract_lets
  exact .ite .none (.ite (.some (keeps_update ..)) (.ite (.some (keeps_writeCrcValue ..)) .none))

theorem keeps_writeSec (s : State) (o half v : Nat) : OptKeeps id s (s.writeSec o half v) := by
  unfold State.writeSec
  extract_lets
  refine .ite ?_ (.ite (.some (keeps_update ..)) (.ite (.some (keeps_update ..)) .none))
  split
  rename_i s1 _ he
  have h1 := Keeps.fst he (keeps_commandWord ..)
  extract_lets
  split
  · exact .some h1
  · exact .ite (.some (h1.trans (keeps_update ..))) (.ite (.some (h1.trans (keeps_update ..))) (.some h1))

theorem keeps_writeLnk (s : State) (o half v : Nat) : OptKeeps id s (s.writeLnk o half v) := by
  unfold State.writeLnk
  extract_lets
  refine .ite (.some (keeps_update ..)) (.ite (.some (keeps_update ..)) (.ite ?_ .none))
  split
  rename_i s1 _ he
  have h1 := Keeps.fst he (keeps_commandWord ..)
  extract_lets
  split
  · exact .some h1
  · exact .ite (.some (h1.trans (keeps_update ..))) (.some h1)

theorem keeps_writeWinFw (s : State) (o half v : Nat) : OptKeeps id s (s.writeWinFw o half v) := by
  unfold State.writeWinFw
  extract_lets
  split
  · split
    · exact .none
    · extract_lets
      exact .ite (.ite (.some (keeps_setHal ..)) (.ite (.some (keeps_setHal ..))
        (.ite (.some (keeps_setHal ..)) (.ite (.some (keeps_setHal ..)) .none)))) (.ite (.some (keeps_setNbu ..)) .none)
  · exact .ite (.some (keeps_setCache ..)) .none

theorem keeps_writeReg (s : State) (off half v : Nat) (fw : Bool) : OptKeeps id s (s.writeReg off half v fw) := by
  unfold State.writeReg
  extract_lets
  refine .ite (keeps_writeHub ..) (.ite (keeps_writeQue ..) (.ite (keeps_writeChan ..)
    (.ite .none (.ite (keeps_writeCrc ..) (.ite (keeps_writeSec ..)
      (.ite (.some (keeps_update ..)) (.ite (keeps_writeLnk ..) (.ite ?_ .none))))))))
  exact .ite (keeps_writeChan ..) (.ite (keeps_writeWinFw ..) .none)

theorem keeps_guestForward (s : State) (off width : Nat) (data : Bytes) : Keeps s (s.guestForward off width data).1 := by
  unfold State.guestForward
  extract_lets s1
  have h1 : Keeps s s1 := keeps_send ..
  split
  rename_i _ s2 he
  have h2 := Keeps.snd he (h1.trans (keeps_free ..))
  extract_lets
  split
  · exact h2.trans (keeps_update ..)
  · exact h2.trans (keeps_free ..)

theorem keeps_loadReg (s : State) (off width : Nat) (fw : Bool) : Keeps s (s.loadReg off width fw).1 := by
  unfold State.loadReg
  extract_lets
  split
  · exact keeps_guestForward ..
  · exact keeps_noteUnbacked ..

theorem keeps_storeReg (s : State) (off width v : Nat) (fw : Bool) : Keeps s (s.storeReg off width v fw) := by
  unfold State.storeReg
  extract_lets
  refine .ite (keeps_guestForward ..) ?_
  split
  · refine .ite (keeps_accessFault ..) ?_
    split
    · rename_i he
      exact OptKeeps.of_eq he (keeps_writeReg ..)
    · exact keeps_accessFault ..
  · split
    · rename_i he
      exact OptKeeps.of_eq he (keeps_writeReg ..)
    · exact keeps_accessFault ..

theorem keeps_hostStore (s : State) (off : Nat) (a : HostAcc) (v : Nat) : Keeps s (s.hostStore off a v) :=
  .ite (keeps_send ..) (.ite ((keeps_accessFault ..).trans (keeps_send ..)) (.ite (.refl _) (keeps_storeReg ..)))

/-! Vector class (R130 to R137) -/

theorem keeps_execVint (c : Nat) (f : BitVec 56) (s : State) : AnswerKeeps s (execVint c f s) := by
  unfold execVint
  refine .core fun s x => ?_
  extract_lets
  split
  · exact Keeps.refl _
  · exact keeps_legal (keeps_doneV ..)

theorem keeps_execVfp (c : Nat) (f : BitVec 56) (s : State) : AnswerKeeps s (execVfp c f s) := .core fun _ _ => keeps_legal (keeps_doneV ..)

theorem keeps_execVfma (c : Nat) (f : BitVec 56) (s : State) : AnswerKeeps s (execVfma c f s) :=
  .core fun _ _ => keeps_legal (keeps_doneV ..)

theorem keeps_execVfn (c : Nat) (f : BitVec 56) (s : State) : AnswerKeeps s (execVfn c f s) := .core fun _ _ => keeps_legal (keeps_doneV ..)

theorem keeps_execVcmp (c : Nat) (f : BitVec 56) (s : State) : AnswerKeeps s (execVcmp c f s) := by
  unfold execVcmp
  refine .core fun s x => ?_
  extract_lets
  split
  · exact Keeps.refl _
  · exact keeps_legal (keeps_setCore ..)

theorem keeps_execVred (c : Nat) (f : BitVec 56) (s : State) : AnswerKeeps s (execVred c f s) := by
  unfold execVred
  refine .core fun s x => ?_
  extract_lets
  split
  · exact Keeps.refl _
  · exact keeps_legal (keeps_doneV ..)

theorem keeps_execVperm (c : Nat) (f : BitVec 56) (s : State) : AnswerKeeps s (execVperm c f s) := by
  unfold execVperm
  refine .core fun s x => ?_
  extract_lets
  split
  · exact Keeps.refl _
  · exact keeps_legal (keeps_doneV ..)

theorem keeps_execVbcast (c : Nat) (f : BitVec 56) (s : State) : AnswerKeeps s (execVbcast c f s) := by
  unfold execVbcast
  refine .core fun s x => ?_
  extract_lets
  split
  · exact Keeps.refl _
  · exact keeps_legal (keeps_doneV ..)

theorem keeps_execVmovs (c : Nat) (f : BitVec 56) (s : State) : AnswerKeeps s (execVmovs c f s) := by
  unfold execVmovs
  refine .core fun s x => ?_
  split
  · exact Keeps.refl _
  · exact keeps_legal (keeps_doneS ..)

theorem keeps_execVcvt (c : Nat) (f : BitVec 56) (s : State) : AnswerKeeps s (execVcvt c f s) := by
  unfold execVcvt
  refine .core fun s x => ?_
  extract_lets
  split
  · extract_lets
    split
    exact keeps_legal (keeps_setCore ..)
  · exact Keeps.refl _

theorem keeps_execVquant (c : Nat) (f : BitVec 56) (s : State) : AnswerKeeps s (execVquant c f s) := by
  unfold execVquant
  refine .core fun s x => ?_
  extract_lets
  split
  · exact Keeps.refl _
  · extract_lets
    split
    exact keeps_legal (keeps_setCore ..)

theorem keeps_planeBytes (s : State) (l : List Fv) (e : Option ℤ) : Keeps s (s.planeBytes l e).1 := by
  unfold State.planeBytes
  extract_lets
  split
  · exact .refl _
  · exact keeps_freeBytes ..

theorem keeps_execVplane (c : Nat) (f : BitVec 56) (s : State) : AnswerKeeps s (execVplane c f s) := by
  unfold execVplane
  refine .core fun s x => ?_
  split
  · exact Keeps.refl s
  · extract_lets fn va vb0 act emax grp
    split
    rename_i t' out he
    have h : Keeps s t' := by
      split at he
      · cases he
        exact .refl s
      · exact .fst he (keeps_planeBytes ..)
    split
    · exact keeps_legal (keeps_doneV ..)
    · exact keeps_legal (h.ir (keeps_doneV ..))

/-! DMA engines and the check-value unit (R306 to R311, R343 to R363) -/

theorem keeps_setChan (s : State) (k : Nat) (x : Chan) : Keeps s (s.setChan k x) := keeps_update ..

theorem keeps_setRun (s : State) (k : Nat) (r : Option DRun) : Keeps s (s.setRun k r) := keeps_setChan ..

theorem keeps_reportScratch (s : State) (c w : Nat) (b : By) : Keeps s (s.reportScratch c w b) :=
  (keeps_report ..).trans (.ite (keeps_report ..) (.refl _))

theorem keeps_ctlRead (s : State) (e : Nat × Nat) : Keeps s (s.ctlRead e).1 := by
  unfold State.ctlRead
  split
  · exact keeps_loadReg ..
  · exact keeps_accessFault ..

theorem keeps_ctlWrite (s : State) (off : Nat) (d : Bytes) : Keeps s (s.ctlWrite off d) := .ite (keeps_storeReg ..) (keeps_accessFault ..)

theorem keeps_dmaRead (s : State) (b : By) (da len : Nat) : Keeps s (s.dmaRead b da len).1 := by
  unfold State.dmaRead
  split
  · split
    · exact .refl s
    · split
      · rename_i he
        exact .fst he (keeps_readSlice ..)
      · rename_i he
        exact .fst he (keeps_readSlice ..)
  · split
    · exact (keeps_scratchFix ..).trans (keeps_reportScratch ..)
    · exact keeps_scratchFix ..
  · split
    rename_i he
    refine .fst he (Keeps.foldl_pair _ (fun _ _ => ?_) _ (s, []))
    exact keeps_ctlRead ..
  · exact .refl s

theorem keeps_scratchPart (s : State) (c off : Nat) (data : Bytes) (en : Nat → Bool) (w : Nat) :
    Keeps s (s.scratchPart c off data en w) := by
  unfold State.scratchPart
  extract_lets s1
  have h1 : Keeps s s1 := keeps_scratchWrite ..
  exact (h1.trans (keeps_free s1)).trans (keeps_scratchWrite ..)

theorem keeps_remoteRun (s : State) (k da : Nat) (data : Bytes) : Keeps s (s.remoteRun k da data) := by
  unfold State.remoteRun
  refine .foldl _ (fun s _ => ?_) _ _
  split
  rename_i s1 _ he
  have h1 := Keeps.fst he (keeps_remoteReq ..)
  split
  · exact h1.trans (keeps_setRun ..)
  · exact h1

theorem keeps_dmaWrite (s : State) (k : Nat) (b : By) (da : Nat) (data : Bytes) (en : Nat → Bool) :
    Keeps s (s.dmaWrite k b da data en).1 := by
  unfold State.dmaWrite
  split
  · exact .refl _
  · split
    · split
      · exact keeps_writeNow ..
      · exact .refl _
    · split
      · exact (keeps_scratchPart ..).trans (keeps_reportScratch ..)
      · exact keeps_scratchWrite ..
    · split
      · exact .foldl _ (fun _ _ => keeps_hostWrite ..) _ _
      · exact .refl _
    · split
      · exact .refl _
      · exact .foldl _ (fun _ _ => keeps_remoteRun ..) _ _
    · exact .foldl _ (fun _ _ => .ite (keeps_ctlWrite ..) (.refl _)) _ _
    · exact .refl _

theorem keeps_maybeWrites (s : State) (k : Nat) (b : By) (l : List (Nat × Bytes × Option Nat)) : Keeps s (s.maybeWrites k b l) :=
  .foldl _ (fun _ _ => (keeps_free ..).trans (keeps_dmaWrite ..)) _ _

theorem keeps_dmaWriteAll (k : Nat) (b : By) (l : List (Nat × Bytes × Option Nat)) : ∀ s : State, Keeps s (s.dmaWriteAll k b l).1 := by
  induction l with
  | nil => exact .refl
  | cons e l ih =>
    intro s
    unfold State.dmaWriteAll
    split
    · rename_i he
      exact (Keeps.fst he (keeps_dmaWrite ..)).trans (ih _)
    · rename_i he
      exact (Keeps.fst he (keeps_dmaWrite ..)).trans (keeps_maybeWrites ..)

theorem keeps_readBackLast (s : State) (k : Nat) (l : List DWrite) : Keeps s (s.readBackLast k l) := by
  unfold State.readBackLast
  split
  · exact .refl s
  · extract_lets a
    split
    · split
      · exact keeps_setRun ..
      · exact .refl s
    · split
      rename_i s1 he
      have h1 : Keeps s s1 := by
        split at he
        · exact .snd he (keeps_hostRead ..)
        · exact .snd he (keeps_remoteReq ..)
      split
      · exact h1.trans (keeps_setRun ..)
      · exact h1

theorem keeps_feedCrc (s : State) (d : Desc) (r : DRun) (n : Nat) : Keeps s (s.feedCrc d r n) := by
  unfold State.feedCrc
  extract_lets
  split
  · exact .refl _
  · exact .ite (.refl _) (keeps_update ..)

theorem keeps_settleKeys (s : State) (k ctx : Nat) (d : Desc) (r : DRun) (code : Nat) : Keeps s (s.settleKeys k ctx d r code).1 := by
  unfold State.settleKeys
  extract_lets _ _ s1
  have h1 : Keeps s s1 := keeps_setCtx ..
  split
  · split
    · exact .refl _
    · exact keeps_setCtx ..
  · split
    · exact keeps_setCtx ..
    · exact .refl _
  · split
    · exact .refl _
    · split
      · exact keeps_setCtx ..
      · exact keeps_setCtx ..
  · split
    · exact keeps_setCtx ..
    · exact .refl _
  · split
    · exact h1.trans (keeps_setJob ..)
    · exact .refl _
  · split
    · exact keeps_setJob ..
    · exact .refl _
  · exact .refl _

theorem keeps_endEarly (s : State) (k : Nat) (r : DRun) (code detail : Nat) : Keeps s (s.endEarly k r code detail) :=
  ((((keeps_freeBytes ..).trans (keeps_freeBytes ..)).trans (keeps_free ..)).trans (keeps_feedCrc ..)).trans
    ((keeps_maybeWrites ..).trans ((keeps_update ..).trans ((keeps_setRun ..).trans (keeps_readBackLast ..))))

theorem keeps_countRead (s : State) (k : Nat) (x : Chan) (n : Nat) : Keeps s (s.countRead k x n) := .ite (.refl _) (keeps_setCtx ..)

theorem keeps_gatherPiece (k : Nat) (b : By) (g : Gather) (r : Nat × Nat) : Keeps g.s (gatherPiece k b g r).s := by
  unfold gatherPiece
  split
  split
  · exact .refl _
  split
  · exact .refl _
  split
  · split
    · exact .refl _
    · extract_lets
      split
      · exact keeps_hostReads ..
      · exact keeps_hostReads ..
  split
  · exact .refl _
  split
  · exact Keeps.foldl_at Gather.s _ (fun _ _ => keeps_remoteReq ..) _ g
  split
  · exact .refl _
  · split
    · rename_i he
      exact .fst he (keeps_dmaRead ..)
    · rename_i he
      exact .fst he (keeps_dmaRead ..)

theorem keeps_gather (s : State) (k : Nat) (b : By) (d : HostReply) (l : List (Nat × Nat)) : Keeps s (s.gather k b d l).s := by
  exact Keeps.foldl_at Gather.s _ (fun g r => keeps_gatherPiece k b g r) _ ⟨s, [], d, 0, none⟩

theorem keeps_startReads (s : State) (k : Nat) (r : DRun) (l : List (Nat × Nat)) (d : HostReply) : Keeps s (s.startReads k r l d) := by
  unfold State.startReads
  extract_lets x g r' s1 s2
  have h2 : Keeps s s2 := ((keeps_gather ..).trans (keeps_countRead ..)).trans (keeps_setRun ..)
  split
  · exact h2.trans (keeps_endEarly ..)
  · exact h2

theorem keeps_startPennant (s : State) (k : Nat) (x : Chan) (r : DRun) (d : Desc) (h : HostReply) : Keeps s (s.startPennant k x r d h) := by
  unfold State.startPennant
  extract_lets
  split
  · exact keeps_setRun ..
  · refine .ite (keeps_setRun ..) (.ite (keeps_setRun ..) ?_)
    split
    · rename_i s1 _ he
      have h1 := Keeps.fst he (keeps_dmaRead ..)
      exact h1.trans (keeps_setRun ..)
    · rename_i s2 _ he
      have h2 := Keeps.fst he (keeps_dmaRead ..)
      extract_lets s3 _ _ _ _ s4
      have h3 : Keeps s s3 := h2.trans (keeps_countRead ..)
      have h4 : Keeps s s4 := .ite (h3.trans (keeps_setCtx ..)) h3
      split
      · exact h3.trans (keeps_setRun ..)
      · exact .ite (h3.trans (keeps_setRun ..)) (.ite (h3.trans (keeps_setRun ..)) (h4.trans (keeps_startReads ..)))

theorem keeps_countStart (s : State) (k : Nat) : Keeps s (s.countStart k) := keeps_update ..

theorem keeps_slotTaken (s : State) (k : Nat) (r : DRun) : Keeps s (s.slotTaken k r) := (keeps_setRun ..).trans (keeps_countStart ..)

theorem keeps_startDesc (s : State) (k : Nat) (h : HostReply) : Keeps s (s.startDesc k h) := by
  unfold State.startDesc
  extract_lets _ _ _ fails _ g s1 _ _ _ s2 s3
  have hfails : ∀ u, Keeps u (fails u) := fun u => keeps_setChan ..
  have hg : Keeps s g.s := keeps_gather ..
  have h3 : Keeps s s3 := (hg.trans (keeps_setChan ..)).trans (keeps_countStart ..)
  refine .ite (hfails s) (.ite (keeps_slotTaken ..) ?_)
  split
  · exact hg.trans (hfails _)
  refine .ite (.ite (h3.trans (keeps_startPennant ..)) (h3.trans (keeps_setRun ..))) ?_
  split
  · exact h3.trans (keeps_setRun ..)
  · exact .ite (h3.trans (keeps_setRun ..)) (h3.trans (keeps_startReads ..))

theorem keeps_takeSlot (s : State) (k : Nat) : OptKeeps id s (s.takeSlot k) := by
  unfold State.takeSlot
  extract_lets
  refine .ite ?_ (.ite (.some (.refl _)) .none)
  refine .ite (.some (.refl _)) ?_
  split
  · split
    · exact .some (keeps_setRun ..)
    · exact .none
  · exact .none

theorem keeps_runOp (op k : Nat) (h : HostReply) (s : State) : AnswerKeeps s (runOp op k h s) := by
  unfold runOp
  extract_lets
  refine .unit (.ite (.refl _) ?_)
  split
  · exact .ite (.ite (keeps_startPennant ..) (keeps_startReads ..)) (.refl _)
  · refine .ite (.refl _) ?_
    split
    · exact .refl _
    · rename_i s1 he
      have h1 : Keeps s s1 := OptKeeps.of_eq he (keeps_takeSlot ..)
      exact h1.trans (keeps_startDesc ..)

theorem keeps_dmaMove (s : State) (k : Nat) (x : Chan) (r : DRun) : Keeps s (s.dmaMove k x r) := by
  unfold State.dmaMove
  extract_lets d b s1
  have h1 : Keeps s s1 := keeps_feedCrc ..
  split
  split
  rename_i ws s2 he
  have h2 : Keeps s s2 := by
    split at he
    · cases he
      exact h1.trans (keeps_freeBytes ..)
    split at he
    · cases he
      exact h1.trans (keeps_freeBytes ..)
    · cases he
      exact h1
  extract_lets ws1 ws2
  split
  rename_i s3 _ he3
  have h3 : Keeps s s3 := h2.trans (.fst he3 (keeps_dmaWriteAll ..))
  split
  exact h3.trans ((keeps_setRun ..).trans (keeps_readBackLast ..))

theorem keeps_writeStatus (s : State) (k : Nat) (x : Chan) (r : DRun) : Keeps s (s.writeStatus k x r) :=
  .ite (((keeps_dmaWrite ..).trans (keeps_hostRead ..)).trans (keeps_setRun ..)) ((keeps_dmaWrite ..).trans (keeps_setRun ..))

theorem keeps_endDesc (s : State) (k : Nat) (x : Chan) (r : DRun) : Keeps s (s.endDesc k x r) := by
  unfold State.endDesc
  extract_lets d s1
  have h1 : Keeps s s1 := .ite (keeps_dmaWriteAll ..) (.refl s)
  split
  · split
    rename_i he
    exact (h1.trans (.fst he (keeps_settleKeys ..))).trans (keeps_writeStatus ..)
  · exact keeps_writeStatus ..

theorem keeps_abortRun (s : State) (k code : Nat) : Keeps s (s.abortRun k code) := by
  unfold State.abortRun
  split
  · exact .refl _
  · exact .ite (keeps_setRun ..) (.ite (.refl _) (.ite (keeps_setRun ..) (keeps_endEarly ..)))

theorem keeps_abortEnd (s : State) (k : Nat) (x : Chan) : Keeps s (s.abortEnd k x) := by
  unfold State.abortEnd
  split
  · exact .ite (keeps_endDesc ..) (.refl _)
  · exact .refl _

theorem keeps_execDescriptorComplete (k : Nat) (s : State) : AnswerKeeps s (execDescriptorComplete k s) := by
  unfold execDescriptorComplete
  refine .unit ?_
  extract_lets
  split
  · exact .refl _
  · extract_lets s1
    have h1 : Keeps s s1 := keeps_dmaMove ..
    refine .ite (.refl _) (.ite ((keeps_abortRun ..).trans (keeps_abortEnd ..))
      (.ite (.refl _) (.ite ?_ (.ite (keeps_endDesc ..) (keeps_setRun ..)))))
    split
    · exact .ite (h1.trans (keeps_endDesc ..)) h1
    · exact h1

theorem keeps_execDescriptorResume (s : State) : AnswerKeeps s (execDescriptorResume s) := by
  unfold execDescriptorResume
  refine .next ?_
  extract_lets
  split
  · exact .refl _
  · split
    · exact .ite ((keeps_update ..).trans (keeps_setRun ..)) (.refl _)
    · exact .refl _

theorem keeps_execDmaProdWrite (ch : Nat) (a : HostAcc) (v : Nat) (s : State) : AnswerKeeps s (execDmaProdWrite ch a v s) :=
  .unit (.ite (keeps_hostStore ..) (.refl _))

theorem keeps_disableChannel (s : State) (k : Nat) : Keeps s (s.disableChannel k) := by
  unfold State.disableChannel
  extract_lets _ s1
  have h1 : Keeps s s1 := keeps_setChan ..
  split
  · exact .ite (h1.trans (keeps_abortRun ..)) h1
  · exact h1

theorem keeps_execChannelDisable (k : Nat) (s : State) : AnswerKeeps s (execChannelDisable k s) :=
  .unit (.ite (keeps_disableChannel ..) (.refl _))

theorem keeps_enableChannel (s : State) (k : Nat) : Keeps s (s.enableChannel k) := keeps_setChan ..

theorem keeps_execChannelEnable (k : Nat) (ctl ring : Word) (s : State) : AnswerKeeps s (execChannelEnable k ctl ring s) :=
  .unit (.ite (.refl _) ((keeps_setChan ..).trans (keeps_enableChannel ..)))

theorem keeps_execCrcModeSet (s : State) : AnswerKeeps s (execCrcModeSet s) :=
  .next (.ite (.refl _) ((Keeps.foldl _ (fun _ _ => keeps_abortRun ..) _ _).trans (keeps_update ..)))

theorem keeps_crcMode0 (s : State) : Keeps s s.crcMode0 := keeps_update ..

theorem keeps_execCrcModeClear (s : State) : AnswerKeeps s (execCrcModeClear s) := .next (.ite (keeps_crcMode0 ..) (.refl _))

theorem keeps_execCrcValueWrite (n : Nat) (v : Word) (s : State) : AnswerKeeps s (execCrcValueWrite n v s) :=
  .unit (.ite (keeps_hostStore ..) (.refl _))

/-! Loads, stores and atomics of a core (R121 to R128) -/

theorem keeps_loadDone (s : State) (c : Nat) (w : LdWait) : (loadDone s c w).Keeps s := .ite (keeps_setCore ..) (keeps_setCore ..)

theorem keeps_loadWait (s : State) (c : Nat) (w : LdWait) : (loadWait s c w).Keeps s := keeps_setCore ..

theorem keeps_queueCached (s : State) (c : Nat) (r : CReq) : Keeps s (s.queueCached c r) := keeps_setCache ..

theorem keeps_readScratch (s : State) (k off : Nat) (a : MemAcc) (p : Nat × Nat) : Keeps s (s.readScratch k off a p).1 :=
  .foldl _ (fun _ _ => keeps_scratchFix ..) _ _

theorem keeps_hostPart (a : MemAcc) (st : State × LdWait) (r : Nat × Nat) : Keeps st.1 (State.hostPart a st r).1 := keeps_hostRead ..

theorem keeps_loadPart (c : Nat) (x : Core) (a : MemAcc) (st : State × LdWait × Option Nat) (p : Nat × Nat) :
    Keeps st.1 (State.loadPart c x a st p).1 := by
  obtain ⟨s, w, e⟩ := st
  unfold State.loadPart
  dsimp only
  split
  · exact .refl s
  split
  · split
    · rename_i he
      exact .fst he (keeps_readScratch ..)
    · rename_i he
      exact .fst he (keeps_readScratch ..)
  · split
    · exact keeps_queueCached ..
    split
    · exact .refl s
    split
    · split
      · rename_i he
        exact (keeps_turn ..).trans (.fst he (keeps_readLine ..))
      · rename_i he
        exact (keeps_turn ..).trans (.fst he (keeps_readLine ..))
    · exact (keeps_setHal ..).trans (keeps_countHeld ..)
  · exact Keeps.foldl_pair _ (fun _ _ => keeps_hostPart ..) _ (s, w)
  · exact .foldl _ (fun _ _ => keeps_remoteReq ..) _ s
  · exact .refl s

theorem keeps_load (s : State) (c : Nat) (x : Core) (a : MemAcc) (w : LdWait) : (s.load c x a w).Keeps s := by
  unfold State.load
  split
  · split
    · split
      rename_i he
      exact (Keeps.fst he (keeps_loadReg ..)).ir (keeps_loadDone ..)
    · split
      rename_i he
      exact ((keeps_accessFault ..).trans (.snd he (keeps_freeBytes ..))).ir (keeps_loadDone ..)
  · split
    · exact Keeps.refl s
    · have h := Keeps.foldl_at Prod.fst (State.loadPart c x a) (keeps_loadPart c x a) a.lines (s, w, none)
      split <;> rename_i he <;> rw [he] at h
      · exact h.trans (keeps_dropReads ..)
      · split
        · exact h.ir (keeps_loadDone ..)
        · exact h.ir (keeps_loadWait ..)

theorem keeps_execLoad (c : Nat) (ok : Bool) (a : Core → MemAcc) (w : Core → LdWait) (s : State) : AnswerKeeps s (execLoad c ok a w s) := by
  unfold execLoad
  refine .core fun s x => ?_
  extract_lets
  refine keeps_legal ?_
  split
  · exact Keeps.refl _
  · refine .ite (Keeps.refl _) ?_
    split
    · exact trivial
    · exact .ite trivial (keeps_load ..)

theorem keeps_execLd (c : Nat) (f : BitVec 56) (s : State) : AnswerKeeps s (execLd c f s) := keeps_execLoad ..

theorem keeps_execVld (c : Nat) (f : BitVec 56) (s : State) : AnswerKeeps s (execVld c f s) := keeps_execLoad ..

theorem keeps_refuseStore (s : State) (c cause ea : Nat) : Keeps s (s.refuseStore c cause ea) := keeps_imprecise ..

theorem keeps_addOutst (s : State) (c n : Nat) : Keeps s (s.addOutst c n) := keeps_setCore ..

theorem keeps_storePart (c : Nat) (x : Core) (a : MemAcc) (data : Bytes) (s : State) (p : Nat × Nat) :
    Keeps s (State.storePart c x a data s p) := by
  unfold State.storePart
  extract_lets s1
  have h1 : Keeps s s1 := .foldl _ (fun _ _ => keeps_hostWrite ..) _ _
  split
  · exact keeps_scratchWrite ..
  · refine .ite ((keeps_queueCached ..).trans (keeps_addOutst ..)) ?_
    split
    · exact .refl _
    · exact .ite ((keeps_writeStore ..).trans (keeps_addOutst ..)) (keeps_writeStore ..)
  · exact h1.trans (keeps_setCore ..)
  · exact (Keeps.foldl _ (fun _ _ => keeps_remoteReq ..) _ _).trans (keeps_addOutst ..)
  · exact .refl _

theorem keeps_store (s : State) (c : Nat) (x : Core) (a : MemAcc) (data : Bytes) : (s.store c x a data).Keeps s := by
  unfold State.store
  split
  · exact Keeps.ite (keeps_storeReg ..) (keeps_accessFault ..)
  · split
    · exact Keeps.refl _
    · exact keeps_refuseStore ..
    · exact Keeps.foldl _ (fun _ _ => keeps_storePart ..) _ _

theorem keeps_execStore (c : Nat) (ok : Bool) (a : Core → MemAcc) (data : Core → Bytes) (s : State) :
    AnswerKeeps s (execStore c ok a data s) := by
  unfold execStore
  refine .core fun s x => ?_
  extract_lets
  refine keeps_legal ?_
  split
  · exact Keeps.refl _
  · refine .ite (Keeps.refl _) ?_
    split
    · exact trivial
    · exact keeps_store ..

theorem keeps_execSt (c : Nat) (f : BitVec 56) (s : State) : AnswerKeeps s (execSt c f s) := keeps_execStore ..

theorem keeps_execVst (c : Nat) (f : BitVec 56) (s : State) : AnswerKeeps s (execVst c f s) := keeps_execStore ..

theorem keeps_execAmo (c : Nat) (f : BitVec 56) (s : State) : AnswerKeeps s (execAmo c f s) := by
  unfold execAmo
  refine .core fun s x => ?_
  extract_lets
  refine keeps_legal ?_
  split
  · exact Keeps.refl _
  · refine .ite (Keeps.refl _) ?_
    split
    · exact trivial
    · refine .ite ((keeps_queueCached ..).ir (keeps_loadWait ..)) ?_
      split
      · exact Keeps.refl _
      · exact (keeps_queueCached ..).trans (keeps_addOutst ..)

/-! Near-bank units (R166 to R169, R221 to R247) -/

theorem keeps_nbStep (c b op : Nat) (s : State) : AnswerKeeps s (nbStep c b op s) := by
  unfold nbStep
  refine .unit ?_
  split
  · exact .refl _
  · exact .ite (.refl _) ((keeps_serveBoundary ..).trans (keeps_nbAdvance ..))

theorem keeps_flushBank (s : State) (p b : Nat) : Keeps s (s.flushBank p b) := keeps_flushNow ..

theorem keeps_admitNext (s : State) (p : Nat) : Keeps s (s.admitNext p) := by
  unfold State.admitNext
  extract_lets
  refine .ite (.refl _) ?_
  split
  · exact .refl _
  · exact (keeps_flushBank ..).trans ((keeps_setNbu ..).trans (.ite (.refl _) (keeps_endProgram ..)))

theorem keeps_execBankProgramAdmit (c : Nat) (s : State) : AnswerKeeps s (execBankProgramAdmit c s) := by
  unfold execBankProgramAdmit
  refine .unit ?_
  split
  · exact .refl _
  · exact .ite (keeps_admitNext ..) (.refl _)

theorem keeps_issueProgram (s : State) (c p t : Nat) (img : List Word) (p1 p2 : Word) (banks : List Nat) :
    Keeps s (s.issueProgram c p t img p1 p2 banks) :=
  (keeps_flushWhere ..).trans ((keeps_dropLines ..).trans ((keeps_setNbu ..).trans (keeps_setCore ..)))

theorem keeps_execNissue (c : Nat) (f : BitVec 56) (s : State) : AnswerKeeps s (execNissue c f s) := by
  unfold execNissue
  refine .core fun s x => ?_
  extract_lets
  refine keeps_legal (.ite (Keeps.refl _) (.ite (Keeps.refl _) (.ite (Keeps.refl _) ?_)))
  split
  · exact trivial
  · refine .ite (Keeps.refl _) (.ite (Keeps.refl _) ?_)
    split
    · exact trivial
    · exact ((keeps_scratchFix ..).trans (keeps_issueProgram ..)).ir (keeps_doneS ..)

theorem keeps_execNwait (c : Nat) (f : BitVec 56) (s : State) : AnswerKeeps s (execNwait c f s) :=
  .core fun _ _ => keeps_legal (.ite trivial (Keeps.refl _))

theorem keeps_execNstat (c : Nat) (f : BitVec 56) (s : State) : AnswerKeeps s (execNstat c f s) :=
  .core fun _ _ => keeps_legal (keeps_doneS ..)

theorem keeps_abortTickets (s : State) (c : Nat) : Keeps s (s.abortTickets c) := by
  unfold State.abortTickets
  split
  · exact .refl _
  · exact (keeps_setNbu ..).trans (keeps_setCore ..)

/-! Cores, grants, clusters and the life of a job (R275 to R280, R413, R414) -/

theorem keeps_advanceEpoch (s : State) (c : Nat) : Keeps s (s.advanceEpoch c) := keeps_setCore ..

theorem keeps_drainFault (s : State) (c : Nat) (f : Impr) : Keeps s (s.drainFault c f) := (keeps_setCore ..).trans (keeps_reportExc ..)

theorem keeps_drainFaults (s : State) (c : Nat) : Keeps s (s.drainFaults c) :=
  (keeps_setCore ..).trans (.foldl _ (fun _ _ => keeps_drainFault ..) _ _)

theorem keeps_lateStore (s : State) (c job stage cause addr : Nat) : Keeps s (s.lateStore c job stage cause addr) :=
  (Keeps.ite (keeps_setCore ..) (.refl _)).trans (keeps_reportExcOf ..)

theorem keeps_drainStore (st : State × List Nat) (r : CReq) : Keeps st.1 (State.drainStore st r).1 := by
  obtain ⟨s, seen⟩ := st
  unfold State.drainStore
  dsimp only
  split
  · exact .refl s
  have h := keeps_settleLine s (r.da / 128)
  split
  · split
    · exact h.trans ((keeps_dropSharers ..).trans (keeps_writeThrough ..))
    · split
      · rename_i he
        exact (h.trans (.fst he (keeps_readSlice ..))).trans (keeps_performAmo ..)
      · rename_i he
        exact (h.trans (.fst he (keeps_readSlice ..))).trans (keeps_drainFault ..)
  · exact h.trans (keeps_drainFault ..)

theorem keeps_purgeCaches (s : State) (c : Nat) : Keeps s (s.purgeCaches c) :=
  (keeps_update ..).trans (Keeps.foldl_at Prod.fst State.drainStore keeps_drainStore _ (_, []))

theorem keeps_purgeHals (s : State) (c : Nat) : Keeps s (s.purgeHals c) := by
  unfold State.purgeHals
  extract_lets
  refine .foldl _ (fun s _ => ?_) _ _
  extract_lets _ _ s1
  have h1 : Keeps s s1 := keeps_setHal ..
  refine .trans h1 (.foldl _ (fun s _ => ?_) _ _)
  extract_lets s2
  have h2 : Keeps s s2 := by
    unfold s2
    split
    · exact .ite (keeps_dropHome ..) (.refl _)
    · exact .refl _
  exact .ite (.refl _) (h2.trans (keeps_perform ..))

theorem keeps_clearCore (s : State) (c : Nat) : Keeps s (s.clearCore c) := by
  unfold State.clearCore
  extract_lets s1 s2 s3 _ _ _ s4 s5
  have h1 : Keeps s s1 := ((keeps_abortTickets ..).trans (keeps_purgeHals ..)).trans (keeps_purgeCaches ..)
  have h2 : Keeps s s2 := by
    unfold s2
    split
    · exact h1.trans (keeps_flushNow ..)
    · exact h1
  have h3 : Keeps s s3 := h2.trans (keeps_drainFaults ..)
  have h4 : Keeps s s4 := h3.trans (keeps_update ..)
  have h5 : Keeps s s5 := h4.trans (.foldl _ (fun _ _ => keeps_unbindPort ..) _ _)
  exact (h5.trans (keeps_setCore ..)).trans (keeps_scratchClear ..)

theorem keeps_startCore (s : State) (j ctx : Nat) (e : CoreEntry) : Keeps s (s.startCore j ctx e) :=
  (keeps_scratchClear ..).trans (keeps_setCore ..)

theorem keeps_dropSliceLines (s : State) (c : Nat) : Keeps s (s.dropSliceLines c) := keeps_update ..

theorem keeps_degradedInService (s : State) : Keeps s s.degradedInService := .ite (keeps_update ..) (.refl _)

theorem keeps_switchBank (s : State) (p b : Nat) : Keeps s (s.switchBank p b) := (keeps_zeroBank ..).trans (keeps_setHal ..)

theorem keeps_setRegions (s : State) (p : Nat) (new : BitVec 128) : Keeps s (s.setRegions p new) :=
  .ite (.refl _) (.foldl _ (fun _ _ => keeps_switchBank ..) _ _)

theorem keeps_advanceWindows (s : State) (j : Nat) : Keeps s (s.advanceWindows j) :=
  (keeps_update ..).trans (.foldl _ (fun _ _ => keeps_noticeEpoch ..) _ _)

theorem keeps_dropGrants (s : State) (cs : List Nat) : Keeps s (s.dropGrants cs) := keeps_update ..

theorem keeps_installGrants (s : State) (j : Nat) : Keeps s (s.installGrants j) := (keeps_update ..).trans (keeps_setJob ..)

theorem keeps_keepLinks (s : State) (j : Nat) : Keeps s (s.keepLinks j) := keeps_setJob ..

theorem keeps_switchCluster (s : State) (ctx h : Nat) : Keeps s (s.switchCluster ctx h) :=
  .ite (keeps_setClu ..) (.ite (.refl _) ((keeps_dropContext ..).trans
    ((Keeps.foldl _ (fun _ _ => keeps_clearCore ..) _ _).trans (keeps_setClu ..))))

theorem keeps_stopCores (s : State) (j : Nat) : Keeps s (s.stopCores j) :=
  (Keeps.foldl _ (fun _ _ => keeps_clearCore ..) _ _).trans ((Keeps.foldl _ (fun _ _ => keeps_advanceEpoch ..) _ _).trans
    (keeps_dropGrants ..))

theorem keeps_startCores (s : State) (j : Nat) : Keeps s (s.startCores j) :=
  (Keeps.foldl _ (fun _ _ => keeps_switchCluster ..) _ _).trans ((Keeps.foldl _ (fun _ _ => keeps_startCore ..) _ _).trans
    ((keeps_setJob ..).trans (keeps_installGrants ..)))

theorem keeps_nameQueues (s : State) (first count j : Nat) : Keeps s (s.nameQueues first count j) :=
  .foldl _ (fun _ _ => keeps_setQe ..) _ _

theorem keeps_endJob (s : State) (j : Nat) : Keeps s (s.endJob j) :=
  ((keeps_stopCores ..).trans (keeps_advanceWindows ..)).trans ((Keeps.ite (.refl _) (keeps_disableChannel ..)).trans
    ((keeps_nameQueues ..).trans (keeps_update ..)))

theorem keeps_dropLate (s : State) (j : Nat) : Keeps s (s.dropLate j) := keeps_update ..

theorem keeps_retireJob (s : State) (j : Nat) : Keeps s (s.retireJob j) :=
  ((keeps_dropLate ..).trans (keeps_postToRange ..)).trans (keeps_endJob ..)

theorem keeps_inputLost (s : State) (j : Nat) : Keeps s (s.inputLost j) :=
  (keeps_postToRange ..).trans ((keeps_update ..).trans (keeps_setJob ..))

theorem keeps_copiesLost (s : State) (c : Nat) : Keeps s (s.copiesLost c) :=
  .foldl _ (fun _ _ => (keeps_update ..).trans (.ite (keeps_inputLost ..) (.refl _))) _ _

theorem keeps_setJobEpochs (s : State) (j : Nat) (f : Nat → Nat) : Keeps s (s.setJobEpochs j f) := keeps_update ..

theorem keeps_holdJob (s : State) (j : Nat) : Keeps s (s.holdJob j) :=
  ((keeps_keepLinks ..).trans (keeps_stopCores ..)).trans (keeps_setJob ..)

theorem keeps_advanceRestart (s : State) (j : Nat) : Keeps s (s.advanceRestart j) :=
  (keeps_setJobEpochs ..).trans ((((keeps_keepLinks ..).trans (keeps_stopCores ..)).trans (keeps_advanceWindows ..)).trans
    (keeps_setJob ..))

theorem keeps_resumeRestart (s : State) (j : Nat) : Keeps s (s.resumeRestart j) :=
  (Keeps.foldl _ (fun _ _ => keeps_enableChannel ..) _ _).trans ((keeps_update ..).trans ((keeps_setJob ..).trans (keeps_startCores ..)))

theorem keeps_finishRestart (s : State) (j : Nat) : Keeps s (s.finishRestart j) := by
  unfold State.finishRestart
  extract_lets _ s1
  have h1 : Keeps s s1 := .ite (.refl _) (keeps_advanceRestart ..)
  split
  · exact (keeps_report ..).trans (keeps_endJob ..)
  · exact .ite (keeps_holdJob ..) (.ite (h1.trans (keeps_resumeRestart ..)) h1)

theorem keeps_beginRestart (s : State) (j : Nat) : Keeps s (s.beginRestart j) :=
  (keeps_setJob ..).trans ((Keeps.ite (.foldl _ (fun _ _ => keeps_noticeSegment ..) _ _) (.refl _)).trans
    ((Keeps.foldl _ (fun _ _ => keeps_disableChannel ..) _ _).trans (.foldl _ (fun _ _ => keeps_clearCore ..) _ _)))

theorem keeps_queueLost (s : State) : Keeps s s.queueLost :=
  (keeps_raiseAlert ..).trans ((Keeps.foldl _ (fun _ _ => keeps_endJob ..) _ _).trans ((keeps_report ..).trans (keeps_update ..)))

/-! Halyard controllers (R189 to R200, R215 to R218) -/

theorem keeps_drainSlice (s : State) (c p : Nat) : Keeps s (s.drainSlice c p) :=
  (keeps_settle ..).trans ((keeps_update ..).trans (.foldl _ (fun _ _ => keeps_fillFor ..) _ _))

theorem keeps_mapOut (s : State) (c p : Nat) : Keeps s (s.mapOut c p) := by
  unfold State.mapOut
  extract_lets _ _ s1 s2 _ _ s3 s4 s5
  have h1 : Keeps s s1 := keeps_report ..
  have h2 : Keeps s s2 := (((h1.trans (keeps_clearCore ..)).trans (keeps_drainSlice ..)).trans (keeps_dropSliceLines ..)).trans
    (keeps_degradedInService ..)
  have h3 : Keeps s s3 := h2.trans (keeps_update ..)
  have h4 : Keeps s s4 := ((h3.trans (keeps_advanceEpoch ..)).trans (keeps_keepLinks ..)).trans (keeps_dropGrants ..)
  have h5 : Keeps s s5 := by
    unfold s5
    split
    · exact (h4.trans (keeps_update ..)).trans (keeps_setClu ..)
    · extract_lets _ s6 s7 _ s8
      have h6 : Keeps s s6 := (h4.trans (keeps_update ..)).trans (keeps_setClu ..)
      have h7 : Keeps s s7 := h6.trans (.foldl _ (fun _ _ => keeps_zeroBank ..) _ _)
      have h8 : Keeps s s8 := by
        unfold s8
        split
        · exact (h7.trans (keeps_setRegions ..)).trans (keeps_setJob ..)
        · exact h7
      exact h8.trans (keeps_raiseAlert ..)
  split
  · rename_i s9 he
    have h9 := Keeps.fst he ((h5.trans (keeps_copiesLost ..)).trans (keeps_queCopyLost ..))
    exact h9.trans (keeps_queueLost ..)
  · rename_i he
    exact Keeps.fst he ((h5.trans (keeps_copiesLost ..)).trans (keeps_queCopyLost ..))

theorem keeps_execHalyardGrant (c : Nat) (u : List Upset) (mismatches : Nat) (s : State) :
    AnswerKeeps s (execHalyardGrant c u mismatches s) := by
  unfold execHalyardGrant
  refine .unit ?_
  split
  · exact .refl _
  · extract_lets _ _ s1
    have h1 : Keeps s s1 := keeps_setHal ..
    refine .ite (.refl _) (.ite ((h1.trans (keeps_free ..)).trans (keeps_setHal ..)) ?_)
    split
    · exact (h1.trans (keeps_upsets ..)).trans (keeps_grantReq ..)
    · exact h1

theorem keeps_execNbBoundaryService (c b : Nat) (s : State) : AnswerKeeps s (execNbBoundaryService c b s) := by
  unfold execNbBoundaryService
  refine .unit ?_
  split
  · exact .refl _
  · exact .ite (keeps_serveBoundary ..) (.refl _)

theorem keeps_execNbPause (c b : Nat) (s : State) : AnswerKeeps s (execNbPause c b s) := by
  unfold execNbPause
  refine .unit ?_
  split
  · exact .refl _
  · exact .ite ((keeps_setNbu ..).trans (keeps_setHal ..)) (.refl _)

theorem keeps_execNbResume (c b : Nat) (s : State) : AnswerKeeps s (execNbResume c b s) := by
  unfold execNbResume
  refine .unit ?_
  split
  · exact .refl _
  · exact .ite ((keeps_serveBoundary ..).trans (keeps_setNbu ..)) (.refl _)

theorem keeps_writeBack (s : State) (p w cls : Nat) : Keeps s (s.writeBack p w cls) := by
  unfold State.writeBack
  extract_lets _ s1
  have h1 : Keeps s s1 := keeps_turn ..
  refine .ite (.refl _) ?_
  split
  · exact (h1.trans (keeps_grant ..)).trans (keeps_putWord ..)
  · exact h1

theorem keeps_execCorrectedWriteback (c : Nat) (s : State) : AnswerKeeps s (execCorrectedWriteback c s) := by
  unfold execCorrectedWriteback
  refine .unit ?_
  split
  · exact .refl _
  · extract_lets
    split
    · exact .refl _
    · exact .ite (.refl _) ((keeps_setHal ..).trans (keeps_writeBack ..))

theorem keeps_execScrubWriteback (c : Nat) (s : State) : AnswerKeeps s (execScrubWriteback c s) := by
  unfold execScrubWriteback
  refine .unit ?_
  split
  · exact .refl _
  · extract_lets
    split
    · exact .refl _
    · exact .ite (.refl _) ((keeps_setHal ..).trans (keeps_writeBack ..))

theorem keeps_execMergeAgeFlush (c : Nat) (s : State) : AnswerKeeps s (execMergeAgeFlush c s) := by
  unfold execMergeAgeFlush
  refine .unit ?_
  split
  · exact .refl _
  · split
    · exact .refl _
    · exact .ite (keeps_flushWhere ..) (.refl _)

theorem keeps_execSealedWriteConfirm (c : Nat) (s : State) : AnswerKeeps s (execSealedWriteConfirm c s) := by
  unfold execSealedWriteConfirm
  refine .unit ?_
  split
  · exact .refl _
  · refine .ite (.refl _) ?_
    split
    · exact .refl _
    · exact (keeps_dropHome ..).trans ((keeps_setHal ..).trans (keeps_serveWhile ..))

theorem keeps_execRefreshDue (c b : Nat) (s : State) : AnswerKeeps s (execRefreshDue c b s) := by
  unfold execRefreshDue
  refine .unit ?_
  split
  · exact .refl _
  · exact .ite (.refl _) (.ite (keeps_setHal ..) (.ite (keeps_setHal ..) ((keeps_setNbu ..).trans (keeps_setHal ..))))

theorem keeps_execRefreshOwedIssue (c b : Nat) (s : State) : AnswerKeeps s (execRefreshOwedIssue c b s) := by
  unfold execRefreshOwedIssue
  refine .unit ?_
  split
  · exact .refl _
  · exact .ite (keeps_setHal ..) (.refl _)

theorem keeps_retireVias (p : Nat) (l : List Nat) : ∀ s : State, Keeps s (s.retireVias p l) := by
  induction l with
  | nil => exact .refl
  | cons v l ih =>
    intro s
    unfold State.retireVias
    split
    rename_i x half lost _
    extract_lets s1
    have h1 : Keeps s s1 := keeps_setHal ..
    split
    · extract_lets s2
      have h2 : Keeps s s2 := h1.trans (.ite ((keeps_report ..).trans (keeps_degradedInService ..)) (.refl s1))
      exact .ite (h2.trans (keeps_mapOut ..)) (h2.trans (ih _))
    · exact .ite (h1.trans (keeps_setClu ..)) (h1.trans (ih _))

theorem keeps_pauseFor (s : State) (p b : Nat) : Keeps s (s.pauseFor p b) := (keeps_setHal ..).trans (keeps_serveBoundary ..)

theorem keeps_recal (s : State) (p : Nat) : Keeps s (s.recal p) :=
  (Keeps.foldl _ (fun _ _ => keeps_pauseFor ..) _ _).trans ((keeps_setHal ..).trans (keeps_retireVias ..))

theorem keeps_execRecalWindow (p : Nat) (s : State) : AnswerKeeps s (execRecalWindow p s) := .unit (.ite (keeps_recal ..) (.refl _))

theorem keeps_scrubWord (s : State) (c p w : Nat) : Keeps s (s.scrubWord c p w) := by
  unfold State.scrubWord
  extract_lets s1
  have h1 : Keeps s s1 := keeps_flushWord ..
  split
  · exact h1
  · exact h1.trans (keeps_setHal ..)
  · exact (h1.trans (keeps_setHal ..)).trans (keeps_reportBad ..)

theorem keeps_execScrubLine (c : Nat) (u : List Upset) (s : State) : AnswerKeeps s (execScrubLine c u s) := by
  unfold execScrubLine
  refine .unit ?_
  split
  · exact .refl _
  · exact .ite (.refl _) ((keeps_upsets ..).trans ((Keeps.foldl _ (fun _ _ => keeps_scrubWord ..) _ _).trans (keeps_setHal ..)))

theorem keeps_execScrubLapLate (c : Nat) (s : State) : AnswerKeeps s (execScrubLapLate c s) := by
  unfold execScrubLapLate
  refine .unit ?_
  split
  · exact .refl _
  · exact .ite (keeps_setHal ..) (.refl _)

theorem keeps_execRegionMapWrite (c : Nat) (lo hi : Word) (s : State) : AnswerKeeps s (execRegionMapWrite c lo hi s) := by
  unfold execRegionMapWrite
  refine .unit ?_
  split
  · exact .refl _
  · exact .ite (keeps_setRegions ..) (.refl _)

theorem keeps_writeRaw (s : State) (p w : Nat) (data : Bytes) (check : Nat) : Keeps s (s.writeRaw p w data check) := by
  unfold State.writeRaw
  extract_lets s1 s2
  have h1 : Keeps s s1 := by
    unfold s1
    split
    · exact keeps_dropHome ..
    · exact .refl s
  exact ((h1.trans (keeps_dropLines ..)).trans (keeps_putWord ..)).trans (keeps_flips fun h => twf_tputs _ _ h)

theorem keeps_testAccess (s : State) (p b : Nat) (a : TestAcc) : Keeps s (s.testAccess p b a) :=
  .ite (.ite (.ite ((keeps_setHal ..).trans (keeps_writeRaw ..)) (.refl _)) (.ite (keeps_writeNow ..) (.refl _)))
    (.ite (keeps_setHal ..) (.ite (keeps_readSlice ..) (.refl _)))

theorem keeps_execTestModeEnable (c mode : Nat) (b : TestRun) (s : State) : AnswerKeeps s (execTestModeEnable c mode b s) := by
  unfold execTestModeEnable
  refine .unit ?_
  split
  · exact .refl _
  · exact .ite (.refl _) (.ite (keeps_setHal ..) (.ite ((keeps_flushNow ..).trans
      ((keeps_setHal ..).trans (.foldl _ (fun _ _ => keeps_testAccess ..) _ _))) (keeps_setHal ..)))

/-! Control and system class of a core (R65, R66, R138 to R146) -/

theorem keeps_execNop (c : Nat) (f : BitVec 56) (s : State) : AnswerKeeps s (execNop c f s) := .core fun _ _ => keeps_legal (Keeps.refl _)

theorem keeps_branchTo {t : Int} {u : State} (h : Keeps s u) : (branchTo s t u).Keeps s := by
  unfold branchTo
  split
  · exact Keeps.refl s
  · exact h

theorem keeps_execBr (c : Nat) (f : BitVec 56) (s : State) : AnswerKeeps s (execBr c f s) :=
  .core fun _ _ => keeps_legal (.ite (keeps_branchTo (.refl _)) (Keeps.refl _))

theorem keeps_execJal (c : Nat) (f : BitVec 56) (s : State) : AnswerKeeps s (execJal c f s) :=
  .core fun _ _ => keeps_legal (keeps_branchTo (keeps_setCore ..))

theorem keeps_execJalr (c : Nat) (f : BitVec 56) (s : State) : AnswerKeeps s (execJalr c f s) :=
  .core fun _ _ => keeps_legal (.ite (Keeps.refl _) (.ite (Keeps.refl _) (keeps_setCore ..)))

theorem keeps_flushOwn (s : State) (c : Nat) : Keeps s (s.flushOwn c) := by
  unfold State.flushOwn
  split
  · exact .refl _
  · exact keeps_flushWhere ..

theorem keeps_readBackCore (s : State) (c : Nat) : Keeps s (s.readBackCore c) := by
  unfold State.readBackCore
  extract_lets
  split
  · exact .ite (.refl _) (.ite ((keeps_hostRead ..).trans (keeps_setCore ..)) ((keeps_setCore ..).trans (keeps_imprecise ..)))
  · exact .refl _

theorem keeps_fence (s : State) (c k : Nat) : Keeps s (s.fence c k).1 := by
  unfold State.fence
  extract_lets s1
  have h1 : Keeps s s1 := .ite ((keeps_flushOwn ..).trans (keeps_readBackCore ..)) (.refl _)
  split
  · exact .ite (h1.trans (keeps_setCore ..)) h1
  · exact h1

theorem keeps_execFence (c : Nat) (f : BitVec 56) (s : State) : AnswerKeeps s (execFence c f s) := by
  unfold execFence
  refine .core fun s x => keeps_legal ?_
  split
  · rename_i he
    exact Keeps.fst he (keeps_fence ..)
  · rename_i he
    exact Keeps.fst he (keeps_fence ..)

theorem keeps_execRdctr (c : Nat) (f : BitVec 56) (s : State) : AnswerKeeps s (execRdctr c f s) :=
  .core fun _ _ => keeps_legal (keeps_doneS ..)

theorem keeps_clearRegs (s : State) (c : Nat) : Keeps s (s.clearRegs c) :=
  (Keeps.foldl _ (fun _ _ => keeps_unbindPort ..) _ _).trans (keeps_setCore ..)

theorem keeps_endRole (s : State) (c : Nat) : Keeps s (s.endRole c) :=
  ((keeps_setCore ..).trans (keeps_clearRegs ..)).trans (.ite (.refl _) ((keeps_setJob ..).trans (.ite (keeps_endJob ..) (.refl _))))

theorem keeps_execEndRole (c : Nat) (f : BitVec 56) (s : State) : AnswerKeeps s (execEndRole c f s) := by
  unfold execEndRole
  refine .core fun s x => keeps_legal ?_
  split
  · rename_i s1 he
    have h1 := Keeps.fst he (keeps_fence ..)
    exact .ite h1 (h1.trans (keeps_endRole ..))
  · rename_i he
    exact Keeps.fst he (keeps_fence ..)

theorem keeps_execSysr (c : Nat) (f : BitVec 56) (s : State) : AnswerKeeps s (execSysr c f s) := by
  unfold execSysr
  refine .core fun s x => keeps_privileged ?_
  split
  · exact keeps_doneS ..
  · exact Keeps.refl _

theorem keeps_execSysw (c : Nat) (f : BitVec 56) (s : State) : AnswerKeeps s (execSysw c f s) :=
  .core fun _ _ => keeps_privileged (keeps_setCore ..)

theorem keeps_abortOps (s : State) (c : Nat) : Keeps s (s.abortOps c) := (keeps_abortTickets ..).trans (keeps_setCore ..)

theorem keeps_drained (s : State) (c : Nat) : Keeps s (s.drained c).1 := by
  unfold State.drained
  extract_lets s1 s2
  have h1 : Keeps s s1 := by
    unfold s1
    split
    · exact keeps_flushWhere ..
    · exact .refl _
  have h2 : Keeps s s2 := (h1.trans (keeps_drainFaults ..)).trans (keeps_readBackCore ..)
  exact h2

theorem keeps_clearActions (s : State) (c k : Nat) : Keeps s (s.clearActions c k) :=
  (Keeps.ite (keeps_clearRegs ..) (.refl _)).trans ((Keeps.ite (keeps_scratchClear ..) (.refl _)).trans (keeps_setCore ..))

theorem keeps_execSclr (c : Nat) (f : BitVec 56) (s : State) : AnswerKeeps s (execSclr c f s) := by
  unfold execSclr
  refine .core fun s x => ?_
  extract_lets _ s1
  have h1 : Keeps s s1 := .ite (keeps_abortOps ..) (.refl _)
  refine keeps_privileged (.ite ?_ (h1.trans (keeps_clearActions ..)))
  split
  · rename_i s2 he
    have h2 := Keeps.fst he (h1.trans (keeps_drained ..))
    exact h2.trans (keeps_clearActions ..)
  · rename_i he
    exact Keeps.fst he (h1.trans (keeps_drained ..))

theorem keeps_execCtxset (c : Nat) (f : BitVec 56) (s : State) : AnswerKeeps s (execCtxset c f s) :=
  .core fun _ _ => keeps_privileged (.ite (Keeps.refl _) (.ite (keeps_setCore ..) trivial))

theorem keeps_execUenter (c : Nat) (f : BitVec 56) (s : State) : AnswerKeeps s (execUenter c f s) := by
  refine .core fun s x => keeps_privileged (Ir.Keeps.ite (Keeps.refl s) ?_)
  extract_lets _ s1
  have h1 : Keeps s s1 := keeps_clearRegs ..
  clear_value s1
  exact Ir.Keeps.ite (h1.ir (keeps_setCore ..)) (h1.ir (keeps_setCore ..))

theorem keeps_execImpreciseException (c : Nat) (s : State) : AnswerKeeps s (execImpreciseException c s) := by
  unfold execImpreciseException
  refine .unit ?_
  extract_lets
  split
  · exact .refl _
  · exact .ite (.refl _) ((keeps_setCore ..).trans (.ite (keeps_takeExc ..)
      ((keeps_setCore ..).trans (.ite (.refl _) (keeps_reportExc ..)))))

theorem keeps_execManagementRequest (c : Nat) (s : State) : AnswerKeeps s (execManagementRequest c s) :=
  .unit (.ite (.refl _) (keeps_setCore ..))

/-! PLACE, RETIRE, fault collectors and restarts (R264 to R283, R477 to R487, R531) -/

theorem keeps_readFw (l : List (Nat × Nat)) : ∀ s : State, Keeps s (s.readFw l).1 := by
  induction l with
  | nil => exact .refl
  | cons e l ih =>
    intro s
    unfold State.readFw
    split
    · rename_i he
      have h := Keeps.fst he (keeps_dmaRead ..)
      split
      · rename_i he
        exact h.trans (.fst he (ih _))
      · rename_i he
        exact h.trans (.fst he (ih _))
    · rename_i he
      exact .fst he (keeps_dmaRead ..)

theorem keeps_readRecord (s : State) (ext : HostReply) (da len : Nat) : Keeps s (s.readRecord ext da len).1 := by
  unfold State.readRecord
  extract_lets s1
  have h1 : Keeps s s1 := keeps_hostReads ..
  split
  · exact .refl _
  · split
    · split
      · exact .refl _
      · split
        · exact h1
        · exact h1
    · split
      · exact keeps_readFw ..
      · exact .refl _

theorem keeps_pick (s : State) (l : List Nat) : Keeps s (s.pick l).2 := keeps_free ..

theorem keeps_givePayload (s : State) (j : Nat) : Keeps s (s.givePayload j) := by
  unfold State.givePayload
  extract_lets
  refine .ite (.refl s) ?_
  split
  rename_i he
  split
  exact (((Keeps.snd he (keeps_pick ..)).trans (keeps_setChan ..)).trans (keeps_setJob ..)).trans (keeps_enableChannel ..)

theorem keeps_createJob (s : State) (r : PlaceRec) : Keeps s (s.createJob r).1 := by
  unfold State.createJob
  extract_lets
  split
  rename_i _ s1 he
  have h1 := Keeps.snd he (keeps_pick ..)
  extract_lets s2 s3 s4 s5 s6 s7 _ s8 s9
  have h2 : Keeps s s2 := h1.trans (keeps_setJob ..)
  have h3 : Keeps s s3 := h2.trans (keeps_setJobEpochs ..)
  have h4 : Keeps s s4 := h3.trans (.foldl _ (fun _ _ => keeps_advanceEpoch ..) _ _)
  have h5 : Keeps s s5 := h4.trans (keeps_advanceWindows ..)
  have h6 : Keeps s s6 := by
    unfold s6
    refine .trans h5 (.foldl _ (fun s _ => ?_) _ _)
    split
    · exact keeps_setRegions ..
    · exact .refl _
  have h7 : Keeps s s7 := (h6.trans (keeps_nameQueues ..)).trans (keeps_givePayload ..)
  have h8 : Keeps s s8 := h7.trans (keeps_setJob ..)
  have h9 : Keeps s s9 := h8.trans (keeps_update ..)
  exact h9.trans (keeps_startCores ..)

theorem keeps_place1 (s : State) (ext : HostReply) : Keeps s (s.place1 ext).1 := by
  unfold State.place1
  extract_lets
  split
  · rename_i he
    exact Keeps.fst he (keeps_readRecord ..)
  · rename_i s1 _ he
    have h1 := Keeps.fst he (keeps_readRecord ..)
    split
    · exact h1
    · split
      · exact h1
      · split
        · rename_i he
          exact Keeps.fst he (h1.trans (keeps_readRecord ..))
        · rename_i s2 _ he
          have h2 := Keeps.fst he (h1.trans (keeps_readRecord ..))
          extract_lets
          split
          · exact h2
          · split
            · exact h2
            · split
              · exact h2
              · split
                · exact h2
                · exact h2
                · split
                  · exact h2
                  · exact h2.trans (keeps_createJob ..)

theorem keeps_placeResult (s : State) (j : Nat) (e : PlaceErr) : Keeps s (s.placeResult j e) := keeps_update ..

theorem keeps_execJobPlace (r : HostReply) (s : State) : AnswerKeeps s (execJobPlace r s) :=
  .next (.ite (.refl _) (.ite (keeps_update ..) ((keeps_place1 ..).trans (keeps_placeResult ..))))

theorem keeps_execJobRetire (j : Nat) (s : State) : AnswerKeeps s (execJobRetire j s) :=
  .unit (.ite (.refl _) (.ite (keeps_update ..) (.ite (keeps_placeResult ..) ((keeps_retireJob ..).trans (keeps_placeResult ..)))))

theorem keeps_collect (s : State) (r : Report) : Keeps s (s.collect r).1 := by
  unfold State.collect
  extract_lets k ep k' put
  have hput : ∀ y, Keeps s (put y) := fun _ => keeps_update ..
  split
  split
  · exact hput _
  · exact hput _
  · exact hput _

theorem keeps_traceFrame (s : State) (typ die index : Nat) (payload : Bytes) : Keeps s (s.traceFrame typ die index payload) :=
  .ite (keeps_send ..) (.refl _)

theorem keeps_execFaultReport (i : Nat) (s : State) : AnswerKeeps s (execFaultReport i s) := by
  unfold execFaultReport
  extract_lets s1
  have h1 : Keeps s s1 := keeps_update ..
  split
  · exact .next (.refl _)
  · extract_lets _ _ s2
    have h2 : Keeps s s2 := .ite (h1.trans (keeps_raiseAlert ..)) h1
    split
    rename_i s3 _ he
    have h3 := Keeps.fst he (h2.trans (keeps_collect ..))
    extract_lets s4
    have h4 : Keeps s s4 := by
      unfold s4
      split
      · exact h3.trans (keeps_traceFrame ..)
      · exact h3
    exact .next (.ite (h4.trans (keeps_setJob ..)) h4)

theorem keeps_execFaultRecordFree (col n : Nat) (s : State) : AnswerKeeps s (execFaultRecordFree col n s) :=
  .unit (.ite (.refl _) (keeps_update ..))

theorem keeps_execJobRestart (j : Nat) (s : State) : AnswerKeeps s (execJobRestart j s) :=
  .unit (.ite (.refl _) (.ite ((keeps_report ..).trans (keeps_retireJob ..))
    (.ite ((Keeps.ite (keeps_beginRestart ..) (.refl _)).trans (.ite (.refl _) (keeps_finishRestart ..))) (.refl _))))

theorem keeps_execSegmentFaultNotice (inst : Nat) (s : State) : AnswerKeeps s (execSegmentFaultNotice inst s) :=
  .next (.ite (.refl _) (.foldl _ (fun _ _ => (Keeps.ite (keeps_setJob ..) (.refl _)).trans (keeps_report ..)) _ _))

theorem keeps_execWindowEpochNotice (peer win epoch : Nat) (s : State) : AnswerKeeps s (execWindowEpochNotice peer win epoch s) :=
  .unit (.ite (keeps_update ..) (.refl _))

/-! The pennants of the runtime (R284 to R301, R312) -/

theorem keeps_setServing (s : State) (j : Nat) (v : Serve) : Keeps s (s.setServing j v) := keeps_update ..

theorem keeps_refuseNow (s : State) (r : CReq) (cause : Nat) : Keeps s (s.refuseNow r cause) := .ite (keeps_imprecise ..) (keeps_precise ..)

theorem keeps_atHome (s : State) (r : CReq) : Keeps s (s.atHome r) :=
  ((keeps_settleLine ..).trans (keeps_countAccess ..)).trans (.ite (keeps_dropHome ..) (.refl _))

theorem keeps_lineLoad (s : State) (r : CReq) : Keeps s (s.lineLoad r).1 := by
  unfold State.lineLoad
  extract_lets _ s1
  have h1 : Keeps s s1 := keeps_atHome ..
  split
  · exact h1
  · exact h1
  · split
    · exact h1
    · split
      · rename_i he
        exact Keeps.fst he (h1.trans (keeps_readSlice ..))
      · rename_i s2 _ he
        have h2 := Keeps.fst he (h1.trans (keeps_readSlice ..))
        exact h2.trans (keeps_allocLine ..)

theorem keeps_cachedStore (s : State) (c da : Nat) (b : Bytes) : Keeps s (s.cachedStore c da b) := by
  unfold State.cachedStore
  extract_lets _ s1
  have h1 : Keeps s s1 := keeps_atHome ..
  refine .ite (.refl _) ?_
  split
  · exact h1.trans (keeps_refuseNow ..)
  · exact (h1.trans (keeps_dropSharers ..)).trans (keeps_writeThrough ..)

theorem keeps_cachedAmo (s : State) (c da fn x y : Nat) : Keeps s (s.cachedAmo c da fn x y) := by
  unfold State.cachedAmo
  extract_lets
  refine .ite (.refl _) ?_
  split
  · rename_i s1 _ he
    have h1 := Keeps.fst he (keeps_lineLoad ..)
    exact h1.trans (keeps_refuseNow ..)
  · rename_i s2 _ he
    have h2 := Keeps.fst he (keeps_lineLoad ..)
    exact h2.trans (keeps_changeLine ..)

theorem keeps_pdLoad (s : State) (a : Nat) : Keeps s (s.pdLoad a) := by
  unfold State.pdLoad
  extract_lets
  refine .ite (.refl _) ?_
  split
  · rename_i s1 _ he
    have h1 := Keeps.fst he (keeps_lineLoad ..)
    exact h1.trans (keeps_refuseNow ..)
  · rename_i he
    exact Keeps.fst he (keeps_lineLoad ..)

theorem keeps_pdStore (s : State) (a : Nat) (b : Bytes) : Keeps s (s.pdStore a b) := keeps_cachedStore ..

theorem keeps_pdAmo (s : State) (a fn x y : Nat) : Keeps s (s.pdAmo a fn x y) := keeps_cachedAmo ..

theorem keeps_pdFills (s : State) (a fill tfill : Nat) : Keeps s (s.pdFills a fill tfill) := keeps_pdStore ..

theorem keeps_pdSetBit (s : State) (a k : Nat) (on : Bool) : Keeps s (s.pdSetBit a k on) := keeps_pdStore ..

theorem keeps_pdBusyBit (s : State) (a : Nat) (on : Bool) : Keeps s (s.pdBusyBit a on) := keeps_pdAmo ..

theorem keeps_ringDesc (s : State) (c k : Nat) (desc : Bytes) : Keeps s (s.ringDesc c k desc) := by
  unfold State.ringDesc
  exact (keeps_cachedStore ..).trans (keeps_cachedStore ..)

theorem keeps_freePennant (s : State) (j a : Nat) : Keeps s (s.freePennant j a) := by
  unfold State.freePennant
  extract_lets _ _ s1
  have h1 : Keeps s s1 := keeps_setServing ..
  refine .ite h1 (.ite (keeps_pdSetBit ..) ?_)
  split
  · exact (keeps_pdBusyBit ..).trans (keeps_ringDesc ..)
  · exact h1

theorem keeps_release (s : State) (j a : Nat) : Keeps s (s.release j a) := (keeps_pdAmo ..).trans (.ite (keeps_freePennant ..) (.refl _))

theorem keeps_releaseAll (s : State) (j : Nat) (l : List (List Nat)) : Keeps s (s.releaseAll j l) :=
  .foldl _ (fun _ _ => keeps_release ..) _ _

theorem keeps_tidyPennants (s : State) (j : Nat) : Keeps s (s.tidyPennants j) :=
  (Keeps.foldl _ (fun _ _ => keeps_pdLoad ..) _ _).trans ((keeps_setServing ..).trans (.foldl _ (fun _ _ => keeps_freePennant ..) _ _))

theorem keeps_allocPennant (s : State) (j : Nat) (u : KvUnit) (k pos : Nat) : OptKeeps Prod.fst s (s.allocPennant j u k pos) := by
  unfold State.allocPennant
  split
  · exact .some (keeps_pdStore ..)
  · exact .none

theorem keeps_pump (c p t n : Nat) : ∀ s : State, Keeps s (s.pump c p t n) := by
  induction n with
  | zero => exact .refl
  | succ n ih =>
    intro s
    have h : Keeps (s.admitNext p) ((((s.admitNext p).nbu p).units.filter (·.2.active)).foldl
        (fun s e => (s.serveBoundary p e.1).nbAdvance p e.1) (s.admitNext p)) :=
      .foldl _ (fun _ _ => (keeps_serveBoundary ..).trans (keeps_nbAdvance ..)) _ _
    exact .ite (.refl s) (((keeps_admitNext ..).trans h).trans (ih _))

theorem keeps_runOn (s : State) (c p body : Nat) (img : List Word) (rc : Word) (f2 f3 : Nat) : Keeps s (s.runOn c p body img rc f2 f3) := by
  unfold State.runOn
  extract_lets
  refine .ite (.refl _) (.ite (keeps_precise ..) ?_)
  split
  · exact .refl _
  · exact (keeps_issueProgram ..).trans (keeps_pump ..)

theorem keeps_bodyWrite (s : State) (da : Nat) (b : Bytes) : Keeps s (s.bodyWrite da b) := by
  unfold State.bodyWrite
  extract_lets
  split
  · exact .ite (.refl _) (.ite (keeps_precise ..) (keeps_writeNow ..))
  · exact .refl _

theorem keeps_bodyRead (s : State) (da len cls : Nat) : Keeps s (s.bodyRead da len cls).1 := by
  unfold State.bodyRead
  extract_lets
  split
  · split
    · exact .refl _
    · split
      · exact keeps_precise ..
      · split
        · rename_i he
          exact Keeps.fst he (keeps_readSlice ..)
        · rename_i s1 _ _ he
          have h1 := Keeps.fst he (keeps_readSlice ..)
          exact h1.trans (keeps_precise ..)
  · exact .refl _

theorem keeps_kvWrite (s : State) (u : KvUnit) (body t : Nat) (kv : Bytes) : Keeps s (s.kvWrite u body t kv) :=
  (Keeps.foldl _ (fun _ _ => keeps_bodyWrite ..) _ _).trans (.foldl _ (fun _ _ => keeps_bodyWrite ..) _ _)

theorem keeps_copyPennant (s : State) (j : Nat) (u : KvUnit) (a : Nat) : OptKeeps Prod.fst s (s.copyPennant j u a) := by
  unfold State.copyPennant
  extract_lets
  refine .ite .none ?_
  split
  · exact .pair ((keeps_runOn ..).trans (keeps_pdStore ..))
  · split
    rename_i s1 _ he
    have h1 := Keeps.fst he (keeps_bodyRead ..)
    exact .pair ((h1.trans (keeps_bodyWrite ..)).trans (keeps_pdStore ..))
  · exact .none

theorem keeps_ownPennant (s : State) (j : Nat) (u : KvUnit) (a : Nat) : OptKeeps Prod.fst s (s.ownPennant j u a) :=
  .ite (.some (.refl s)) ((keeps_copyPennant ..).mapPair fun _ => keeps_release ..)

theorem keeps_sharePennant (s : State) (j : Nat) (u : KvUnit) (a : Nat) : OptKeeps Prod.fst s (s.sharePennant j u a) :=
  .ite (.some (keeps_pdAmo ..)) (keeps_copyPennant ..)

theorem keeps_summarise (s : State) (u : KvUnit) (a : Nat) : Keeps s (s.summarise u a) := by
  unfold State.summarise
  extract_lets
  refine .ite (.refl _) ?_
  split
  · exact .refl _
  · exact (keeps_runOn ..).trans (((keeps_bodyRead ..).trans (keeps_bodyWrite ..)).trans (keeps_pdSetBit ..))

theorem keeps_fillSlots (s : State) (u : KvUnit) (a t : Nat) (kv : List Bytes) : Keeps s (s.fillSlots u a t kv) :=
  (Keeps.foldl _ (fun _ _ => keeps_kvWrite ..) _ _).trans (keeps_pdFills ..)

theorem keeps_nextPennant (s : State) (j : Nat) (u : KvUnit) (k : Nat) (l : List Nat) (p : Nat) :
    OptKeeps Prod.fst s (s.nextPennant j u k l p) := by
  unfold State.nextPennant
  split
  · exact keeps_allocPennant ..
  · exact .ite (.pair ((keeps_pdFills ..).trans (keeps_pdStore ..))) ((keeps_release ..).opt (keeps_allocPennant ..))

theorem keeps_fillUnit (j : Nat) (u : KvUnit) (k n : Nat) :
    ∀ (s : State) (l : List Nat) (p : Nat) (kv : List Bytes), OptKeeps Prod.fst s (s.fillUnit j u k n l p kv) := by
  induction n with
  | zero =>
    intro s l p kv
    cases kv with
    | nil | cons => exact .some (.refl s)
  | succ n ih =>
    intro s l p kv
    cases kv with
    | nil => exact .some (.refl s)
    | cons d kv =>
      unfold State.fillUnit
      split
      · exact .none
      · rename_i s1 a he
        have h1 : Keeps s s1 := by
          split at he
          · exact OptKeeps.of_eq he (keeps_nextPennant ..)
          · exact OptKeeps.of_eq he (keeps_ownPennant ..)
        extract_lets _ s2 s3
        have h2 : Keeps s1 s2 := keeps_fillSlots ..
        have h3 : Keeps s1 s3 := h2.trans ((keeps_pdFills ..).trans (keeps_summarise ..))
        exact (h1.trans h3).opt (ih ..)

theorem keeps_tentUnit (s : State) (j : Nat) (u : KvUnit) (k : Nat) (l : List Nat) (p : Nat) (kv : List Bytes) :
    OptKeeps Prod.fst s (s.tentUnit j u k l p kv) := by
  unfold State.tentUnit
  extract_lets here rest own
  have hown : OptKeeps Prod.fst s own := .ite (.some (.refl s)) ((keeps_ownPennant ..).mapPair fun _ => keeps_fillSlots ..)
  exact hown.bind fun _ => .ite (.pair (.refl _)) ((keeps_allocPennant ..).mapPair fun _ => keeps_fillSlots ..)

theorem keeps_commitUnit (s : State) (j : Nat) (u : KvUnit) (l : List Nat) (p t c : Nat) (fresh : Option Nat) :
    Keeps s (s.commitUnit j u l p t c fresh).1 := by
  unfold State.commitUnit
  extract_lets _ _ _ s1
  have h1 : Keeps s s1 := .ite (.refl _) ((keeps_pdFills ..).trans (keeps_summarise ..))
  split
  · exact h1
  · extract_lets s2 s3
    have h2 : Keeps s s2 := h1.trans (keeps_pdFills ..)
    have h3 : Keeps s s3 := by
      unfold s3
      split
      · exact h2.trans (keeps_release ..)
      · exact h2
    split
    · dsimp only
      exact h2.trans (keeps_release ..)
    · exact h3

theorem keeps_scores (s : State) (u : KvUnit) (pds : List Bytes) (qs : List (List (List Nat))) : Keeps s (s.scores u pds qs).1 := by
  unfold State.scores
  split
  rename_i he
  refine .fst he (Keeps.foldl_pair _ (fun _ _ => ?_) _ (s, _))
  exact keeps_bodyRead ..

theorem keeps_claimOpen (s : State) (j : Nat) (u : KvUnit) (a : Nat) : Keeps s (s.claimOpen j u a) := by
  unfold State.claimOpen
  extract_lets
  refine .ite (.refl _) ?_
  split
  · exact ((keeps_setServing ..).trans (keeps_pdBusyBit ..)).trans (keeps_ringDesc ..)
  · exact .refl _

theorem keeps_eachUnit {f : State → KvUnit → Nat → Option (State × List Nat)} (hf : ∀ s u k, OptKeeps Prod.fst s (f s u k))
    (s : State) (us : List (KvUnit × Nat)) : OptKeeps Prod.fst s (s.eachUnit us f) := by
  refine OptKeeps.foldl (fun _ _ => ?_) us (OptKeeps.some (x := (s, [])) (.refl s))
  exact (hf ..).map fun _ => .refl _

theorem keeps_fillSeq (s : State) (j area : Nat) (ls : List (List Nat)) (p n : Nat) (kv : List (List Bytes)) :
    OptKeeps Prod.fst s (s.fillSeq j area ls p n kv) :=
  keeps_eachUnit (fun _ _ _ => keeps_fillUnit ..) ..

theorem keeps_stepUnit (s : State) (j area : Nat) (ls : List (List Nat)) (p t : Nat) (kv : List (List Bytes))
    (qs : List (List (List (List Nat)))) (u : KvUnit) (k : Nat) : OptKeeps Prod.fst s (s.stepUnit j area ls p t kv qs u k) := by
  refine (keeps_tentUnit ..).map fun e => ?_
  extract_lets now pds
  split
  rename_i s1 sc he
  have h1 : Keeps e.1 s1 := by
    split at he
    · exact .fst he (keeps_scores ..)
    · cases he
      exact .refl _
  exact h1.trans (.foldl _ (fun _ _ => keeps_claimOpen ..) _ _)

theorem keeps_tentSeq (s : State) (j area : Nat) (ls : List (List Nat)) (p t : Nat) (kv : List (List Bytes))
    (qs : List (List (List (List Nat)))) : OptKeeps Prod.fst s (s.tentSeq j area ls p t kv qs) := by
  refine OptKeeps.foldl (fun _ _ => ?_) _ (OptKeeps.some (x := (s, (⟨[], [], []⟩ : Tentative))) (.refl s))
  exact (keeps_stepUnit ..).map fun _ => .refl _

theorem keeps_commitSeq (s : State) (j : Nat) (x : Tentative) (p t c : Nat) : Keeps s (s.commitSeq j x p t c).1 := by
  refine Keeps.foldl_pair _ (fun _ _ => ?_) _ (s, [])
  exact keeps_commitUnit ..

theorem keeps_shareLists (s : State) (j n : Nat) (ls : List (List Nat)) : OptKeeps Prod.fst s (s.shareLists j n ls) := by
  refine keeps_eachUnit (fun s _ _ => ?_) ..
  refine OptKeeps.foldl (fun _ _ => ?_) _ (OptKeeps.some (x := (s, [])) (.refl s))
  exact (keeps_sharePennant ..).map fun _ => .refl _

theorem keeps_withPool {f : State → Option State} (hf : ∀ u, OptKeeps id u (f u)) (j n : Nat) :
    ∀ s : State, Keeps s (s.withPool j f n) := by
  induction n with
  | zero =>
    intro s
    unfold State.withPool
    cases he : f s with
    | none => exact .refl s
    | some t => exact OptKeeps.of_eq (st := id) he (hf s)
  | succ n ih =>
    intro s
    unfold State.withPool
    split
    · rename_i he
      exact OptKeeps.of_eq he (hf s)
    · split
      · exact .refl s
      · exact ((keeps_setServing ..).trans (keeps_releaseAll ..)).trans (ih _)

theorem keeps_forgetPennants (s : State) (j : Nat) : Keeps s (s.forgetPennants j) :=
  (keeps_setServing ..).trans (.foldl _ (fun _ _ => (keeps_pdLoad ..).trans
    (.ite (.refl _) ((Keeps.ite (keeps_pdBusyBit ..) (.refl _)).trans (keeps_freePennant ..)))) _ _)

/-! The serving runtime's ledger (R314 to R323, R334 to R336) -/

theorem keeps_closeSerial (s : State) (j : Nat) : Keeps s (s.closeSerial j) := keeps_setJob ..

theorem keeps_setReq (s : State) (j i : Nat) (x : SReq) : Keeps s (s.setReq j i x) := keeps_setServing ..

theorem keeps_endReq (s : State) (j i : Nat) (x : SReq) : Keeps s (s.endReq j i x) := (keeps_setReq ..).trans (keeps_releaseAll ..)

theorem keeps_passEntry (s : State) (q : Nat) : Keeps s (s.passEntry q) := (keeps_setQe ..).trans (keeps_shadowQueue ..)

theorem keeps_entryBack (s : State) (j i : Nat) (x : SReq) (ok : Bool) : Keeps s (s.entryBack j i x ok) := by
  unfold State.entryBack
  extract_lets
  split
  · exact .refl _
  · exact .ite (((keeps_setReq ..).trans (keeps_passEntry ..)).trans (.ite ((keeps_setServing ..).trans (keeps_closeSerial ..)) (.refl _)))
      (.ite (keeps_setReq ..) (keeps_endReq ..))

theorem keeps_outBack (s : State) (j i : Nat) (x : SReq) (ok : Bool) : Keeps s (s.outBack j i x ok) := keeps_setReq ..

theorem keeps_replyBack (s : State) (j k : Nat) (r : Reply) (ok : Bool) : Keeps s (s.replyBack j k r ok) :=
  .ite ((keeps_setServing ..).trans (keeps_passEntry ..)) (keeps_setServing ..)

theorem keeps_serveBack (s : State) (w : ServeWait) (ok : Bool) : Keeps s (s.serveBack w ok).1 := by
  unfold State.serveBack
  split
  · exact keeps_entryBack ..
  · exact keeps_outBack ..
  · exact keeps_replyBack ..

/-! The host port (R364 to R378) -/

theorem keeps_countDeny (s : State) : Keeps s s.countDeny := keeps_update ..

theorem keeps_denyHost (s : State) (c off len : Nat) (write : Bool) : Keeps s (s.denyHost c off len write) :=
  .ite (.refl _) (keeps_countDeny ..)

theorem keeps_execBar2Read (off len : Nat) (secure : Bool) (s : State) : AnswerKeeps s (execBar2Read off len secure s) := by
  unfold execBar2Read
  refine .next (.ite (.refl _) (.ite (keeps_send ..) ?_))
  split
  · exact keeps_send ..
  · refine .ite ((keeps_denyHost ..).trans (keeps_send ..)) ?_
    split
    · rename_i s1 _ he
      have h1 := Keeps.fst he (keeps_readSlice ..)
      exact h1.trans (keeps_send ..)
    · rename_i s2 _ he
      have h2 := Keeps.fst he (keeps_readSlice ..)
      exact h2.trans (keeps_send ..)

theorem keeps_execBar2Write (off : Nat) (d : Bytes) (secure : Bool) (s : State) : AnswerKeeps s (execBar2Write off d secure s) := by
  unfold execBar2Write
  refine .next (.ite (.refl _) (.ite (keeps_send ..) ?_))
  split
  · exact keeps_send ..
  · exact .ite ((keeps_denyHost ..).trans (keeps_send ..)) (keeps_writeNow ..)

theorem keeps_sendPending (s : State) (v : Nat) : Keeps s (s.sendPending v) := .ite ((keeps_update ..).trans (keeps_message ..)) (.refl _)

theorem keeps_execMsixVectorUnmask (v : Nat) (s : State) : AnswerKeeps s (execMsixVectorUnmask v s) :=
  .unit (.ite (.refl _) (.ite (keeps_send ..) ((keeps_update ..).trans (keeps_sendPending ..))))

theorem keeps_clearConfig (s : State) (fn : Nat) : Keeps s (s.clearConfig fn) := .ite (keeps_update ..) (keeps_update ..)

theorem keeps_cfgWrite (s : State) (fn off v : Nat) : Keeps s (s.cfgWrite fn off v) :=
  (keeps_update ..).trans (.ite (keeps_update ..) (.ite ((keeps_update ..).trans (.foldl _ (fun _ _ => keeps_sendPending ..) _ _))
    (.ite (keeps_update ..) (.ite (keeps_clearConfig ..) (.refl _)))))

theorem keeps_execConfigRequest (fn : Nat) (wr : Bool) (off v : Nat) (s : State) : AnswerKeeps s (execConfigRequest fn wr off v s) :=
  .next (.ite (.refl _) (.ite (keeps_send ..) (.ite ((keeps_cfgWrite ..).trans (keeps_send ..)) (keeps_send ..))))

theorem keeps_execRegisterWrite (off : Nat) (a : HostAcc) (v : Nat) (s : State) : AnswerKeeps s (execRegisterWrite off a v s) :=
  .next (.ite (.refl _) ((keeps_hostStore ..).trans (.ite (keeps_sendPending ..) (.refl _))))

theorem keeps_execFunction1Write (off v : Nat) (s : State) : AnswerKeeps s (execFunction1Write off v s) :=
  .next (.ite (keeps_send ..) (.refl _))

theorem keeps_execAtomicopRequest (bar off : Nat) (s : State) : AnswerKeeps s (execAtomicopRequest bar off s) :=
  .next (.ite (keeps_send ..) (.refl _))

theorem keeps_sendEvent (s : State) (j : Nat) : Keeps s (s.sendEvent j) := by
  unfold State.sendEvent
  extract_lets
  split
  · exact .ite ((keeps_setJob ..).trans (keeps_update ..)) (.refl _)
  · exact .refl _

theorem keeps_execQueueEventSend (j : Nat) (s : State) : AnswerKeeps s (execQueueEventSend j s) :=
  .unit (.ite (keeps_sendEvent ..) (.refl _))

theorem keeps_raiseDoorbell (s : State) (q j : Nat) : Keeps s (s.raiseDoorbell q j) :=
  .ite (.refl _) ((keeps_setJob ..).trans (keeps_sendEvent ..))

theorem keeps_postLates (s : State) (q : Nat) : Keeps s (s.postLates q) := .ite (.refl _) (.foldl _ (fun _ _ => keeps_postLate ..) _ _)

theorem keeps_ringQueue (s : State) (q h : Nat) : Keeps s (s.ringQueue q h) :=
  .ite (keeps_rejectQueue ..) (.ite (.refl _) (.ite (keeps_rejectQueue ..)
    ((keeps_setQe ..).trans (.ite (keeps_raiseDoorbell ..) (keeps_postLates ..)))))

theorem keeps_execDoorbell (off : Nat) (a : HostAcc) (v : Nat) (s : State) : AnswerKeeps s (execDoorbell off a v s) :=
  .next (.ite (.refl _) (.ite (keeps_send ..) (.ite ((keeps_accessFault ..).trans (keeps_send ..)) (.ite (.refl _) (keeps_ringQueue ..)))))

theorem keeps_execMidxUpdate (i : Nat) (s : State) : AnswerKeeps s (execMidxUpdate i s) := by
  unfold execMidxUpdate
  extract_lets _ s1
  have h1 : Keeps s s1 := keeps_update ..
  split
  · exact .next (.refl _)
  · extract_lets
    exact .ite (.next (.refl _)) (.next (.ite ((h1.trans (keeps_takeMidx ..)).trans (keeps_shadowQueue ..))
      ((h1.trans (keeps_rejectQueue ..)).trans (keeps_writeMidx ..))))

theorem keeps_execIntDelayExpire (q : Nat) (s : State) : AnswerKeeps s (execIntDelayExpire q s) :=
  .unit (.ite (.refl _) ((Keeps.ite (keeps_sendMsix ..) (.refl _)).trans (keeps_update ..)))

theorem keeps_queRun {op : Nat} {w : Word} {body : State → Nat → State × Nat} (hb : ∀ u q, Keeps u (body u q).1) :
    AnswerKeeps s (queRun op w s body) := by
  unfold queRun
  extract_lets done
  have hdone : ∀ r : State × Nat, Keeps s r.1 → Keeps s (done r) := fun _ h => h.trans (keeps_update ..)
  exact .next (.ite (.refl s) (.ite (keeps_update ..) (.ite (hdone _ (.refl s)) (.ite (hdone _ (.refl s)) (hdone _ (hb ..))))))

theorem keeps_execQueCreate (w : Word) (s : State) : AnswerKeeps s (execQueCreate w s) := by
  unfold execQueCreate
  refine keeps_queRun fun s _ => ?_
  extract_lets
  split
  · exact .refl _
  · split
    · exact .refl _
    · split
      · exact .refl _
      · exact keeps_setQe ..

theorem keeps_destroyQueue (s : State) (q : Nat) : Keeps s (s.destroyQueue q) := (keeps_update ..).trans (keeps_setQe ..)

theorem keeps_execQueDestroy (w : Word) (s : State) : AnswerKeeps s (execQueDestroy w s) := by
  unfold execQueDestroy
  refine keeps_queRun fun s _ => ?_
  split
  · exact .refl _
  · split
    · exact .refl _
    · exact keeps_destroyQueue ..

theorem keeps_execQueRead (w : Word) (s : State) : AnswerKeeps s (execQueRead w s) := keeps_queRun fun _ _ => keeps_update ..

theorem keeps_coreReadBack (s : State) (c : Nat) (r : HostReply) : Keeps s (s.coreReadBack c r) :=
  (keeps_setCore ..).trans (.ite (.refl _) (keeps_imprecise ..))

theorem keeps_coreHostData (s : State) (c k : Nat) (r : HostReply) : Keeps s (s.coreHostData c k r) := by
  unfold State.coreHostData
  extract_lets
  split
  · exact .refl _
  · split
    · exact .refl _
    · exact .ite ((keeps_setCore ..).trans (keeps_deliver ..)) (keeps_loadFails ..)

theorem keeps_guestHostData (s : State) (tag : Nat) (r : HostReply) : Keeps s (s.guestHostData tag r) :=
  (keeps_update ..).trans (.ite (keeps_send ..) (keeps_send ..))

theorem keeps_execPcieCompletion (tag : Nat) (r : HostReply) (s : State) : AnswerKeeps s (execPcieCompletion tag r s) := by
  unfold execPcieCompletion
  refine .next (.ite (.refl _) ?_)
  split
  · exact keeps_coreHostData ..
  · split
    · exact keeps_coreReadBack ..
    · split
      · exact keeps_setRun ..
      · split
        · split
          · rename_i s1 _ he
            have h1 := Keeps.fst he (keeps_serveBack ..)
            exact h1.trans (keeps_postLates ..)
          · rename_i he
            exact Keeps.fst he (keeps_serveBack ..)
        · exact .ite (keeps_guestHostData ..) (.refl _)

/-! Ngamel ports, frames, windows, die-to-die pairs and the guest die (R281, R282, R383 to R405) -/

theorem keeps_dmaRefused (s : State) (k cause : Nat) : Keeps s (s.dmaRefused k cause) := .ite (.refl _) (keeps_report ..)

theorem keeps_dmaRemote (s : State) (k off : Nat) (q : RemReq) (cause : Nat) (data : Bytes) : Keeps s (s.dmaRemote k off q cause data) := by
  unfold State.dmaRemote
  split
  · exact .refl _
  · exact .ite (keeps_setRun ..) (.ite ((keeps_setRun ..).trans (keeps_dmaRefused ..))
      (.ite (keeps_setRun ..) (((keeps_setRun ..).trans (keeps_endEarly ..)).trans (keeps_dmaRefused ..))))

theorem keeps_answerRemote (s : State) (q : RemReq) (cause : Nat) (data : Bytes) : Keeps s (s.answerRemote q cause data) := by
  unfold State.answerRemote
  extract_lets _ s1
  have h1 : Keeps s s1 := keeps_update ..
  split
  · exact h1
  · exact .ite h1 (h1.trans (keeps_lateStore ..))
  · exact h1.trans (keeps_dmaRemote ..)
  · exact .ite ((h1.trans (keeps_acked ..)).trans (.ite (.refl _) (keeps_imprecise ..)))
      (.ite (h1.trans (keeps_deliver ..)) (h1.trans (keeps_loadFails ..)))

theorem keeps_portDown (s : State) (p : Nat) : Keeps s (s.portDown p) :=
  (keeps_setLport ..).trans ((Keeps.foldl _ (fun _ _ => keeps_answerRemote ..) _ _).trans (keeps_report ..))

theorem keeps_portKeys (s : State) (p : Nat) (r : PortFind) : Keeps s (s.portKeys p r).1 := by
  unfold State.portKeys
  extract_lets _ _ _ s1
  have h1 : Keeps s s1 := (keeps_update ..).trans (keeps_send ..)
  split
  extract_lets
  split
  · exact h1
  · exact h1

theorem keeps_trainPort (s : State) (p : Nat) (r : PortFind) (retrain : Bool) : Keeps s (s.trainPort p r retrain) :=
  .ite (.ite ((keeps_setLport ..).trans (keeps_portDown ..)) ((keeps_setLport ..).trans (keeps_drainPort ..)))
    (.ite (keeps_setLport ..) (.ite ((keeps_setLport ..).trans (.ite (.refl _) (keeps_report ..)))
      (((keeps_portKeys ..).trans (keeps_update ..)).trans (keeps_setLport ..))))

theorem keeps_execPortRetry (p : Nat) (r : PortFind) (s : State) : AnswerKeeps s (execPortRetry p r s) :=
  .unit (.ite (keeps_trainPort ..) (.refl _))

theorem keeps_execPortSignalLoss (p : Nat) (s : State) : AnswerKeeps s (execPortSignalLoss p s) :=
  .unit (.ite (keeps_portDown ..) (.refl _))

theorem keeps_dropHeld (s : State) (q : RemReq) : Keeps s (s.dropHeld q) := keeps_setLport ..

theorem keeps_execRemoteTimeout (i : Nat) (s : State) : AnswerKeeps s (execRemoteTimeout i s) := by
  unfold execRemoteTimeout
  split
  · exact .next (.refl _)
  · exact .next (.ite ((keeps_dropHeld ..).trans (keeps_answerRemote ..)) (.refl _))

theorem keeps_sendNak (s : State) (p : Nat) : Keeps s (s.sendNak p) := (keeps_setLport ..).trans (keeps_sendFrame ..)

theorem keeps_receive {p typ : Nat} {f : Frame} {body : State → State} (hb : ∀ u, Keeps u (body u)) :
    AnswerKeeps s (receive p typ f s body) := by
  refine .unit (.ite (.refl s) (.ite (keeps_setLport ..) (.ite (keeps_sendNak ..) (.ite ?_ ?_))))
  · exact (keeps_setLport ..).trans (.ite ((keeps_sendNak ..).trans (keeps_portDown ..)) (keeps_sendNak ..))
  · exact (keeps_setLport ..).trans (.trans (.ite (hb _) (.refl _)) (keeps_drainPort ..))

theorem keeps_remoteWrite (s : State) (ctx da : Nat) (data : Bytes) : Keeps s (s.remoteWrite ctx da data).1 := by
  unfold State.remoteWrite
  split
  · exact .refl s
  · split
    · dsimp only
      exact keeps_writeNow ..
    · exact .refl s
  · split
    · exact .refl s
    · dsimp only
      exact keeps_scratchWrite ..
  · exact .refl s

theorem keeps_remoteRead (s : State) (ctx da len : Nat) : Keeps s (s.remoteRead ctx da len).1 := by
  unfold State.remoteRead
  split
  · exact .refl _
  · split
    · split
      · rename_i he
        exact Keeps.fst he (keeps_readSlice ..)
      · rename_i he
        exact Keeps.fst he (keeps_readSlice ..)
    · exact .refl _
  · split
    · exact .refl _
    · exact keeps_scratchFix ..
  · exact .refl _

theorem keeps_execFrameWrite (p : Nat) (fr : Frame) (s : State) : AnswerKeeps s (execFrameWrite p fr s) := by
  unfold execFrameWrite
  refine keeps_receive fun s => ?_
  split
  · exact keeps_sendFrame ..
  · exact .ite (.refl _) ((keeps_remoteWrite ..).trans (keeps_sendFrame ..))

theorem keeps_execFrameRead (p : Nat) (fr : Frame) (s : State) : AnswerKeeps s (execFrameRead p fr s) := by
  unfold execFrameRead
  refine keeps_receive fun s => ?_
  split
  · exact keeps_sendFrame ..
  · exact .ite (.refl _) ((keeps_remoteRead ..).trans (keeps_sendFrame ..))

theorem keeps_answered (s : State) (p : Nat) (f : Frame) (write : Bool) : Keeps s (s.answered p f write) := by
  unfold State.answered
  split
  · exact keeps_answerRemote ..
  · exact .refl _

theorem keeps_execReadCompletion (p : Nat) (fr : Frame) (s : State) : AnswerKeeps s (execReadCompletion p fr s) :=
  keeps_receive fun _ => keeps_answered ..

theorem keeps_execWriteAcknowledgement (p : Nat) (fr : Frame) (s : State) : AnswerKeeps s (execWriteAcknowledgement p fr s) :=
  keeps_receive fun _ => keeps_answered ..

theorem keeps_execFrameIdle (p : Nat) (fr : Frame) (s : State) : AnswerKeeps s (execFrameIdle p fr s) := keeps_receive fun u => .refl u

theorem keeps_execFrameManagement (p : Nat) (fr : Frame) (s : State) : AnswerKeeps s (execFrameManagement p fr s) :=
  keeps_receive fun u => .refl u

theorem keeps_retransmit (s : State) (p : Nat) : Keeps s (s.retransmit p) := .foldl _ (fun _ _ => keeps_send ..) _ _

theorem keeps_execFrameNak (p : Nat) (fr : Frame) (s : State) : AnswerKeeps s (execFrameNak p fr s) :=
  keeps_receive fun _ => keeps_retransmit ..

theorem keeps_execPortKeyUpdate (p : Nat) (s : State) : AnswerKeeps s (execPortKeyUpdate p s) :=
  .unit (.ite (.refl _) (.ite (keeps_portDown ..) (.ite (.refl _) (keeps_sendFrame ..))))

theorem keeps_winRun {op : Nat} {w : Word} {body : State → Nat → Nat → State × Nat} (hb : ∀ u m i, Keeps u (body u m i).1) :
    AnswerKeeps s (winRun op w s body) := by
  unfold winRun
  extract_lets done
  have hdone : ∀ r : State × Nat, Keeps s r.1 → Keeps s (done r) := fun _ h => h.trans (keeps_update ..)
  exact .next (.ite (.refl s) (.ite (hdone _ (.refl s)) (hdone _ (hb ..))))

theorem keeps_putWindow (s : State) (m i : Nat) (w : Win) : Keeps s (s.putWindow m i w) := keeps_update ..

theorem keeps_execWindowCreate (w : Word) (s : State) : AnswerKeeps s (execWindowCreate w s) := by
  unfold execWindowCreate
  refine keeps_winRun fun s _ _ => ?_
  extract_lets _ _ _ s1
  have h1 : Keeps s s1 := keeps_putWindow ..
  split
  · exact .refl _
  · split
    · exact .refl _
    · split
      · exact .refl _
      · exact h1.trans (.foldl _ (fun _ _ => keeps_noticeEpoch ..) _ _)

theorem keeps_execWindowDelete (w : Word) (s : State) : AnswerKeeps s (execWindowDelete w s) := by
  unfold execWindowDelete
  refine keeps_winRun fun s _ _ => ?_
  split
  · exact .refl _
  · exact keeps_putWindow ..

theorem keeps_execFabricIdProvision (id : Nat) (peers : List Nat) (s : State) : AnswerKeeps s (execFabricIdProvision id peers s) :=
  .next (.ite (keeps_update ..) (.refl _))

theorem keeps_setPair (s : State) (k : Nat) (x : Pair) : Keeps s (s.setPair k x) := keeps_update ..

theorem keeps_losePair (s : State) (k : Nat) : Keeps s (s.losePair k) :=
  ((keeps_setPair ..).trans (keeps_raiseAlert ..)).trans ((Keeps.ite (keeps_update ..) (.refl _)).trans
    (.ite (keeps_report ..) (.foldl _ (fun _ _ => keeps_report ..) _ _)))

theorem keeps_execPairLost (pair : Nat) (s : State) : AnswerKeeps s (execPairLost pair s) := .unit (.ite (keeps_losePair ..) (.refl _))

theorem keeps_execD2dModuleFail (pair m : Nat) (s : State) : AnswerKeeps s (execD2dModuleFail pair m s) :=
  .unit (.ite (.refl _) (.ite (keeps_losePair ..) (keeps_setPair ..)))

theorem keeps_execD2dCrcFail (pair m lane retries : Nat) (s : State) : AnswerKeeps s (execD2dCrcFail pair m lane retries s) :=
  .unit (.ite (.refl _) (.ite (keeps_setPair ..) (.ite (keeps_setPair ..) (keeps_setPair ..))))

theorem keeps_guestDone (s : State) (width : Nat) (wr : Bool) (v : Nat) : Keeps s (s.guestDone width wr v) := .ite (.refl _) (keeps_send ..)

theorem keeps_execGuestWindowAccess (off : Nat) (a : HostAcc) (wr : Bool) (v : Nat) (resp : Option Nat) (s : State) :
    AnswerKeeps s (execGuestWindowAccess off a wr v resp s) := by
  unfold execGuestWindowAccess
  refine .next ?_
  extract_lets s1
  have h1 : Keeps s s1 := keeps_send ..
  refine .ite (.refl _) (.ite (keeps_send ..) (.ite ((keeps_accessFault ..).trans (keeps_send ..))
    (.ite (.ite (keeps_accessFault ..) (keeps_guestDone ..)) ?_)))
  split
  · exact h1.trans (keeps_guestDone ..)
  · exact h1.trans (keeps_update ..)

theorem keeps_execGuestTimeout (s : State) : AnswerKeeps s (execGuestTimeout s) := by
  unfold execGuestTimeout
  refine .next ?_
  extract_lets
  split
  · exact .refl _
  · exact .ite (.refl _) ((keeps_update ..).trans (keeps_guestDone ..))

theorem keeps_execGuestRequest (da len : Nat) (op : GuestOp) (d : Bytes) (s : State) : AnswerKeeps s (execGuestRequest da len op d s) := by
  unfold execGuestRequest
  refine .next ?_
  extract_lets
  refine .ite (.refl _) ?_
  split
  · exact keeps_send ..
  · refine .ite (.ite (keeps_send ..) (.ite ((keeps_hostWrite ..).trans (keeps_send ..))
      (.ite (.refl _) (.foldl _ (fun _ _ => (keeps_hostRead ..).trans (keeps_update ..)) _ _)))) (.ite (.refl _) (.ite ?_ ?_))
    · split
      · rename_i s1 he
        have h1 := Keeps.fst he (keeps_dmaWrite ..)
        exact h1.trans (keeps_send ..)
      · rename_i s2 _ he
        have h2 := Keeps.fst he (keeps_dmaWrite ..)
        exact h2.trans (keeps_send ..)
    · split
      · rename_i s3 _ he
        have h3 := Keeps.fst he (keeps_dmaRead ..)
        exact h3.trans (keeps_send ..)
      · rename_i s4 _ _ he
        have h4 := Keeps.fst he (keeps_dmaRead ..)
        exact h4.trans (keeps_send ..)

/-! Sensors, forecasts, clocks and half-mast (R37, R39, R185, R193, R240, R455 to R476) -/

theorem keeps_setSpot (s : State) (k : Nat) (x : Spot) : Keeps s (s.setSpot k x) := keeps_update ..

theorem keeps_setSens (s : State) (k : Nat) (x : Sens) : Keeps s (s.setSens k x) := keeps_update ..

theorem keeps_coolantAlert (s : State) : Keeps s s.coolantAlert := .ite (.ite (.refl _) (keeps_raiseAlert ..)) (keeps_alertOff ..)

theorem keeps_thermalShutdown (s : State) (dram : Bool) (site temp : Nat) : Keeps s (s.thermalShutdown dram site temp) := by
  refine .ite (.refl s) ?_
  extract_lets _ _ _ _ _ _ _ _ _ _ s1 s2
  have h1 : Keeps s s1 := ⟨rfl, fun _ => rfl, fun _ => rfl, fun _ => rfl⟩
  have h2 : Keeps s s2 := .ite (h1.trans (keeps_raiseAlert ..)) h1
  exact ((h2.trans (keeps_raiseAlert ..)).trans (keeps_coolantAlert ..)).trans (keeps_report ..)

theorem keeps_execThermalTrip (site : Nat) (dram : Bool) (temp : Nat) (s : State) : AnswerKeeps s (execThermalTrip site dram temp s) :=
  .unit (.ite (.refl _) (keeps_thermalShutdown ..))

theorem keeps_sensorFault (s : State) (count : Bool) : Keeps s (s.sensorFault count) :=
  (Keeps.ite (keeps_update ..) (.refl _)).trans (keeps_report ..)

theorem keeps_readSens (s : State) (k : Nat) (r : Option Nat) : Keeps s (s.readSens k r) :=
  .ite (.refl _) (.ite ((keeps_setSens ..).trans (keeps_sensorFault ..)) (.ite (.refl _) (keeps_setSens ..)))

theorem keeps_tripAny (s : State) (l : List (Nat × Option Nat)) : Keeps s (s.tripAny l) := by
  unfold State.tripAny
  split
  · exact keeps_thermalShutdown ..
  · exact .refl _

theorem keeps_readAll (s : State) (l : List (Nat × Option Nat)) : Keeps s (s.readAll l) :=
  (Keeps.foldl _ (fun _ _ => keeps_readSens ..) _ _).trans (keeps_tripAny ..)

theorem keeps_endViaRound (s : State) (d : Nat) : Keeps s (s.endViaRound d) := keeps_update ..

theorem keeps_upsetScratch (s : State) (d : Nat) (l : List (Nat × Nat × Bool)) : Keeps s (s.upsetScratch d l) :=
  .foldl _ (fun _ _ => .ite (keeps_scratchUpset ..) (.refl _)) _ _

theorem keeps_execDieHousekeepingRound (d : Nat) (r : DieRound) (s : State) : AnswerKeeps s (execDieHousekeepingRound d r s) :=
  .unit (.ite (.refl _) (((keeps_endViaRound ..).trans (keeps_upsetScratch ..)).trans
    (.ite ((keeps_update ..).trans (keeps_readAll ..)) (keeps_tripAny ..))))

theorem keeps_stepPair (s : State) (k e : Nat) : Keeps s (s.stepPair k e).1 :=
  ((keeps_setSens ..).trans (keeps_setSens ..)).trans (.ite (keeps_sensorFault ..) (.refl _))

theorem keeps_stepDram (s : State) (k e : Nat) : Keeps s (s.stepDram k e).1 := by
  unfold State.stepDram
  extract_lets _ _ _ _ s1
  have h1 : Keeps s s1 := keeps_setSens ..
  split
  · exact keeps_setSens ..
  · split
    · exact (keeps_setSens ..).trans (keeps_sensorFault ..)
    · exact .ite (h1.trans (keeps_sensorFault ..)) h1

theorem keeps_stepSpot (s : State) (r : HubRound) (dead : Bool) (k : Nat) : Keeps s (s.stepSpot r dead k) := by
  unfold State.stepSpot
  extract_lets e
  split
  rename_i s1 t he
  have h1 : Keeps s s1 := by
    split at he
    · cases he
      exact .refl s
    split at he
    · exact .fst he (keeps_stepDram ..)
    · exact .fst he (keeps_stepPair ..)
  exact h1.trans (keeps_setSpot ..)

theorem keeps_noteMissing (s : State) (r : HubRound) : Keeps s (s.noteMissing r) := keeps_update ..

theorem keeps_setBands (s : State) (h : Nat) : Keeps s (s.setBands h) := keeps_update ..

theorem keeps_formFlow (s : State) : Keeps s s.formFlow := keeps_update ..

theorem keeps_formFlowLow (s : State) : Keeps s s.formFlowLow := (keeps_update ..).trans (keeps_coolantAlert ..)

theorem keeps_execTachFactorSet (factor : Nat) (s : State) : AnswerKeeps s (execTachFactorSet factor s) :=
  .next (.ite (.refl _) (keeps_update ..))

theorem keeps_execFlowTachEdge (gap : Nat) (s : State) : AnswerKeeps s (execFlowTachEdge gap s) :=
  .next (.ite (.refl _) ((keeps_update ..).trans (keeps_formFlow ..)))

theorem keeps_setDip (s : State) (h d : Nat) : Keeps s (s.setDip h d) := keeps_setClu ..

theorem keeps_setLimits (s : State) (h n : Nat) : Keeps s (s.setLimits h n) := keeps_update ..

theorem keeps_takeClock (s : State) (h : Nat) : Keeps s (s.takeClock h) := .ite (.refl _) ((keeps_setClu ..).trans (keeps_setLimits ..))

theorem keeps_execClockChange (h : Nat) (s : State) : AnswerKeeps s (execClockChange h s) := .unit (.ite (keeps_takeClock ..) (.refl _))

theorem keeps_dipRound (s : State) (r : HubRound) : Keeps s (s.dipRound r) :=
  (Keeps.foldl _ (fun _ _ => .ite (.refl _) (keeps_setDip ..)) _ _).trans (.ite (keeps_update ..) (.refl _))

theorem keeps_formPwrState (s : State) : Keeps s s.formPwrState := .ite (keeps_update ..) (.refl _)

theorem keeps_enterEmergency (s : State) : Keeps s s.enterEmergency :=
  (Keeps.foldl _ (fun _ _ => keeps_setDip ..) _ _).trans ((keeps_update ..).trans ((keeps_update ..).trans (keeps_coolantAlert ..)))

theorem keeps_execEmergencyEnd (s : State) : AnswerKeeps s (execEmergencyEnd s) :=
  .next (.ite ((keeps_update ..).trans (keeps_coolantAlert ..)) (.refl _))

theorem keeps_readWater (s : State) (r : HubRound) : Keeps s (s.readWater r) :=
  ((keeps_readSens ..).trans (keeps_readSens ..)).trans (keeps_update ..)

theorem keeps_readInput (s : State) (r : HubRound) : Keeps s (s.readInput r) := keeps_update ..

theorem keeps_tripRound (s : State) (r : HubRound) (keys : List Nat) : Keeps s (s.tripRound r keys) := by
  unfold State.tripRound
  split
  · exact keeps_thermalShutdown ..
  · exact .ite (keeps_thermalShutdown ..) (.refl _)

theorem keeps_actOnHeat (s : State) (r : HubRound) (keys : List Nat) : Keeps s (s.actOnHeat r keys) :=
  (keeps_tripRound ..).trans (.ite (.refl _) ((keeps_update ..).trans
    ((Keeps.ite (.refl _) (.ite (keeps_enterEmergency ..) (keeps_dipRound ..))).trans (keeps_formPwrState ..))))

theorem keeps_execHubRound (r : HubRound) (s : State) : AnswerKeeps s (execHubRound r s) :=
  .next (.ite (.refl _) (((keeps_readWater ..).trans (keeps_readInput ..)).trans
    ((keeps_readAll ..).trans ((Keeps.ite (.foldl _ (fun _ _ => keeps_readAll ..) _ _) (.refl _)).trans
      (.ite (.refl _) ((keeps_noteMissing ..).trans ((Keeps.foldl _ (fun _ _ => keeps_stepSpot ..) _ _).trans
        ((Keeps.foldl _ (fun _ _ => keeps_setBands ..) _ _).trans
          (((keeps_formFlow ..).trans (keeps_formFlowLow ..)).trans ((keeps_update ..).trans (keeps_actOnHeat ..)))))))))))

theorem keeps_updateCap (s : State) : Keeps s s.updateCap := (keeps_update ..).trans ((keeps_update ..).trans (keeps_coolantAlert ..))

theorem keeps_execCapUpdate (s : State) : AnswerKeeps s (execCapUpdate s) := .next (.ite (keeps_updateCap ..) (.refl _))

theorem keeps_execOvercurrentClamp (s : State) : AnswerKeeps s (execOvercurrentClamp s) :=
  .next (.ite (.refl _) ((Keeps.foldl _ (fun _ _ => (keeps_setDip ..).trans (keeps_takeClock ..)) _ _).trans
    ((keeps_update ..).trans (keeps_formPwrState ..))))

theorem keeps_setCoreClock (s : State) (h : Nat) (on : Bool) : Keeps s (s.setCoreClock h on) :=
  .ite ((keeps_setClu ..).trans (keeps_setLimits ..)) (keeps_setClu ..)

theorem keeps_setDieClocks (s : State) (d : Nat) (on : Bool) : Keeps s (s.setDieClocks d on) :=
  .foldl _ (fun _ _ => keeps_setCoreClock ..) _ _

theorem keeps_lockDie (s : State) (d : Nat) : Keeps s (s.lockDie d) :=
  (keeps_setDie ..).trans ((keeps_update ..).trans (keeps_setDieClocks ..))

theorem keeps_stopDie (s : State) (d : Nat) : Keeps s (s.stopDie d) := (keeps_setDie ..).trans (keeps_setDieClocks ..)

theorem keeps_execHubPllLoss (s : State) : AnswerKeeps s (execHubPllLoss s) :=
  .next (.ite (.refl _) (((keeps_update ..).trans (keeps_raiseAlert ..)).trans (keeps_report ..)))

theorem keeps_startHalfMast (s : State) : Keeps s s.startHalfMast := .ite (keeps_update ..) (.refl _)

theorem keeps_execHalfMastEntry (pldm : Bool) (s : State) : AnswerKeeps s (execHalfMastEntry pldm s) :=
  .next (.ite (keeps_startHalfMast ..) (.refl _))

theorem keeps_execHalfMastDrained (s : State) : AnswerKeeps s (execHalfMastDrained s) :=
  .next (.ite (.refl _) ((Keeps.foldl _ (fun _ _ => keeps_flushNow ..) _ _).trans
    ((keeps_update ..).trans ((Keeps.foldl _ (fun _ _ => keeps_stopDie ..) _ _).trans (keeps_update ..)))))

theorem keeps_leaveHalfMast (s : State) : Keeps s s.leaveHalfMast :=
  (keeps_update ..).trans (.ite (.refl _) ((keeps_update ..).trans
    ((Keeps.foldl _ (fun _ _ => keeps_lockDie ..) _ _).trans (.foldl _ (fun _ _ => keeps_recal ..) _ _))))

theorem keeps_execHalfMastExit (pldm : Bool) (s : State) : AnswerKeeps s (execHalfMastExit pldm s) :=
  .next (.ite (keeps_leaveHalfMast ..) (.refl _))

theorem keeps_execD3hotEntry (s : State) : AnswerKeeps s (execD3hotEntry s) :=
  .next (.ite ((keeps_update ..).trans (keeps_startHalfMast ..)) (.refl _))

theorem keeps_toD0 (s : State) : Keeps s s.toD0 := keeps_update ..

theorem keeps_execD0Return (s : State) : AnswerKeeps s (execD0Return s) :=
  .next (.ite (.refl _) (.ite ((keeps_toD0 ..).trans (keeps_leaveHalfMast ..)) (keeps_toD0 ..)))

theorem keeps_execFlrFunction0 (s : State) : AnswerKeeps s (execFlrFunction0 s) :=
  .next (.ite (.refl _) ((Keeps.foldl _ (fun _ _ => keeps_retireJob ..) _ _).trans
    ((Keeps.foldl _ (fun _ _ => keeps_destroyQueue ..) _ _).trans
      ((Keeps.foldl _ (fun _ _ => keeps_disableChannel ..) _ _).trans
        ((keeps_clearConfig ..).trans (.ite ((keeps_toD0 ..).trans (keeps_leaveHalfMast ..)) (keeps_toD0 ..)))))))

theorem keeps_execFlrFunction1 (s : State) : AnswerKeeps s (execFlrFunction1 s) := .next (.ite (keeps_clearConfig ..) (.refl _))

/-! Input power, bring-up and the mailbox (R17, R434 to R453, R507, R516) -/

theorem keeps_setSlot (s : State) (n : Nat) (x : SlotInfo) : Keeps s (s.setSlot n x) := keeps_update ..

theorem keeps_eraseMarker (s : State) (n : Nat) : Keeps s (s.eraseMarker n) := keeps_setSlot ..

theorem keeps_cutMailbox (s : State) : Keeps s s.cutMailbox := by
  unfold State.cutMailbox
  split
  · exact .ite (keeps_eraseMarker ..) (.refl _)
  · exact .refl _

theorem keeps_resetModule (s : State) (latch : Bool) : Keeps s (s.resetModule latch) := by
  unfold State.resetModule
  extract_lets _ r
  have h : Keeps s r := ⟨rfl, fun _ => rfl, fun _ => rfl, fun _ => rfl⟩
  exact .ite ((h.trans (keeps_update ..)).trans (keeps_alertOn ..)) h

theorem keeps_execPerstNAssert (s : State) : AnswerKeeps s (execPerstNAssert s) :=
  .next (.ite (.refl _) ((keeps_cutMailbox ..).trans (keeps_resetModule ..)))

theorem keeps_execHotReset (s : State) : AnswerKeeps s (execHotReset s) :=
  .next (.ite (.refl _) ((keeps_cutMailbox ..).trans (keeps_resetModule ..)))

theorem keeps_execInputLoss (s : State) : AnswerKeeps s (execInputLoss s) :=
  .next (.ite (.refl _) (((keeps_cutMailbox ..).trans (keeps_resetModule ..)).trans (keeps_update ..)))

theorem keeps_execInputRestore (s : State) : AnswerKeeps s (execInputRestore s) := .next (.ite (keeps_update ..) (.refl _))

theorem keeps_trainPairs (s : State) (b : BootIn) : Keeps s (s.trainPairs b) :=
  (keeps_update ..).trans (.ite (.refl _) (.ite (keeps_update ..) (keeps_update ..)))

theorem keeps_lockDies (s : State) (b : BootIn) : Keeps s (s.lockDies b) := keeps_update ..

theorem keeps_reconcile (s : State) (b : BootIn) : Keeps s (s.reconcile b) := keeps_update ..

theorem keeps_placeCopies (s : State) : Keeps s s.placeCopies := (keeps_update ..).trans (.foldl _ (fun _ _ => keeps_reserveBanks ..) _ _)

theorem keeps_bearCores (s : State) (sent : Bool) : Keeps s (s.bearCores sent) := keeps_update ..

theorem keeps_startBunting (s : State) (b : BootIn) : Keeps s (s.startBunting b) := keeps_update ..

theorem keeps_fillStore (s : State) (m : SlotInfo) : Keeps s (s.fillStore m) := by
  refine .foldl _ (fun s c => ?_) _ _
  split
  · exact keeps_mem fun h => twf_tputs _ _ h
  · exact .refl s

theorem keeps_replace (s : State) (p : Nat) : Keeps s (s.replace p) := by
  unfold State.replace
  extract_lets h x
  split
  · exact keeps_setClu ..
  · extract_lets put
    have hput : ∀ q y, Keeps s (put q y) := fun _ _ => (keeps_update ..).trans (keeps_setClu ..)
    split
    · exact hput ..
    · exact hput ..
    · exact (keeps_update ..).trans (keeps_setClu ..)

theorem keeps_replaceFailed (s : State) : Keeps s s.replaceFailed :=
  (Keeps.foldl _ (fun _ _ => keeps_setClu ..) _ _).trans ((Keeps.foldl _ (fun _ _ => keeps_replace ..) _ _).trans
    (.foldl _ (fun _ _ => keeps_replace ..) _ _))

theorem keeps_recordMismatch (s : State) (m : SlotInfo) : Keeps s (s.recordMismatch m) := keeps_update ..

theorem keeps_outcome (s : State) (b : BootIn) (state step cause : Nat) : Keeps s (s.outcome b state step cause) := keeps_update ..

theorem keeps_openModule (s : State) (m : SlotInfo) : Keeps s (s.openModule m) := keeps_update ..

theorem keeps_finishBoot (s : State) (b : BootIn) (m : SlotInfo) : Keeps s (s.finishBoot b m) :=
  (keeps_replaceFailed ..).trans ((Keeps.foldl _ (fun _ _ => keeps_queCopyLost ..) _ _).trans
    ((((keeps_update ..).trans (keeps_bearCores ..)).trans (keeps_recordMismatch ..)).trans
      (.ite ((keeps_outcome ..).trans (keeps_alertOn ..)) ((keeps_openModule ..).trans (keeps_outcome ..)))))

theorem keeps_takeManifest (s : State) (n : Nat) : Keeps s (s.takeManifest n) := keeps_update ..

theorem keeps_bringUp (s : State) (b : BootIn) (n : Nat) : Keeps s (s.bringUp b n) := by
  unfold State.bringUp
  extract_lets s1 _ s2 s3 s4 s5 s6
  have h1 : Keeps s s1 := keeps_takeManifest ..
  have h2 : Keeps s s2 := ((h1.trans (keeps_trainPairs ..)).trans (keeps_lockDies ..)).trans (keeps_reconcile ..)
  have h3 : Keeps s s3 := h2.trans (.foldl _ (fun _ _ => keeps_trainPort ..) _ _)
  have h4 : Keeps s s4 := h3.trans (keeps_placeCopies ..)
  have h5 : Keeps s s5 := h4.trans (keeps_fillStore ..)
  have h6 : Keeps s s6 := (h5.trans (keeps_startBunting ..)).trans (keeps_bearCores ..)
  split
  · exact (h1.trans (keeps_update ..)).trans (keeps_thermalShutdown ..)
  · exact .ite (((h5.trans (keeps_bearCores ..)).trans (keeps_outcome ..)).trans (keeps_alertOn ..))
      (.ite (h6.trans (keeps_finishBoot ..)) (h6.trans (keeps_update ..)))

theorem keeps_recovery (s : State) (b : BootIn) : Keeps s (s.recovery b) := keeps_outcome ..

theorem keeps_execPerstNDeassert (b : BootIn) (s : State) : AnswerKeeps s (execPerstNDeassert b s) := by
  unfold execPerstNDeassert
  refine .next ?_
  extract_lets s1 _ s2
  have h1 : Keeps s s1 := keeps_resetModule ..
  have h2 : Keeps s s2 := h1.trans (keeps_update ..)
  refine .ite (.refl _) (.ite ((h2.trans (keeps_update ..)).trans (keeps_alertOn ..))
    (.ite ((h2.trans (keeps_outcome ..)).trans (keeps_alertOn ..)) ?_))
  split
  · exact h2.trans (keeps_bringUp ..)
  · exact h2.trans (keeps_recovery ..)

theorem keeps_rerequest (s : State) (p block : Nat) (good : Bool) : Keeps s (s.rerequest p block good) := by
  unfold State.rerequest
  extract_lets
  split
  · exact .refl _
  · exact .ite (keeps_update ..) (.ite (keeps_update ..) (keeps_update ..))

theorem keeps_reportRun (s : State) (p : Nat) : Keeps s (s.reportRun p) := by
  unfold State.reportRun
  split
  · exact .ite (.refl _) (keeps_setCore ..)
  · exact .refl _

theorem keeps_execBuntingRerequest (c block : Nat) (good : Bool) (s : State) : AnswerKeeps s (execBuntingRerequest c block good s) := by
  unfold execBuntingRerequest
  refine .unit ?_
  extract_lets s1
  have h1 : Keeps s s1 := (keeps_rerequest ..).trans (keeps_reportRun ..)
  split
  · exact .refl _
  · exact .ite (.refl _) (.ite (h1.trans (keeps_finishBoot ..)) h1)

theorem keeps_leaveOut (s : State) (d : Nat) : Keeps s (s.leaveOut d) :=
  (keeps_update ..).trans (.foldl _ (fun _ _ => keeps_queCopyLost ..) _ _)

theorem keeps_execDiePllLoss (d : Nat) (s : State) : AnswerKeeps s (execDiePllLoss d s) := by
  unfold execDiePllLoss
  refine .unit ?_
  extract_lets _ s1 s2
  have h1 : Keeps s s1 := (keeps_stopDie ..).trans (.foldl _ (fun _ _ => keeps_report ..) _ _)
  have h2 : Keeps s s2 := h1.trans (keeps_leaveOut ..)
  refine .ite (.refl _) ?_
  split
  · exact h1
  · exact .ite (.ite (h2.trans (keeps_finishBoot ..)) h2) (h1.trans (keeps_update ..))

theorem keeps_redoDie (s : State) (b : BootIn) (d : Nat) : Keeps s (s.redoDie b d) := keeps_update ..

theorem keeps_execDiePllRelock (d : Nat) (s : State) : AnswerKeeps s (execDiePllRelock d s) := by
  unfold execDiePllRelock
  refine .unit (.ite ?_ (.refl _))
  split
  · exact (keeps_lockDie ..).trans (keeps_redoDie ..)
  · exact keeps_lockDie ..

theorem keeps_mboxRun {op : Nat} {w : Word} {body : State → Nat → State × Nat} (hb : ∀ u a, Keeps u (body u a).1) :
    AnswerKeeps s (mboxRun op w s body) :=
  .next (.ite (.refl s) (.ite (keeps_update ..) ((hb ..).trans (keeps_update ..))))

theorem keeps_execMboxReadLog (w : Word) (s : State) : AnswerKeeps s (execMboxReadLog w s) := by
  unfold execMboxReadLog
  refine keeps_mboxRun fun s _ => ?_
  extract_lets
  split
  · exact .refl _
  · exact keeps_update ..

theorem keeps_execMboxStage (w : Word) (slot : SlotInfo) (s : State) : AnswerKeeps s (execMboxStage w slot s) := by
  unfold execMboxStage
  refine keeps_mboxRun fun s _ => ?_
  extract_lets _ _ _ _ s1
  have h1 : Keeps s s1 := .ite (keeps_update ..) (.refl _)
  split
  · exact .refl _
  · exact h1.trans (keeps_setSlot ..)

theorem keeps_execMboxCommit (x : FlashOp) (s : State) : AnswerKeeps s (execMboxCommit x s) := by
  unfold execMboxCommit
  refine keeps_mboxRun fun s _ => ?_
  extract_lets
  split
  · exact .refl _
  · split
    · exact .refl _
    · split
      · exact .refl _
      · split
        · exact keeps_eraseMarker ..
        · exact keeps_setSlot ..

theorem keeps_execMboxAbort (x : FlashOp) (s : State) : AnswerKeeps s (execMboxAbort x s) := by
  unfold execMboxAbort
  refine keeps_mboxRun fun s _ => ?_
  split
  · exact .refl _
  · exact keeps_eraseMarker ..

/-! Matrix class (R78 to R95, R148 to R151) -/

theorem keeps_execMldw (c : Nat) (f : BitVec 56) (s : State) : AnswerKeeps s (execMldw c f s) := by
  unfold execMldw
  refine .core fun s x => ?_
  extract_lets
  refine keeps_legal (.ite trivial (.ite (keeps_setCore ..) ?_))
  split
  · exact Keeps.refl _
  · exact trivial
  · exact keeps_setCore ..

theorem keeps_loadBlock (s : State) (c p q u seq : Nat) : OptKeeps Prod.fst s (s.loadBlock c p q u seq) := by
  unfold State.loadBlock
  refine .ite .none ?_
  split
  · rename_i s1 _ he
    have h1 := Keeps.fst he (keeps_readUnits ..)
    exact .some (h1.trans (keeps_setCore ..))
  · rename_i s2 _ _ he
    have h2 := Keeps.fst he (keeps_readUnits ..)
    exact .some ((h2.trans (keeps_setCore ..)).trans (keeps_imprecise ..))

theorem keeps_execBlockShiftStart (c : Nat) (s : State) : AnswerKeeps s (execBlockShiftStart c s) := by
  unfold execBlockShiftStart
  extract_lets
  refine .unit (.ite (.refl _) ?_)
  split
  · split
    · rename_i s1 _ he
      have h1 : Keeps s s1 := OptKeeps.of_eq he (keeps_loadBlock ..)
      exact h1.trans (keeps_setCore ..)
    · exact .refl _
  · exact .refl _
  · refine .ite (.refl _) ?_
    split
    · exact keeps_setCore ..
    · split
      · exact .refl _
      · rename_i s2 _ he
        have h2 : Keeps s s2 := OptKeeps.of_eq he (keeps_loadBlock ..)
        exact h2.trans (keeps_setCore ..)
      · rename_i s3 he
        have h3 : Keeps s s3 := OptKeeps.of_eq he (keeps_loadBlock ..)
        exact (h3.trans (keeps_freeBytes ..)).trans (keeps_setCore ..)

theorem keeps_execMop (c : Nat) (f : BitVec 56) (s : State) : AnswerKeeps s (execMop c f s) := by
  refine .core fun s x => keeps_legal (Ir.Keeps.ite (keeps_setCore ..) (Ir.Keeps.ite trivial ?_))
  split
  · exact Keeps.refl s
  · exact Ir.Keeps.ite (Keeps.refl s) (Ir.Keeps.ite trivial (Ir.Keeps.ite trivial (keeps_setCore ..)))

theorem keeps_arrayFault (s : State) (c k : Nat) (op : ArrOp) (cause addr : Nat) : Keeps s (s.arrayFault c k op cause addr) :=
  (keeps_setCore ..).trans (keeps_imprecise ..)

theorem keeps_rowBytes (s : State) (c p : Nat) (op : ArrOp) (i : Nat) : Keeps s (s.rowBytes c p op i).1 := by
  unfold State.rowBytes
  split
  · exact .refl _
  · exact keeps_readUnits ..

theorem keeps_enterRow (s : State) (c k : Nat) (op : ArrOp) (img : Bytes) (flt : RowFault) : Keeps s (s.enterRow c k op img flt) := by
  unfold State.enterRow
  extract_lets _ _ _ _ _ _ _ _ _ s1
  have h1 : Keeps s s1 := keeps_setCtx ..
  split
  · extract_lets
    split
    rename_i s2 he
    have h2 : Keeps s s2 := by
      split at he
      · cases he
        exact h1.trans ((keeps_free ..).trans (keeps_free ..))
      · cases he
        exact h1
    extract_lets bad
    clear_value bad
    cases bad with
    | none => exact h2.trans (keeps_setCore ..)
    | some e => exact h2.trans (((keeps_free ..).trans (keeps_setCore ..)).trans (keeps_imprecise ..))
  · exact .refl s

theorem keeps_execArrayRowEnter (c k : Nat) (flt : RowFault) (s : State) : AnswerKeeps s (execArrayRowEnter c k flt s) := by
  unfold execArrayRowEnter
  extract_lets
  refine .unit ?_
  split
  · refine .ite (.refl _) (.ite (keeps_setCore ..) (.ite (.refl _) ?_))
    split
    · refine .ite (.refl _) ?_
      split
      · rename_i s1 _ _ he
        have h1 := Keeps.fst he (keeps_rowBytes ..)
        exact (h1.trans (keeps_setCore ..)).trans (keeps_arrayFault ..)
      · rename_i s2 _ he
        have h2 := Keeps.fst he (keeps_rowBytes ..)
        exact (h2.trans (keeps_setCore ..)).trans (keeps_enterRow ..)
    · split
      · rename_i s3 _ he
        have h3 := Keeps.fst he (keeps_rowBytes ..)
        exact h3.trans (keeps_enterRow ..)
      · rename_i he
        exact Keeps.fst he (keeps_rowBytes ..)
  · exact .refl _

theorem keeps_execMrd (c : Nat) (f : BitVec 56) (s : State) : AnswerKeeps s (execMrd c f s) :=
  .core fun _ _ => keeps_legal (.ite trivial (keeps_doneV ..))

theorem keeps_execMclr (c : Nat) (f : BitVec 56) (s : State) : AnswerKeeps s (execMclr c f s) := by
  unfold execMclr
  refine .core fun s x => ?_
  extract_lets
  exact keeps_legal (.ite trivial (keeps_setCore ..))

/-! The sealed meter board and its mirror (R495 to R503) -/

theorem keeps_setMeter (s : State) (m : Meter) : Keeps s (s.setMeter m) := keeps_update ..

theorem keeps_meterTime (s : State) : Keeps s s.meterTime := (keeps_free ..).trans (keeps_setMeter ..)

theorem keeps_issueRecord (s : State) (typ : Nat) (nonce : Bytes) : Keeps s (s.issueRecord typ nonce) := keeps_setMeter ..

theorem keeps_meterEvent (s : State) : Keeps s s.meterEvent := ((keeps_free ..).trans (keeps_setMeter ..)).trans (keeps_issueRecord ..)

theorem keeps_execIntervalRecord (s : State) : AnswerKeeps s (execIntervalRecord s) :=
  .next (.ite (.refl _) ((keeps_setMeter ..).trans (keeps_issueRecord ..)))

theorem keeps_execCoverOpening (s : State) : AnswerKeeps s (execCoverOpening s) :=
  .next ((keeps_setMeter ..).trans (.ite (.refl _) ((keeps_meterTime ..).trans (keeps_meterEvent ..))))

theorem keeps_meterDown (s : State) : Keeps s s.meterDown :=
  .ite (.refl _) ((((keeps_setMeter ..).trans (keeps_meterTime ..)).trans (keeps_meterEvent ..)).trans (keeps_setMeter ..))

theorem keeps_meterUp (s : State) : Keeps s s.meterUp :=
  .ite (((keeps_setMeter ..).trans (.foldl _ (fun _ _ => keeps_meterEvent ..) _ _)).trans (keeps_meterEvent ..)) (.refl _)

theorem keeps_execMeterSupplyEvent (e : MeterSupply) (s : State) : AnswerKeeps s (execMeterSupplyEvent e s) := by
  unfold execMeterSupplyEvent
  refine .next ?_
  extract_lets s1
  have h1 : Keeps s s1 := keeps_meterDown ..
  split
  · exact keeps_meterDown ..
  · exact .ite (keeps_meterUp ..) (.refl _)
  · exact .ite (h1.trans (keeps_update ..)) (.refl _)
  · exact .ite ((keeps_setMeter ..).trans (keeps_update ..)) (.refl _)

theorem keeps_execEnergyStore (mwh : Nat) (s : State) : AnswerKeeps s (execEnergyStore mwh s) := .next (.ite (.refl _) (keeps_setMeter ..))

theorem keeps_askMeter (s : State) (kind arg : Nat) : Keeps s (s.askMeter kind arg) := .ite (keeps_send ..) (.refl _)

theorem keeps_meterAlerts (s : State) : Keeps s s.meterAlerts :=
  (Keeps.ite (.ite (.refl _) (keeps_raiseAlert ..)) (keeps_alertOff ..)).trans
    (.ite (.ite (.refl _) (keeps_raiseAlert ..)) (keeps_alertOff ..))

theorem keeps_meterMeasures (s : State) (m : MeterState) : Keeps s (s.meterMeasures m) := keeps_setMeter ..

theorem keeps_execMeterReadState (m : MeterState) (s : State) : AnswerKeeps s (execMeterReadState m s) :=
  .next (.ite (.refl _) ((keeps_askMeter ..).trans (.ite (.refl _)
    ((keeps_meterMeasures ..).trans ((keeps_update ..).trans (keeps_meterAlerts ..))))))

theorem keeps_execMeterLost (s : State) : AnswerKeeps s (execMeterLost s) :=
  .next (.ite (.refl _) ((keeps_update ..).trans (keeps_meterAlerts ..)))

theorem keeps_execMeterReadRecord (n : Nat) (s : State) : AnswerKeeps s (execMeterReadRecord n s) := by
  unfold execMeterReadRecord
  refine .next ?_
  extract_lets s1
  have h1 : Keeps s s1 := keeps_askMeter ..
  refine .ite (.refl _) ?_
  split
  · exact h1
  · exact .ite ((h1.trans (keeps_update ..)).trans (keeps_send ..)) (h1.trans (keeps_update ..))

theorem keeps_execMeterReadCert (s : State) : AnswerKeeps s (execMeterReadCert s) :=
  .next (.ite (.refl _) ((keeps_askMeter ..).trans (.ite (.refl _) (keeps_update ..))))

theorem keeps_execMeterReadLog (n : Nat) (s : State) : AnswerKeeps s (execMeterReadLog n s) := by
  unfold execMeterReadLog
  refine .next ?_
  extract_lets s1
  have h1 : Keeps s s1 := keeps_askMeter ..
  refine .ite (.refl _) ?_
  split
  · exact h1
  · exact h1.trans (keeps_send ..)

theorem keeps_execMeterDemand (nonce : Bytes) (s : State) : AnswerKeeps s (execMeterDemand nonce s) :=
  .next (.ite (.refl _) (.ite (keeps_send ..) ((keeps_askMeter ..).trans
    (.ite (.refl _) ((keeps_update ..).trans (.ite (.refl _) ((keeps_meterTime ..).trans (keeps_issueRecord ..))))))))

/-! Scalar class and the unassigned words (R117, R118, R126, R127, R129) -/

theorem keeps_execIllegalOpcode (c : Nat) (w : Word) (s : State) : AnswerKeeps s (execIllegalOpcode c w s) :=
  .core fun _ _ => Keeps.refl _

theorem keeps_regOp (c : Nat) (f : BitVec 56) (op : Nat → Word → Word → Option Word) (s : State) : AnswerKeeps s (regOp c f op s) := by
  unfold regOp
  refine .core fun s x => keeps_legal ?_
  split
  · exact keeps_doneS ..
  · exact Keeps.refl _

theorem keeps_execAlu (c : Nat) (f : BitVec 56) (s : State) : AnswerKeeps s (execAlu c f s) := keeps_regOp ..

theorem keeps_execMul (c : Nat) (f : BitVec 56) (s : State) : AnswerKeeps s (execMul c f s) := keeps_regOp ..

theorem keeps_execDivide (c : Nat) (f : BitVec 56) (s : State) : AnswerKeeps s (execDivide c f s) := keeps_regOp ..

theorem keeps_immOp (c : Nat) (f : BitVec 56) (op : Word → Word → Word) (s : State) : AnswerKeeps s (immOp c f op s) :=
  .core fun _ _ => keeps_legal (keeps_doneS ..)

theorem keeps_execAddi (c : Nat) (f : BitVec 56) (s : State) : AnswerKeeps s (execAddi c f s) := keeps_immOp ..

theorem keeps_execAndi (c : Nat) (f : BitVec 56) (s : State) : AnswerKeeps s (execAndi c f s) := keeps_immOp ..

theorem keeps_execOri (c : Nat) (f : BitVec 56) (s : State) : AnswerKeeps s (execOri c f s) := keeps_immOp ..

theorem keeps_execXori (c : Nat) (f : BitVec 56) (s : State) : AnswerKeeps s (execXori c f s) := keeps_immOp ..

theorem keeps_execShi (c : Nat) (f : BitVec 56) (s : State) : AnswerKeeps s (execShi c f s) := by
  unfold execShi
  refine .core fun s x => keeps_legal ?_
  split
  · exact keeps_doneS ..
  · exact Keeps.refl _

theorem keeps_execSlti (c : Nat) (f : BitVec 56) (s : State) : AnswerKeeps s (execSlti c f s) := keeps_immOp ..

theorem keeps_execSltiu (c : Nat) (f : BitVec 56) (s : State) : AnswerKeeps s (execSltiu c f s) := keeps_immOp ..

theorem keeps_execLi (c : Nat) (f : BitVec 56) (s : State) : AnswerKeeps s (execLi c f s) := .core fun _ _ => keeps_legal (keeps_doneS ..)

theorem keeps_execLiu (c : Nat) (f : BitVec 56) (s : State) : AnswerKeeps s (execLiu c f s) := .core fun _ _ => keeps_legal (keeps_doneS ..)

theorem keeps_execLih (c : Nat) (f : BitVec 56) (s : State) : AnswerKeeps s (execLih c f s) := .core fun _ _ => keeps_legal (keeps_doneS ..)

theorem keeps_execPred (c : Nat) (f : BitVec 56) (s : State) : AnswerKeeps s (execPred c f s) := by
  unfold execPred
  refine .core fun s x => ?_
  extract_lets
  refine keeps_legal ?_
  split
  · exact keeps_legal (keeps_doneS ..)
  · exact keeps_legal (keeps_setCore ..)
  · exact keeps_legal (keeps_setCore ..)

/-! Contexts (R406 to R421, R431 to R433, R532) -/

theorem keeps_secRun {op : Nat} {w : Word} {body : State → State × Nat} (hb : ∀ u, Keeps u (body u).1) :
    AnswerKeeps s (secRun op w s body) := by
  unfold secRun
  extract_lets done
  have hdone : ∀ r : State × Nat, Keeps s r.1 → Keeps s (done r) := fun _ h => h.trans (keeps_update ..)
  exact .next (.ite (.refl s) (.ite (keeps_update ..) (.ite (hdone _ (.refl s)) (.ite (hdone _ (.refl s))
    (.ite (hdone _ (.refl s)) (hdone _ (hb ..)))))))

theorem keeps_drawKey (s : State) : Keeps s s.drawKey.2 := keeps_update ..

theorem keeps_execCtxCreate (w : Word) (s : State) : AnswerKeeps s (execCtxCreate w s) := by
  unfold execCtxCreate
  extract_lets
  refine keeps_secRun fun s => ?_
  split
  · exact .refl _
  · exact ((keeps_drawKey ..).trans (keeps_update ..)).trans (keeps_setCtx ..)

theorem keeps_execBankGrant (w : Word) (s : State) : AnswerKeeps s (execBankGrant w s) := by
  unfold execBankGrant
  refine keeps_secRun fun s => ?_
  extract_lets
  split
  · exact .refl _
  · split
    · exact .refl _
    · split
      · exact .refl _
      · exact keeps_update ..

theorem keeps_execLowerHost (w : Word) (s : State) : AnswerKeeps s (execLowerHost w s) := by
  unfold execLowerHost
  refine keeps_secRun fun s => ?_
  extract_lets
  split
  · exact .refl _
  · split
    · exact .refl _
    · exact keeps_update ..

theorem keeps_revokeBank (s : State) (k : Nat) : Keeps s (s.revokeBank k) := by
  unfold State.revokeBank
  extract_lets s1
  have h1 : Keeps s s1 := by
    unfold s1
    split
    · exact keeps_zeroBank ..
    · exact .refl _
  exact h1.trans (keeps_update ..)

theorem keeps_execBankRevoke (w : Word) (s : State) : AnswerKeeps s (execBankRevoke w s) := by
  unfold execBankRevoke
  extract_lets
  refine .ite (.next (.refl _)) (keeps_secRun fun s => ?_)
  extract_lets _ _ _ s1
  have h1 : Keeps s s1 := .foldl _ (fun _ _ => keeps_revokeBank ..) _ _
  split
  · exact .refl _
  · split
    · exact .refl _
    · split
      · exact .refl _
      · exact .ite (h1.trans (keeps_setCtx ..)) h1

theorem keeps_execCtxDestroy (w : Word) (s : State) : AnswerKeeps s (execCtxDestroy w s) := by
  unfold execCtxDestroy
  extract_lets
  refine .ite (.next (.refl _)) (keeps_secRun fun s => ?_)
  extract_lets _ s1 _ s2 _ s3 s4
  have h1 : Keeps s s1 := .foldl _ (fun _ _ => keeps_revokeBank ..) _ _
  have h2 : Keeps s s2 := h1.trans (.foldl _ (fun _ _ => keeps_disableChannel ..) _ _)
  have h3 : Keeps s s3 := h2.trans (keeps_update ..)
  have h4 : Keeps s s4 := h3.trans (keeps_update ..)
  split
  · exact .refl _
  · exact h4.trans (keeps_setCtx ..)

theorem keeps_announceKey (s : State) (n kind gen : Nat) : Keeps s (s.announceKey n kind gen) := .foldl _ (fun _ _ => keeps_setJob ..) _ _

theorem keeps_rotateKv (s : State) (n : Nat) : Keeps s (s.rotateKv n).1 := by
  unfold State.rotateKv
  extract_lets
  split
  · exact keeps_update ..
  · exact ((keeps_drawKey ..).trans (keeps_setCtx ..)).trans ((keeps_update ..).trans (keeps_announceKey ..))

theorem keeps_execKvRotate (w : Word) (s : State) : AnswerKeeps s (execKvRotate w s) := by
  unfold execKvRotate
  refine keeps_secRun fun s => ?_
  split
  · rename_i he
    exact Keeps.fst he (keeps_rotateKv ..)
  · rename_i he
    exact Keeps.fst he (keeps_rotateKv ..)

theorem keeps_execPayloadRotation (n : Nat) (s : State) : AnswerKeeps s (execPayloadRotation n s) := by
  unfold execPayloadRotation
  refine .unit ?_
  extract_lets
  split
  · exact .refl _
  · exact .ite (.refl _) ((keeps_setCtx ..).trans (keeps_announceKey ..))

theorem keeps_execJobHold (w : Word) (s : State) : AnswerKeeps s (execJobHold w s) := by
  unfold execJobHold
  extract_lets
  refine keeps_secRun fun s => ?_
  extract_lets
  split
  · exact .refl _
  · exact (Keeps.foldl _ (fun _ _ => keeps_disableChannel ..) _ _).trans (keeps_holdJob ..)

theorem keeps_execJobRelease (w : Word) (s : State) : AnswerKeeps s (execJobRelease w s) := by
  unfold execJobRelease
  extract_lets
  refine keeps_secRun fun s => ?_
  extract_lets _ s1
  have h1 : Keeps s s1 := keeps_setJob ..
  split
  · exact .refl _
  · split
    · exact .refl _
    · exact .ite h1 (h1.trans (keeps_finishRestart ..))

theorem keeps_execCtxPage (w : Word) (s : State) : AnswerKeeps s (execCtxPage w s) := by
  unfold execCtxPage
  extract_lets
  refine keeps_secRun fun s => ?_
  extract_lets
  split
  · exact .refl _
  · exact keeps_setCtx ..

theorem keeps_execCounterPageUpdate (powers : List Nat) (s : State) : AnswerKeeps s (execCounterPageUpdate powers s) := by
  unfold execCounterPageUpdate
  refine .next (.ite (.refl _) (.foldl _ (fun s _ => ?_) _ _))
  extract_lets _ _ _ s1
  have h1 : Keeps s s1 := keeps_setCtx ..
  split
  · exact .refl _
  · exact .ite (.refl _) ((h1.trans (keeps_hubWrite ..)).trans ((keeps_hubWrite ..).trans (keeps_hubWrite ..)))

/-! The serving runtime (R313 to R340, R419) -/

theorem keeps_takeEvent (s : State) (j k : Nat) : OptKeeps Prod.fst s (s.takeEvent j k) := by
  unfold State.takeEvent
  split
  · exact .none
  · extract_lets
    exact .ite .none (.some ((keeps_setCore ..).trans (keeps_returnCredits ..)))

theorem keeps_nextSerial (s : State) (j : Nat) : Keeps s (s.nextSerial j).2 := (keeps_setCtx ..).trans (keeps_setJob ..)

theorem keeps_bumpTrace (s : State) (j k n : Nat) : Keeps s (s.bumpTrace j k n) := by
  unfold State.bumpTrace
  extract_lets
  split
  · exact .ite (.refl _) (keeps_scratchWrite ..)
  · exact .refl _

theorem keeps_refuse (s : State) (j : Nat) (e : Bytes) (status : Nat) : Keeps s (s.refuse j e status) :=
  .ite (keeps_bumpTrace ..) (keeps_setServing ..)

theorem keeps_cancelEntry (s : State) (j : Nat) (e : Bytes) : Keeps s (s.cancelEntry j e) := by
  unfold State.cancelEntry
  extract_lets
  split
  · exact (keeps_setServing ..).trans (keeps_refuse ..)
  · exact keeps_refuse ..

theorem keeps_accept (s : State) (j : Nat) (e d : Bytes) : Keeps s (s.accept j e d) := by
  unfold State.accept
  extract_lets
  split
  · exact keeps_refuse ..
  · exact (keeps_nextSerial ..).trans (keeps_setServing ..)

theorem keeps_takeEntry (s : State) (j : Nat) (e : Bytes) (r : HostReply) : OptKeeps id s (s.takeEntry j e r) := by
  unfold State.takeEntry
  extract_lets _ _ s1
  have h1 : Keeps s s1 := keeps_hostReads ..
  exact .ite (.some (keeps_refuse ..)) (.ite (.some (keeps_refuse ..))
    (.ite (.some (keeps_refuse ..)) (.ite (.some (keeps_cancelEntry ..))
      (.ite (.some (keeps_refuse ..)) (.ite (.some (keeps_refuse ..))
        (.ite (.some (keeps_refuse ..)) (.ite (.some (keeps_refuse ..))
          (.ite .none (.ite (.some (keeps_refuse ..)) (.ite (.some (h1.trans (keeps_accept ..)))
            (.some (h1.trans (keeps_refuse ..)))))))))))))

theorem keeps_visit (j : Nat) (es : List Bytes) : ∀ (s : State) (rs : List HostReply) (b : List Nat), Keeps s (s.visit j es rs b) := by
  induction es with
  | nil => exact fun s _ _ => .refl s
  | cons e es ih =>
    intro s rs b
    unfold State.visit
    split
    · exact .refl s
    · extract_lets _ _ s1 _ s2
      have h2 : Keeps s s2 := (keeps_hostRead ..).trans (keeps_setServing ..)
      refine .ite (.refl s) ?_
      split
      · rename_i he
        exact ((h2.trans (OptKeeps.of_eq he (keeps_takeEntry ..))).trans (keeps_passEntry ..)).trans (ih ..)
      · exact h2.trans (ih ..)

theorem keeps_rebuildCopies (s : State) (j : Nat) : Keeps s (s.rebuildCopies j) := keeps_setServing ..

theorem keeps_execDoorbellEvent (j : Nat) (ciphers : List HostReply) (entries : List Bytes) (s : State) :
    AnswerKeeps s (execDoorbellEvent j ciphers entries s) := by
  unfold execDoorbellEvent
  refine .unit ?_
  extract_lets s1 s2
  have h1 : Keeps s s1 := by
    unfold s1
    split
    · rename_i s3 _ he
      have h3 : Keeps s s3 := OptKeeps.of_eq he (keeps_takeEvent ..)
      exact h3.trans (keeps_setServing ..)
    · exact .refl _
  have h2 : Keeps s s2 := .ite h1 (h1.trans (keeps_rebuildCopies ..))
  exact .ite (.refl _) (.ite h2 ((h2.trans (keeps_tidyPennants ..)).trans (keeps_visit ..)))

theorem keeps_execRestartedEvent (j : Nat) (s : State) : AnswerKeeps s (execRestartedEvent j s) := by
  unfold execRestartedEvent
  refine .unit ?_
  split
  · exact .refl _
  · rename_i s1 _ he
    have h1 : Keeps s s1 := OptKeeps.of_eq he (keeps_takeEvent ..)
    exact (h1.trans (keeps_forgetPennants ..)).trans (keeps_setServing ..)

theorem keeps_execKeyRotatedEvent (j : Nat) (s : State) : AnswerKeeps s (execKeyRotatedEvent j s) := by
  unfold execKeyRotatedEvent
  refine .unit ?_
  split
  · exact .refl _
  · rename_i s1 _ he
    have h1 : Keeps s s1 := OptKeeps.of_eq he (keeps_takeEvent ..)
    exact h1.trans (keeps_setServing ..)

theorem keeps_sharePrefix (s : State) (j : Nat) (x : SReq) : OptKeeps Prod.fst s (s.sharePrefix j x) := by
  refine .ite (.some (.refl s)) (OptKeeps.bind (st := fun _ => s) ⟨fun _ _ => .refl s⟩ fun k => .ite (.some (.refl s)) ?_)
  split
  exact (keeps_shareLists ..).map fun _ => .refl _

theorem keeps_enterPrefix (s : State) (j : Nat) (x : SReq) (ls : List (List Nat)) : OptKeeps id s (s.enterPrefix j x ls) :=
  (keeps_shareLists ..).map fun _ => keeps_setServing ..

theorem keeps_prefillTo (s : State) (j : Nat) (x : SReq) (n : Nat) (kv : List (List Bytes)) :
    OptKeeps Prod.fst s (s.prefillTo j x n kv) :=
  .ite ((keeps_fillSeq ..).bind fun _ => (keeps_enterPrefix ..).bind fun _ => (keeps_fillSeq ..).map fun _ => .refl _)
    ((keeps_fillSeq ..).map fun _ => .refl _)

theorem keeps_claimAll (s : State) (j : Nat) (l : List (KvUnit × Nat)) : Keeps s (s.claimAll j l) :=
  .foldl _ (fun _ _ => keeps_claimOpen ..) _ _

theorem keeps_prefillChunk (s : State) (j i : Nat) (x : SReq) (r : ModelOut) : OptKeeps id s (s.prefillChunk j i x r) :=
  (keeps_sharePrefix ..).bind fun _ => .ite (.some ((keeps_setReq ..).trans (keeps_claimAll ..)))
    ((keeps_prefillTo ..).map fun _ => .ite (.refl _) (.ite (keeps_endReq ..) (keeps_setReq ..)))

theorem keeps_prefill (s : State) (j i : Nat) (x : SReq) (r : ModelOut) : Keeps s (s.prefill j i x r) :=
  (keeps_tidyPennants ..).trans (keeps_withPool (fun _ => keeps_prefillChunk ..) ..)

theorem keeps_execReqGenerate (j i : Nat) (r : ModelOut) (s : State) : AnswerKeeps s (execReqGenerate j i r s) := by
  unfold execReqGenerate
  refine .unit ?_
  split
  · exact .ite (.refl _) (.ite (keeps_endReq ..) (.ite (keeps_prefill ..) (.refl _)))
  · exact .refl _

theorem keeps_execReqPrefill (j i : Nat) (r : ModelOut) (s : State) : AnswerKeeps s (execReqPrefill j i r s) := by
  unfold execReqPrefill
  refine .unit ?_
  split
  · exact .ite (.refl _) (keeps_prefill ..)
  · exact .refl _

theorem keeps_writeOutput (s : State) (j i : Nat) (x : SReq) (out : Bytes) : Keeps s (s.writeOutput j i x out) :=
  .ite (keeps_setReq ..) (.ite (keeps_setReq ..) (((keeps_hostWrite ..).trans (keeps_hostRead ..)).trans (keeps_setReq ..)))

theorem keeps_execReqEmbed (j i : Nat) (r : ModelOut) (s : State) : AnswerKeeps s (execReqEmbed j i r s) := by
  unfold execReqEmbed
  refine .unit ?_
  split
  · exact .ite (.refl _) (keeps_writeOutput ..)
  · exact .refl _

theorem keeps_execReqTile (j i : Nat) (r : ModelOut) (s : State) : AnswerKeeps s (execReqTile j i r s) := by
  unfold execReqTile
  refine .unit ?_
  split
  · exact .ite (.refl _) (keeps_writeOutput ..)
  · exact .refl _

theorem keeps_execReqCancel (j i : Nat) (s : State) : AnswerKeeps s (execReqCancel j i s) := by
  unfold execReqCancel
  refine .unit ?_
  split
  · exact .ite (keeps_endReq ..) (.refl _)
  · exact .refl _

theorem keeps_specStep (s : State) (j i : Nat) (x : SReq) (d : SpecStep) (n : Nat) : Keeps s (s.specStep j i x d n) := by
  refine .ite (keeps_claimAll ..) (keeps_withPool (fun u => (keeps_tentSeq ..).map fun e => .ite (.refl _) ?_) ..)
  extract_lets s1
  have h1 : Keeps e.1 s1 := (keeps_commitSeq ..).trans (keeps_bumpTrace ..)
  exact .ite (keeps_commitSeq ..) (.ite (h1.trans (keeps_endReq ..)) (h1.trans (keeps_setReq ..)))

theorem keeps_execVerificationStep (j i : Nat) (d : SpecStep) (s : State) : AnswerKeeps s (execVerificationStep j i d s) := by
  unfold execVerificationStep
  refine .unit ?_
  split
  · exact .ite ((keeps_tidyPennants ..).trans (keeps_specStep ..)) (.refl _)
  · exact .refl _

theorem keeps_writeEntry (s : State) (q : Nat) (b : Bytes) : Keeps s (s.writeEntry q b).2 := (keeps_hostWrite ..).trans (keeps_hostRead ..)

theorem keeps_postNext (s : State) (j i : Nat) (x : SReq) : Keeps s (s.postNext j i x) := by
  unfold State.postNext
  extract_lets
  split
  · exact .refl _
  · exact .ite (.refl _) (.ite (keeps_setServing ..) ((keeps_writeEntry ..).trans (keeps_setReq ..)))

theorem keeps_postReply (s : State) (j k : Nat) (r : Reply) : Keeps s (s.postReply j k r) :=
  .ite (.refl _) ((keeps_writeEntry ..).trans (keeps_setServing ..))

theorem keeps_execStreamEntryPost (j i : Nat) (s : State) : AnswerKeeps s (execStreamEntryPost j i s) := by
  unfold execStreamEntryPost
  refine .unit ?_
  extract_lets
  refine .ite (.refl _) ?_
  split
  · exact keeps_postNext ..
  · exact keeps_postReply ..
  · exact .refl _

/-! The SPDM responder, tenant sessions and IDE key management (R378, R422 to R430) -/

theorem keeps_setSess (s : State) (i : Nat) (x : Sess) : Keeps s (s.setSess i x) := keeps_update ..

theorem keeps_spdmRun {body : State → State} (hb : ∀ u, Keeps u (body u)) : AnswerKeeps s (spdmRun s body) :=
  .next (.ite (hb s) (.refl s))

theorem keeps_result (s : State) (i r : Nat) (data : Bytes) : Keeps s (s.result i r data) := keeps_send ..

theorem keeps_tenantRun {i : Nat} {body : State → State} (hb : ∀ u, Keeps u (body u)) : AnswerKeeps s (tenantRun i s body) :=
  keeps_spdmRun fun u => .ite (hb u) (keeps_send ..)

theorem keeps_boundRun {i : Nat} {body : State → Nat → State} (hb : ∀ u n, Keeps u (body u n)) :
    AnswerKeeps s (boundRun i s body) := by
  refine keeps_tenantRun fun u => ?_
  split
  · exact hb ..
  · exact keeps_result ..

theorem keeps_execSessionBind (i n creation : Nat) (secret : Bytes) (s : State) :
    AnswerKeeps s (execSessionBind i n creation secret s) := by
  unfold execSessionBind
  extract_lets
  exact keeps_tenantRun fun _ => .ite (keeps_result ..) (.ite (keeps_result ..)
    (((keeps_setCtx ..).trans (keeps_setSess ..)).trans (keeps_result ..)))

theorem keeps_execSessionReport (i : Nat) (s : State) : AnswerKeeps s (execSessionReport i s) := keeps_boundRun fun _ _ => keeps_result ..

theorem keeps_execPayloadSet (i : Nat) (key : Bytes) (s : State) : AnswerKeeps s (execPayloadSet i key s) :=
  keeps_boundRun fun _ _ => .ite (keeps_result ..) (.ite (keeps_result ..)
    (.ite ((keeps_setCtx ..).trans (keeps_result ..)) ((keeps_setCtx ..).trans (keeps_result ..))))

theorem keeps_execPayloadRetire (i : Nat) (s : State) : AnswerKeeps s (execPayloadRetire i s) :=
  keeps_boundRun fun _ _ => (keeps_setCtx ..).trans (keeps_result ..)

theorem keeps_execSessionKvRotate (i : Nat) (s : State) : AnswerKeeps s (execSessionKvRotate i s) := by
  unfold execSessionKvRotate
  refine keeps_boundRun fun s _ => ?_
  split
  · rename_i s1 he
    have h1 := Keeps.fst he (keeps_rotateKv ..)
    exact h1.trans (keeps_result ..)
  · rename_i s2 he
    have h2 := Keeps.fst he (keeps_rotateKv ..)
    exact h2.trans (keeps_result ..)

theorem keeps_execMeasure (i da len : Nat) (s : State) : AnswerKeeps s (execMeasure i da len s) := by
  unfold execMeasure
  extract_lets
  refine keeps_boundRun fun s _ => .ite (keeps_result ..) (.ite (keeps_result ..) ?_)
  split
  · exact keeps_result ..
  · refine .ite (keeps_result ..) ?_
    split
    · rename_i s1 _ he
      have h1 := Keeps.fst he (keeps_readSlice ..)
      exact h1.trans (keeps_result ..)
    · rename_i s2 _ he
      have h2 := Keeps.fst he (keeps_readSlice ..)
      exact h2.trans (keeps_result ..)

theorem keeps_execGetCertificate (off len : Nat) (s : State) : AnswerKeeps s (execGetCertificate off len s) :=
  keeps_spdmRun fun _ => .ite (keeps_send ..) (keeps_send ..)

theorem keeps_signed (s : State) (code : Nat) (nonce data : Bytes) : Keeps s (s.signed code nonce data) := keeps_send ..

theorem keeps_execChallenge (nonce : Bytes) (s : State) : AnswerKeeps s (execChallenge nonce s) := keeps_spdmRun fun _ => keeps_signed ..

theorem keeps_execGetMeasurements (idx : Nat) (nonce : Bytes) (s : State) : AnswerKeeps s (execGetMeasurements idx nonce s) :=
  keeps_spdmRun fun _ => .ite (keeps_signed ..) (.ite (keeps_signed ..) (.ite (keeps_signed ..) (keeps_send ..)))

theorem keeps_execKeyExchange (rootPort : Bool) (req : Bytes) (s : State) : AnswerKeeps s (execKeyExchange rootPort req s) := by
  unfold execKeyExchange
  extract_lets
  refine keeps_spdmRun fun s => ?_
  extract_lets _ s1
  have h1 : Keeps s s1 := keeps_update ..
  split
  · exact keeps_send ..
  · exact (h1.trans (keeps_setSess ..)).trans (keeps_send ..)

theorem keeps_sessRun {i : Nat} {body : State → Sess → State} (hb : ∀ u x, Keeps u (body u x)) : AnswerKeeps s (sessRun i s body) :=
  keeps_tenantRun fun u => hb u _

theorem keeps_execKeyUpdate (i : Nat) (s : State) : AnswerKeeps s (execKeyUpdate i s) :=
  keeps_sessRun fun _ _ => (keeps_setSess ..).trans (keeps_send ..)

theorem keeps_execHeartbeat (i : Nat) (s : State) : AnswerKeeps s (execHeartbeat i s) :=
  keeps_sessRun fun _ _ => (keeps_setSess ..).trans (keeps_send ..)

theorem keeps_execEndSession (i : Nat) (s : State) : AnswerKeeps s (execEndSession i s) :=
  keeps_sessRun fun _ _ => (keeps_setSess ..).trans (keeps_send ..)

theorem keeps_startStream (s : State) (st : Nat) : Keeps s (s.startStream st) := .ite (keeps_update ..) (.refl _)

theorem keeps_stopStream (s : State) (st : Nat) : Keeps s (s.stopStream st) := keeps_update ..

theorem keeps_execIdeKm (i stream : Nat) (op : IdeOp) (s : State) : AnswerKeeps s (execIdeKm i stream op s) := by
  unfold execIdeKm
  refine keeps_sessRun fun s _ => ?_
  extract_lets
  refine .ite (keeps_send ..) (.ite (keeps_send ..) (Keeps.trans ?_ (keeps_send ..)))
  split
  · exact .ite (.refl _) (keeps_update ..)
  · exact keeps_startStream ..
  · exact keeps_stopStream ..

/-! Counters of time, trace records and sync records (R39, R489 to R492, R510) -/

theorem keeps_pass (s : State) (n : Nat) : Keeps s (s.pass n) := .ite (.refl _) (keeps_update ..)

theorem keeps_idle (s : State) : Keeps s s.idle := keeps_pass ..

theorem keeps_counterFrame (s : State) (typ die index : Nat) (payload : Bytes) : Keeps s (s.counterFrame typ die index payload) :=
  .ite (keeps_traceFrame ..) (.ite (keeps_update ..) (.refl _))

theorem keeps_execTraceRecordWrite (d : Nat) (s : State) : AnswerKeeps s (execTraceRecordWrite d s) :=
  .unit (.ite (.refl _) ((keeps_update ..).trans ((Keeps.foldl _ (fun _ _ => keeps_counterFrame ..) _ _).trans
    (.foldl _ (fun _ _ => keeps_counterFrame ..) _ _))))

theorem keeps_execSyncRequest (d transit : Nat) (s : State) : AnswerKeeps s (execSyncRequest d transit s) :=
  .unit (.ite (.refl _) (((keeps_free ..).trans (keeps_pass ..)).trans ((keeps_update ..).trans (keeps_traceFrame ..))))

theorem keeps_execTraceIdle (lane : Nat) (s : State) : AnswerKeeps s (execTraceIdle lane s) := .unit (keeps_traceFrame ..)

/-! Every command -/

/-- A command that answers a next state keeps the queue and the canonical form of the memories. -/
theorem exec_keeps (i : Instr) (s : State) : AnswerKeeps s (exec i s) := by
  cases i with
  | illegalOpcode c w => exact keeps_execIllegalOpcode c w s
  | alu => exact keeps_execAlu ..
  | mul => exact keeps_execMul ..
  | divide => exact keeps_execDivide ..
  | addi => exact keeps_execAddi ..
  | andi => exact keeps_execAndi ..
  | ori => exact keeps_execOri ..
  | xori => exact keeps_execXori ..
  | shi => exact keeps_execShi ..
  | slti => exact keeps_execSlti ..
  | sltiu => exact keeps_execSltiu ..
  | li => exact keeps_execLi ..
  | liu => exact keeps_execLiu ..
  | lih => exact keeps_execLih ..
  | ld => exact keeps_execLd ..
  | st => exact keeps_execSt ..
  | amo => exact keeps_execAmo ..
  | pred => exact keeps_execPred ..
  | vld => exact keeps_execVld ..
  | vst => exact keeps_execVst ..
  | vint => exact keeps_execVint ..
  | vfp => exact keeps_execVfp ..
  | vfma => exact keeps_execVfma ..
  | vfn => exact keeps_execVfn ..
  | vcmp => exact keeps_execVcmp ..
  | vred => exact keeps_execVred ..
  | vperm => exact keeps_execVperm ..
  | vbcast => exact keeps_execVbcast ..
  | vmovs => exact keeps_execVmovs ..
  | vcvt => exact keeps_execVcvt ..
  | vquant => exact keeps_execVquant ..
  | vplane => exact keeps_execVplane ..
  | nop => exact keeps_execNop ..
  | br => exact keeps_execBr ..
  | jal => exact keeps_execJal ..
  | jalr => exact keeps_execJalr ..
  | fence => exact keeps_execFence ..
  | rdctr => exact keeps_execRdctr ..
  | endRole => exact keeps_execEndRole ..
  | sysr => exact keeps_execSysr ..
  | sysw => exact keeps_execSysw ..
  | sclr => exact keeps_execSclr ..
  | ctxset => exact keeps_execCtxset ..
  | uenter => exact keeps_execUenter ..
  | mldw => exact keeps_execMldw ..
  | blockShiftStart => exact keeps_execBlockShiftStart ..
  | mop => exact keeps_execMop ..
  | arrayRowEnter => exact keeps_execArrayRowEnter ..
  | mrd => exact keeps_execMrd ..
  | mclr => exact keeps_execMclr ..
  | qset => exact keeps_execQset ..
  | qget => exact keeps_execQget ..
  | qstart => exact keeps_execQstart ..
  | qtake => exact keeps_execQtake ..
  | qput => exact keeps_execQput ..
  | qcancel => exact keeps_execQcancel ..
  | streamPrefetch => exact keeps_execStreamPrefetch ..
  | streamLineArrive => exact keeps_execStreamLineArrive ..
  | streamWrite => exact keeps_execStreamWrite ..
  | gbind => exact keeps_execGbind ..
  | gsendv => exact keeps_execGsendv ..
  | gsends => exact keeps_execGsends ..
  | grecv => exact keeps_execGrecv ..
  | grecvv => exact keeps_execGrecvv ..
  | gfree => exact keeps_execGfree ..
  | gstat => exact keeps_execGstat ..
  | msgArrive => exact keeps_execMsgArrive ..
  | nackEpoch => exact keeps_execNackEpoch ..
  | creditRelease => exact keeps_execCreditRelease ..
  | creditArrive => exact keeps_execCreditArrive ..
  | nissue => exact keeps_execNissue ..
  | nwait => exact keeps_execNwait ..
  | nstat => exact keeps_execNstat ..
  | impreciseException => exact keeps_execImpreciseException ..
  | managementRequest => exact keeps_execManagementRequest ..
  | bankProgramAdmit => exact keeps_execBankProgramAdmit ..
  | earith | efma | efunc | erope | ecvt | nbRed | nbFold | fop | xop | nbLoop | rowcpy | skey | nbEnd => exact keeps_nbStep ..
  | nbBoundaryService => exact keeps_execNbBoundaryService ..
  | nbPause => exact keeps_execNbPause ..
  | nbResume => exact keeps_execNbResume ..
  | halyardGrant => exact keeps_execHalyardGrant ..
  | correctedWriteback => exact keeps_execCorrectedWriteback ..
  | mergeAgeFlush => exact keeps_execMergeAgeFlush ..
  | sealedWriteConfirm => exact keeps_execSealedWriteConfirm ..
  | refreshDue => exact keeps_execRefreshDue ..
  | refreshOwedIssue => exact keeps_execRefreshOwedIssue ..
  | recalWindow => exact keeps_execRecalWindow ..
  | scrubLine => exact keeps_execScrubLine ..
  | scrubWriteback => exact keeps_execScrubWriteback ..
  | regionMapWrite => exact keeps_execRegionMapWrite ..
  | testModeEnable => exact keeps_execTestModeEnable ..
  | ccAccess => exact keeps_execCcAccess ..
  | ccFill => exact keeps_execCcFill ..
  | ccInvalidate => exact keeps_execCcInvalidate ..
  | ccContextInvalidate => exact keeps_execCcContextInvalidate ..
  | jobPlace => exact keeps_execJobPlace ..
  | jobRetire => exact keeps_execJobRetire ..
  | faultReport => exact keeps_execFaultReport ..
  | jobRestart => exact keeps_execJobRestart ..
  | faultRecordFree => exact keeps_execFaultRecordFree ..
  | segmentFaultNotice => exact keeps_execSegmentFaultNotice ..
  | windowEpochNotice => exact keeps_execWindowEpochNotice ..
  | ctxCreate => exact keeps_execCtxCreate ..
  | ctxDestroy => exact keeps_execCtxDestroy ..
  | bankGrant => exact keeps_execBankGrant ..
  | bankRevoke => exact keeps_execBankRevoke ..
  | lowerHost => exact keeps_execLowerHost ..
  | kvRotate => exact keeps_execKvRotate ..
  | jobHold => exact keeps_execJobHold ..
  | jobRelease => exact keeps_execJobRelease ..
  | ctxPage => exact keeps_execCtxPage ..
  | counterPageUpdate => exact keeps_execCounterPageUpdate ..
  | sessionBind => exact keeps_execSessionBind ..
  | sessionReport => exact keeps_execSessionReport ..
  | payloadSet => exact keeps_execPayloadSet ..
  | payloadRetire => exact keeps_execPayloadRetire ..
  | sessionKvRotate => exact keeps_execSessionKvRotate ..
  | measure => exact keeps_execMeasure ..
  | payloadRotation => exact keeps_execPayloadRotation ..
  | getCertificate => exact keeps_execGetCertificate ..
  | challenge => exact keeps_execChallenge ..
  | getMeasurements => exact keeps_execGetMeasurements ..
  | keyExchange => exact keeps_execKeyExchange ..
  | keyUpdate => exact keeps_execKeyUpdate ..
  | heartbeat => exact keeps_execHeartbeat ..
  | ideKm => exact keeps_execIdeKm ..
  | configRequest => exact keeps_execConfigRequest ..
  | bar2Read => exact keeps_execBar2Read ..
  | bar2Write => exact keeps_execBar2Write ..
  | registerWrite => exact keeps_execRegisterWrite ..
  | function1Write off v => exact keeps_execFunction1Write off v s
  | atomicopRequest bar off => exact keeps_execAtomicopRequest bar off s
  | doorbell => exact keeps_execDoorbell ..
  | queueEventSend => exact keeps_execQueueEventSend ..
  | midxUpdate => exact keeps_execMidxUpdate ..
  | intDelayExpire => exact keeps_execIntDelayExpire ..
  | queCreate => exact keeps_execQueCreate ..
  | queDestroy => exact keeps_execQueDestroy ..
  | queRead => exact keeps_execQueRead ..
  | flrFunction0 => exact keeps_execFlrFunction0 ..
  | flrFunction1 => exact keeps_execFlrFunction1 ..
  | d3hotEntry => exact keeps_execD3hotEntry ..
  | d0Return => exact keeps_execD0Return ..
  | guestWindowAccess => exact keeps_execGuestWindowAccess ..
  | guestTimeout => exact keeps_execGuestTimeout ..
  | guestRequest => exact keeps_execGuestRequest ..
  | dmaCopy | dmaFill | dmaCheck | bandToPlanar | planarToBand | planeSplit | planeMerge | sealPayload | openPayload | pseal | popen |
    prewrap | pdiscard => exact keeps_runOp ..
  | descriptorComplete => exact keeps_execDescriptorComplete ..
  | dmaProdWrite => exact keeps_execDmaProdWrite ..
  | descriptorResume => exact keeps_execDescriptorResume ..
  | channelDisable => exact keeps_execChannelDisable ..
  | channelEnable => exact keeps_execChannelEnable ..
  | crcModeSet => exact keeps_execCrcModeSet ..
  | crcModeClear => exact keeps_execCrcModeClear ..
  | crcValueWrite => exact keeps_execCrcValueWrite ..
  | mboxReadLog => exact keeps_execMboxReadLog ..
  | mboxStage => exact keeps_execMboxStage ..
  | mboxCommit => exact keeps_execMboxCommit ..
  | mboxAbort => exact keeps_execMboxAbort ..
  | windowCreate => exact keeps_execWindowCreate ..
  | windowDelete => exact keeps_execWindowDelete ..
  | portRetry => exact keeps_execPortRetry ..
  | frameWrite => exact keeps_execFrameWrite ..
  | frameRead => exact keeps_execFrameRead ..
  | readCompletion => exact keeps_execReadCompletion ..
  | writeAcknowledgement => exact keeps_execWriteAcknowledgement ..
  | frameIdle => exact keeps_execFrameIdle ..
  | frameManagement => exact keeps_execFrameManagement ..
  | frameNak => exact keeps_execFrameNak ..
  | portKeyUpdate => exact keeps_execPortKeyUpdate ..
  | remoteTimeout => exact keeps_execRemoteTimeout ..
  | d2dCrcFail => exact keeps_execD2dCrcFail ..
  | pairLost => exact keeps_execPairLost ..
  | diePllLoss => exact keeps_execDiePllLoss ..
  | hubPllLoss => exact keeps_execHubPllLoss ..
  | dieHousekeepingRound => exact keeps_execDieHousekeepingRound ..
  | hubRound => exact keeps_execHubRound ..
  | clockChange => exact keeps_execClockChange ..
  | capUpdate => exact keeps_execCapUpdate ..
  | emergencyEnd => exact keeps_execEmergencyEnd ..
  | overcurrentClamp => exact keeps_execOvercurrentClamp ..
  | thermalTrip => exact keeps_execThermalTrip ..
  | halfMastEntry => exact keeps_execHalfMastEntry ..
  | halfMastDrained => exact keeps_execHalfMastDrained ..
  | halfMastExit => exact keeps_execHalfMastExit ..
  | inputLoss => exact keeps_execInputLoss ..
  | inputRestore => exact keeps_execInputRestore ..
  | perstNAssert => exact keeps_execPerstNAssert ..
  | perstNDeassert => exact keeps_execPerstNDeassert ..
  | buntingRerequest => exact keeps_execBuntingRerequest ..
  | meterReadState => exact keeps_execMeterReadState ..
  | meterReadRecord => exact keeps_execMeterReadRecord ..
  | meterReadCert => exact keeps_execMeterReadCert ..
  | meterReadLog => exact keeps_execMeterReadLog ..
  | meterDemand => exact keeps_execMeterDemand ..
  | intervalRecord => exact keeps_execIntervalRecord ..
  | coverOpening => exact keeps_execCoverOpening ..
  | meterSupplyEvent => exact keeps_execMeterSupplyEvent ..
  | energyStore => exact keeps_execEnergyStore ..
  | meterLost => exact keeps_execMeterLost ..
  | traceRecordWrite => exact keeps_execTraceRecordWrite ..
  | syncRequest => exact keeps_execSyncRequest ..
  | traceIdle => exact keeps_execTraceIdle ..
  | doorbellEvent => exact keeps_execDoorbellEvent ..
  | restartedEvent => exact keeps_execRestartedEvent ..
  | keyRotatedEvent => exact keeps_execKeyRotatedEvent ..
  | reqGenerate => exact keeps_execReqGenerate ..
  | reqPrefill => exact keeps_execReqPrefill ..
  | reqEmbed => exact keeps_execReqEmbed ..
  | reqTile => exact keeps_execReqTile ..
  | reqCancel => exact keeps_execReqCancel ..
  | verificationStep => exact keeps_execVerificationStep ..
  | streamEntryPost => exact keeps_execStreamEntryPost ..
  | diePllRelock => exact keeps_execDiePllRelock ..
  | d2dModuleFail => exact keeps_execD2dModuleFail ..
  | hotReset => exact keeps_execHotReset ..
  | pcieCompletion => exact keeps_execPcieCompletion ..
  | endSession => exact keeps_execEndSession ..
  | tachFactorSet => exact keeps_execTachFactorSet ..
  | fabricIdProvision => exact keeps_execFabricIdProvision ..
  | flowTachEdge => exact keeps_execFlowTachEdge ..
  | scrubLapLate => exact keeps_execScrubLapLate ..
  | msixVectorUnmask => exact keeps_execMsixVectorUnmask ..
  | portSignalLoss => exact keeps_execPortSignalLoss ..

theorem step_keeps_of_idle (empty : s.pending = []) (h : step s = .next t) : Keeps s t := by
  rw [step, empty] at h
  exact (AnswerKeeps.next (keeps_idle s)).keeps t h

theorem step_keeps_of_command {i : Instr} {rest : List Instr} (queue : s.pending = i :: rest) (h : step s = .next t) :
    Keeps { s with pending := rest } t := by
  rw [step, queue] at h
  exact (exec_keeps i _).keeps t h

/-- Settles O60: an idle cycle keeps the state's queue and memories, and a command those of the state without its first command. -/
theorem stepKeepsInvariant : Obligations.stepKeepsInvariant := by
  intro s t h
  cases queue : s.pending with
  | nil =>
    have k := step_keeps_of_idle queue h
    exact ⟨k.memOk, k.queue.trans queue⟩
  | cons i rest =>
    have k := step_keeps_of_command queue h
    exact ⟨k.memOk, k.queue⟩

end Sys2Proof.Machine

/-! Steps of the near-bank units and the results of FOP, XOP, FOLD and LOOP (R228, R232, R233, R237, R246): one lemma per outcome of a step
and per result, and O29 from them. -/

namespace Sys2Proof.Machine

/-- The unit of a bank as it begins a step: the held requests granted at the boundary that it leaves no longer count (R241). -/
def State.stepUnitOf (s : State) (p b : Nat) : NbUnit := { tget (s.nbu p).units b with served := 0 }

/-- The word at which a unit stands. -/
def NbUnit.word (u : NbUnit) : Word := u.image.getD u.ip 0

/-- The state in which the unit of a bank runs its step: the step is counted for the slice and for the context (STEPS of
NBU_COUNT, NB_STEPS). -/
def State.countStep (s : State) (p b : Nat) : State :=
  let u := s.stepUnitOf p b
  let t := s.setNbu p { s.nbu p with steps := wrap 32 ((s.nbu p).steps + 1), units := tput (s.nbu p).units b u }
  t.setCtx u.ctx { t.ctx u.ctx with steps := (t.ctx u.ctx).steps + 1 }

/-- The words that a step leaves are written to its bank, and its NaN sources counted at the issuing core (R490). -/
def State.storeStep (s : State) (p b core : Nat) (wr : List (Nat × List Bytes)) (nans : Nat) : State :=
  (wr.foldl (fun s e => s.nbWrite p b e.1 e.2) s).countNans core nans

def State.setUnit (s : State) (p b : Nat) (u : NbUnit) : State := s.setNbu p { s.nbu p with units := tput (s.nbu p).units b u }

/-- A residue mismatch that a unit met in word `word` of its bank is logged and reported (R208, R210). -/
def State.logMismatch (s : State) (p b core word : Nat) : State :=
  let v := s.setHal p ((s.hal p).logBad (b * 2 ^ 16 + word) causeResidue .nearBank (s.wordFlips (p * 2 ^ 23 + b * 2 ^ 16 + word)))
  v.reportBad p (b * 2 ^ 16 + word) causeResidue (v.core core).job ((v.lcoreOf p).getD 0 / 64)

/-! Outcomes of a step (R237, R246) -/

section Outcomes

variable {s t : State} {p b : Nat} {u : NbUnit} (counted : s.countStep p b = t) (unitOf : s.stepUnitOf p b = u)
include counted unitOf

section Stores

variable {u' : NbUnit} {wr : List (Nat × List Bytes)} {nans : Nat}

theorem State.nbAdvance_more (out : stepWord t p b u u.word = .more u' wr nans) :
    s.nbAdvance p b = { (t.storeStep p b u.core wr nans).setUnit p b u' with fresh := t.fresh + 64 } := by
  subst counted unitOf
  simp only [State.countStep, State.stepUnitOf, NbUnit.word, State.ctx_setNbu] at out
  simp only [State.nbAdvance, State.ctx_setNbu, out]
  rfl

variable {last : Nat} (out : stepWord t p b u u.word = .done u' wr last nans)
include out

theorem State.nbAdvance_done : s.nbAdvance p b =
    if nbOp u.word = 0x3F ∨ u.image.length ≤ (loopNext 3 u'.loops last).1 then
      { t.storeStep p b u.core wr nans with fresh := t.fresh + 64 }.endProgram u.core p b u.ticket 0 0 0
    else { t.storeStep p b u.core wr nans with fresh := t.fresh + 64 }.setUnit p b
      { u' with ip := (loopNext 3 u'.loops last).1, loops := (loopNext 3 u'.loops last).2 } := by
  subst counted unitOf
  simp only [State.countStep, State.stepUnitOf, NbUnit.word, State.ctx_setNbu] at out
  simp only [State.nbAdvance, State.ctx_setNbu, out]
  rfl

theorem State.nbAdvance_goesOn (going : nbOp u.word ≠ 0x3F) (inside : (loopNext 3 u'.loops last).1 < u.image.length) :
    s.nbAdvance p b = { t.storeStep p b u.core wr nans with fresh := t.fresh + 64 }.setUnit p b
      { u' with ip := (loopNext 3 u'.loops last).1, loops := (loopNext 3 u'.loops last).2 } := by
  rw [State.nbAdvance_done counted unitOf out, if_neg (not_or.mpr ⟨going, Nat.not_le.mpr inside⟩)]

theorem State.nbAdvance_ends (finished : nbOp u.word = 0x3F ∨ u.image.length ≤ (loopNext 3 u'.loops last).1) :
    s.nbAdvance p b = { t.storeStep p b u.core wr nans with fresh := t.fresh + 64 }.endProgram u.core p b u.ticket 0 0 0 := by
  rw [State.nbAdvance_done counted unitOf out, if_pos finished]

end Stores

section Fails

variable {err word : Nat} (out : stepWord t p b u u.word = .fail err word)
include out

theorem State.nbAdvance_fail : s.nbAdvance p b =
    (if err = 4 then t.logMismatch p b u.core word else t).endProgram u.core p b u.ticket err u.ip (if err = 4 then word else 0) := by
  subst counted unitOf
  simp only [State.countStep, State.stepUnitOf, NbUnit.word, State.ctx_setNbu] at out
  simp only [State.nbAdvance, State.ctx_setNbu, out]
  rfl

theorem State.nbAdvance_error (other : err ≠ 4) : s.nbAdvance p b = t.endProgram u.core p b u.ticket err u.ip 0 := by
  rw [State.nbAdvance_fail counted unitOf out, if_neg other, if_neg other]

end Fails

theorem State.nbAdvance_mismatch {word : Nat} (out : stepWord t p b u u.word = .fail 4 word) :
    s.nbAdvance p b = (t.logMismatch p b u.core word).endProgram u.core p b u.ticket 4 u.ip word := by
  rw [State.nbAdvance_fail counted unitOf out, if_pos rfl, if_pos rfl]

end Outcomes

/-! The commands of the units -/

/-- The command of each near-bank opcode, with that opcode (R226). -/
def unitCommands : List ((Nat → Nat → Instr) × Nat) :=
  [(.earith, 0x01), (.efma, 0x02), (.efunc, 0x03), (.erope, 0x04), (.ecvt, 0x05), (.nbRed, 0x08), (.nbFold, 0x09), (.fop, 0x0A),
    (.xop, 0x0B), (.nbLoop, 0x0C), (.rowcpy, 0x0D), (.skey, 0x0E), (.nbEnd, 0x3F)]

theorem exec_unitCommand (c b : Nat) (s : State) : ∀ e ∈ unitCommands, exec (e.1 c b) s = nbStep c b e.2 s :=
  List.forall_iff_forall_mem.mp ⟨rfl, rfl, rfl, rfl, rfl, rfl, rfl, rfl, rfl, rfl, rfl, rfl, rfl⟩

/-- R237, R241: a running unit is granted what the boundary owes the held requests, then takes a step. -/
theorem nbStep_steps {s : State} {c b p op : Nat} (core : c < 1280) (bank : b < 128) (backed : s.phys c = some p)
    (runs : s.dieRuns (c / 256) = true) (active : (tget (s.nbu p).units b).active = true)
    (going : (tget (s.nbu p).units b).paused = false) (unasked : (tget (s.nbu p).units b).pauseReq = false)
    (inside : (tget (s.nbu p).units b).ip < (tget (s.nbu p).units b).image.length) (opcode : nbOp (tget (s.nbu p).units b).word = op) :
    nbStep c b op s = .next ((s.serveBoundary p b).nbAdvance p b) := by
  rw [NbUnit.word] at opcode
  simp only [nbStep, unit, core, bank, backed, runs, active, going, unasked, opcode, Nat.not_le.mpr inside, ne_eq, not_true_eq_false,
    decide_true, decide_false, Bool.and_self, Bool.not_true, Bool.or_self, Bool.false_eq_true, if_true, if_false]

/-! Results of the instructions on unit registers (R228, R232, R233) -/

section UnitRegisters

variable (s : State) (p b : Nat) (u : NbUnit) {w : Word}

theorem stepWord_fop (opcode : nbOp w = 0x0A) : stepWord s p b u w = stepFop u w := by simp only [stepWord, opcode]

theorem stepWord_xop (opcode : nbOp w = 0x0B) : stepWord s p b u w = stepXop u w := by simp only [stepWord, opcode]

theorem stepWord_fold (opcode : nbOp w = 0x09) : stepWord s p b u w = stepFold u w := by simp only [stepWord, opcode]

theorem stepWord_loop (opcode : nbOp w = 0x0C) : stepWord s p b u w = stepLoop u w := by simp only [stepWord, opcode]

theorem stepWord_end (opcode : nbOp w = 0x3F) : stepWord s p b u w = .done u [] u.ip := by simp only [stepWord, opcode]

theorem stepLoop_skips (zero : nf w 0 11 = 0) : stepLoop u w = .done u [] (u.ip + nf w 11 6) := by simp only [stepLoop, zero, if_true]

theorem stepLoop_opens (nonzero : nf w 0 11 ≠ 0) :
    stepLoop u w = .done { u with loops := (u.ip + 1, u.ip + nf w 11 6, nf w 0 11) :: u.loops } [] u.ip := by
  simp only [stepLoop, nonzero, if_false]

end UnitRegisters

/-- Settles O29: a command by `nbStep_steps` and the lemma of its outcome, the results by the instruction's own step. -/
theorem nearBankSteps : Obligations.nearBankSteps := by
  refine ⟨?step, ?results⟩
  case step =>
    intro s c b p k op mem core bank backed runs u0 active going unasked inside opcode r u w stepped t put keep
    have steps : exec (k c b) s = .next (r.nbAdvance p b) :=
      (exec_unitCommand c b s (k, op) mem).trans (nbStep_steps core bank backed runs active going unasked inside opcode)
    rw [steps]
    have counted : r.countStep p b = t := rfl
    have unitOf : r.stepUnitOf p b = u := rfl
    refine ⟨fun u' wr nans out => ?more, fun u' wr last nans out => ⟨fun goesOn within => ?goesOn, fun finished => ?ends⟩,
      fun err word other out => ?error, fun word out => ?mismatch⟩
    case more => exact congrArg _ (State.nbAdvance_more counted unitOf out)
    case goesOn => exact congrArg _ (State.nbAdvance_goesOn counted unitOf out goesOn within)
    case ends => exact congrArg _ (State.nbAdvance_ends counted unitOf out finished)
    case error => exact congrArg _ (State.nbAdvance_error counted unitOf out other)
    case mismatch => exact congrArg _ (State.nbAdvance_mismatch counted unitOf out)
  case results =>
    intro s p b u w a d setF setX
    refine ⟨fun opcode => ?fop, fun opcode => ?xop, fun opcode => ?fold, fun opcode => ?loop, stepWord_end s p b u⟩
    case fop =>
      rw [stepWord_fop s p b u opcode]
      refine ⟨?_, ?_, ?_, ?_, ?_, ?_⟩ <;> exact fun fn => by simp only [stepFop, fn, setF, a, d]
    case xop =>
      rw [stepWord_xop s p b u opcode]
      refine ⟨?_, ?_, ?_⟩ <;> exact fun fn => by simp only [stepXop, fn, setX]
    case fold =>
      rw [stepWord_fold s p b u opcode]
      exact ⟨fun add => by simp only [stepFold, add, if_true], fun max => by simp only [stepFold, max, one_ne_zero, if_false]⟩
    case loop =>
      rw [stepWord_loop s p b u opcode]
      exact ⟨stepLoop_skips u, stepLoop_opens u⟩

end Sys2Proof.Machine

/-! What the near-bank units of a slice do on their own (R224, R225, R239, R241, R243, R469): one lemma per event, and O30 from them. -/

namespace Sys2Proof.Machine

section NearBankEvents

variable {s : State} {c p : Nat} (core : c < 1280) (backed : s.phys c = some p)

/-! Admission (R224, R225, R239) -/

/-- R225, R239: the pair leaves the queue, and its unit stands at program start. -/
def State.startPair (s : State) (p : Nat) (e : NbPair) : State :=
  s.setNbu p { s.nbu p with
    queue := (s.nbu p).queue.erase e, admits := (s.nbu p).admits + 1
    units := tput (s.nbu p).units e.bank { e.start with seq := (s.nbu p).admits } }

section Admits

variable (room : (s.nbu p).admitted < (s.nbu p).limitNow) {e : NbPair}
  (oldest : (s.nbu p).queue.find? (fun e => !(tget (s.nbu p).units e.bank).active) = some e)
include room oldest

/-- R239: below the limit the oldest pair whose bank is free starts, its image checked (R224). -/
theorem State.admitNext_admits : s.admitNext p = if imageLegal e.image then (s.flushBank p e.bank).startPair p e else
    ((s.flushBank p e.bank).startPair p e).endProgram e.core p e.bank e.ticket 1 (imageBad e.image) 0 := by
  simp only [State.admitNext, Nat.not_le.mpr room, oldest, if_false]
  rfl

end Admits

include core backed

theorem execBankProgramAdmit_full (full : (s.nbu p).limitNow ≤ (s.nbu p).admitted) : execBankProgramAdmit c s = .next s := by
  simp [execBankProgramAdmit, unit, core, backed, State.admitNext, full]

variable (runs : s.dieRuns (c / 256) = true)
include runs

theorem execBankProgramAdmit_eq : execBankProgramAdmit c s = .next (s.admitNext p) := by
  simp [execBankProgramAdmit, unit, core, backed, runs]

section Admits

variable (room : (s.nbu p).admitted < (s.nbu p).limitNow) {e : NbPair}
  (oldest : (s.nbu p).queue.find? (fun e => !(tget (s.nbu p).units e.bank).active) = some e)
include room oldest

theorem execBankProgramAdmit_starts (legal : imageLegal e.image = true) :
    execBankProgramAdmit c s = .next ((s.flushBank p e.bank).startPair p e) := by
  rw [execBankProgramAdmit_eq core backed runs, State.admitNext_admits room oldest, if_pos legal]

theorem execBankProgramAdmit_illegal (illegal : imageLegal e.image = false) : execBankProgramAdmit c s =
    .next (((s.flushBank p e.bank).startPair p e).endProgram e.core p e.bank e.ticket 1 (imageBad e.image) 0) := by
  rw [execBankProgramAdmit_eq core backed runs, State.admitNext_admits room oldest, if_neg (Bool.eq_false_iff.mp illegal)]

end Admits

/-! Boundaries (R241, R243) -/

section Boundary

variable {b : Nat} (bank : b < 128)
include bank

theorem execNbBoundaryService_serves (active : (tget (s.nbu p).units b).active = true) :
    execNbBoundaryService c b s = .next (s.serveBoundary p b) := by
  simp [execNbBoundaryService, unit, core, bank, backed, runs, active]

theorem execNbPause_pauses (active : (tget (s.nbu p).units b).active = true) (asked : (tget (s.nbu p).units b).pauseReq = true)
    (going : (tget (s.nbu p).units b).paused = false) :
    execNbPause c b s = .next ((s.setUnit p b { tget (s.nbu p).units b with paused := true }).setHal p ((s.hal p).payOwed b)) := by
  simp [execNbPause, unit, core, bank, backed, runs, active, asked, going, State.setUnit]

/-- R243, R469: a paused unit goes on, in an emergency when it may resume. -/
theorem execNbResume_resumes (paused : (tget (s.nbu p).units b).paused = true)
    (may : s.pwr.emergency = false ∨ (s.nbu p).mayResume b = true) {t : State} (served : s.serveBoundary p b = t) :
    execNbResume c b s = .next (t.setUnit p b { tget (t.nbu p).units b with paused := false, pauseReq := false }) := by
  have allowed : (!s.pwr.emergency || (s.nbu p).mayResume b) = true := by simpa using may
  simp [execNbResume, unit, core, bank, backed, runs, paused, allowed, served, State.setUnit]

end Boundary

end NearBankEvents

/-- Settles O30: admission by its room and image, the boundary events by one lemma each. -/
theorem nearBankEvents : Obligations.nearBankEvents := by
  intro s c p core backed runs n
  refine ⟨fun e room oldest => ?admission, execBankProgramAdmit_full core backed, fun b bank => ?boundary⟩
  case admission =>
    exact ⟨execBankProgramAdmit_starts core backed runs room oldest, execBankProgramAdmit_illegal core backed runs room oldest⟩
  case boundary =>
    exact ⟨execNbBoundaryService_serves core backed runs bank, execNbPause_pauses core backed runs bank,
      fun paused may => execNbResume_resumes core backed runs bank paused may rfl⟩

end Sys2Proof.Machine

/-! What a cluster cache does with the accesses, fills and invalidations of its lines (R249 to R253, R256, R257): one lemma per outcome, and O33
from them. -/

namespace Sys2Proof.Machine

/-! A hit, and its count (R252, R256) -/

/-- An access hits a valid line of its own context: the model's Boolean as a proposition. -/
theorem CLine.hit_iff (l : CLine) (ctx : Nat) : (l.valid && decide (l.ctx = ctx)) = true ↔ l.valid = true ∧ l.ctx = ctx := by simp

theorem State.countAccess_eq (s : State) (h line ctx : Nat) (counts : Bool) : s.countAccess h line ctx counts =
    s.setCache h (if ((s.cache h).line line).valid = true ∧ ((s.cache h).line line).ctx = ctx then
        (if counts = true then { s.cache h with hits := wrap 32 ((s.cache h).hits + 1) } else s.cache h)
      else { s.cache h with
        misses := wrap 32 ((s.cache h).misses + 1)
        ctxMiss := if ((s.cache h).line line).valid then wrap 32 ((s.cache h).ctxMiss + 1) else (s.cache h).ctxMiss }) := by
  simp only [State.countAccess, CLine.hit_iff]

/-- Counting leaves every line as it is. -/
theorem State.line_countAccess (s : State) (h line ctx : Nat) (counts : Bool) (k : Nat) :
    ((s.countAccess h line ctx counts).cache h).line k = (s.cache h).line k := by
  rw [State.countAccess_eq, State.cache_setCache_self]
  split
  · split <;> rfl
  · rfl

/-! The home performs an access (R250, R252, R257) -/

section ServeHome

variable {s u : State} {h : Nat} {r : CReq} {l : CLine} (found : (s.cache h).line (r.da / 128) = l)
  (expelled : (if l.valid = true ∧ l.ctx ≠ r.ctx then s.dropHome (r.da / 128) false else s) = u)

include expelled in
/-- R256: a line of another context leaves its home first. -/
theorem State.expelled_unless_hit : (if l.valid && !(l.valid && decide (l.ctx = r.ctx)) then s.dropHome (r.da / 128) false else s) = u := by
  rw [← expelled]
  cases l.valid <;> simp

include found expelled

theorem State.serveHome_refused {cause : Nat} (refused : u.cachedRefusal r = some cause) : s.serveHome h r = u.refuseCached r cause := by
  simp only [State.serveHome, found, State.expelled_unless_hit expelled, refused]

variable (admitted : u.cachedRefusal r = none)
include admitted

theorem State.serveHome_stores (store : r.kind = .store) :
    s.serveHome h r = ((u.dropSharers h (r.da / 128)).writeThrough r r.data r.mask.testBit).acked r.core := by
  simp only [State.serveHome, found, State.expelled_unless_hit expelled, admitted, store]

theorem State.serveHome_queuesFill (miss : ¬(l.valid = true ∧ l.ctx = r.ctx)) (other : r.kind ≠ .store) :
    s.serveHome h r = u.setCache h { u.cache h with fills := (u.cache h).fills ++ [r] } := by
  cases kind : r.kind with
  | store => exact absurd kind other
  | load | amo | fetch => simp only [State.serveHome, found, State.expelled_unless_hit expelled, admitted, kind, CLine.hit_iff, if_neg miss]

variable (hit : l.valid = true ∧ l.ctx = r.ctx)
include hit

theorem State.serveHome_answers (read : r.kind = .load ∨ r.kind = .fetch) : s.serveHome h r = u.answerLoad h r l.data := by
  rcases read with kind | kind <;>
    simp only [State.serveHome, found, State.expelled_unless_hit expelled, admitted, kind, CLine.hit_iff, if_pos hit]

theorem State.serveHome_performs (amo : r.kind = .amo) : s.serveHome h r = u.performAmo h r l.data := by
  simp only [State.serveHome, found, State.expelled_unless_hit expelled, admitted, amo, CLine.hit_iff, if_pos hit]

end ServeHome

/-! The turn of an access (R249, R252, R253) -/

/-- R253: the access leaves the queue of the cache, and at its home the slice performs first what it has accepted for the line. -/
def State.takeAccess (s : State) (h : Nat) (r : CReq) : State :=
  let t := s.setCache h { s.cache h with q := (s.cache h).q.erase r }
  if homeOf (r.da / 128) = h then t.settleLine (r.da / 128) else t

section Access

variable {s : State} {h : Nat} (cluster : h < 20) (runs : s.dieRuns (h / 4) = true) {r : CReq} (next : s.nextAccess h = some r)
include cluster runs next

theorem execCcAccess_serves :
    execCcAccess h .none s = .next ((s.setCache h { s.cache h with q := (s.cache h).q.erase r }).serveAccess h r) := by
  simp only [execCcAccess, unit, cluster, runs, next, State.cacheError, decide_true, Bool.not_true, Bool.false_eq_true, if_true, if_false]

variable {v : State} {l : CLine} (found : ((s.takeAccess h r).cache h).line (r.da / 128) = l)
  (counted : (s.takeAccess h r).countAccess h (r.da / 128) r.ctx
    (decide (homeOf (r.da / 128) = h) || (decide (r.kind = .load) || decide (r.kind = .fetch))) = v)
include counted

theorem execCcAccess_home (home : homeOf (r.da / 128) = h) : execCcAccess h .none s = .next (v.serveHome h r) := by
  rw [execCcAccess_serves cluster runs next, ← counted]
  simp only [State.serveAccess, State.takeAccess, home, decide_true, if_true]

variable (away : homeOf (r.da / 128) ≠ h)
include away

theorem execCcAccess_forwards (write : ¬(r.kind = .load ∨ r.kind = .fetch)) :
    execCcAccess h .none s = .next ((v.dropAt h (r.da / 128)).forward { r with via := none }) := by
  rw [execCcAccess_serves cluster runs next, ← counted]
  obtain ⟨load, fetch⟩ := not_or.mp write
  simp only [State.serveAccess, State.takeAccess, away, load, fetch, decide_false, Bool.or_self, Bool.false_eq_true, if_false]

variable (read : r.kind = .load ∨ r.kind = .fetch)
include found read

theorem execCcAccess_reads : execCcAccess h .none s = .next (if l.valid = true ∧ l.ctx = r.ctx then v.answerLoad h { r with via := none } l.data
    else (v.dropAt h (r.da / 128)).forward { r with via := some (h / 4) }) := by
  have reads : (decide (r.kind = .load) || decide (r.kind = .fetch)) = true := by simpa using read
  rw [State.takeAccess, if_neg away] at found counted
  rw [execCcAccess_serves cluster runs next]
  simp only [State.serveAccess, away, reads, decide_false, Bool.false_eq_true, Bool.false_or, if_false, if_true, found, CLine.hit_iff] at counted ⊢
  rw [counted]

end Access

/-! A fill (R252, R257) -/

theorem State.phys_upsets (s : State) (p line : Nat) (ups : List Upset) (c : Nat) : (s.upsets p line ups).phys c = s.phys c := by
  rw [State.upsets_frame]
  rfl

section Fill

variable {s : State} {h : Nat} {r : CReq}

theorem State.fillFor_refused {cause : Nat} (refused : s.cachedRefusal r = some cause) : s.fillFor h r = s.refuseCached r cause := by
  simp only [State.fillFor, refused]

section Admitted

variable {p : Nat} (admitted : s.cachedRefusal r = none) (backed : s.phys (r.da / 2 ^ 28) = some p) {t : State}
include admitted backed

theorem State.fillFor_completes {data : Bytes}
    (read : s.readSlice p (r.da % 2 ^ 28 / 128 * 128) 128 (s.cacheBy r (if r.kind = .amo then 2 else 0)) = (t, .ok data)) :
    s.fillFor h r = if r.kind = .amo then (t.allocLine h (r.da / 128) ⟨true, data, r.ctx, 0⟩).performAmo h r data
      else (t.allocLine h (r.da / 128) ⟨true, data, r.ctx, 0⟩).answerLoad h r data := by
  simp only [State.fillFor, admitted, backed, read]

theorem State.fillFor_fails {cause w : Nat}
    (read : s.readSlice p (r.da % 2 ^ 28 / 128 * 128) 128 (s.cacheBy r (if r.kind = .amo then 2 else 0)) = (t, .error (cause, w))) :
    s.fillFor h r = t.refuseCached r cause := by
  simp only [State.fillFor, admitted, backed, read]

end Admitted

theorem execCcFill_fills (cluster : h < 20) (runs : s.dieRuns (h / 4) = true) (ups : List Upset) {t : State} {p : Nat}
    (next : (s.cache h).fills.find? (s.cacheReached h) = some r)
    (taken : s.setCache h { s.cache h with fills := (s.cache h).fills.erase r } = t) (backed : t.phys (r.da / 2 ^ 28) = some p) :
    execCcFill h ups s = .next ((t.upsets p (r.da % 2 ^ 28 / 128) ups).fillFor h r) := by
  simp only [execCcFill, unit, cluster, runs, next, taken, backed, decide_true, Bool.not_true, Bool.false_eq_true, if_true, if_false]

end Fill

/-! Invalidations (R251, R256) -/

theorem execCcInvalidate_drops {s : State} {i h line g : Nat} (due : s.invals[i]? = some (h, line, g))
    (route : s.bothWays (homeOf line / 4) (h / 4) = true) :
    execCcInvalidate i s = .next (({ s.dropAt h line with invals := s.invals.eraseIdx i } : State).ackInval h line) := by
  simp only [execCcInvalidate, due, route, Bool.not_true, Bool.false_eq_true, if_false]

theorem execCcContextInvalidate_walks {s : State} {h ctx : Nat} (cluster : h < 20) (context : ctx < 256)
    (runs : s.dieRuns (h / 4) = true) : execCcContextInvalidate h ctx s = .next (s.walkContext h ctx) := by
  simp only [execCcContextInvalidate, unit, cluster, context, runs, decide_true, Bool.and_self, if_true]

/-- Settles O33: an access by what the home, or another cache, does with it, and one lemma per fill and invalidation. -/
theorem cacheCommands : Obligations.cacheCommands := by
  intro s h cluster runs
  refine ⟨?access, ?fill, fun i line g => execCcInvalidate_drops, fun ctx context => execCcContextInvalidate_walks cluster context runs⟩
  case access =>
    intro r next line read t₀ t x l hit v
    have counted : t.countAccess h line r.ctx (decide (homeOf line = h) || (decide (r.kind = .load) || decide (r.kind = .fetch))) = v := by
      rw [State.countAccess_eq]
      simp only [Bool.or_eq_true, decide_eq_true_eq]
      rfl
    refine ⟨fun home => ?home, fun away => ?away⟩
    case home =>
      intro u
      have found : (v.cache h).line line = l := by rw [← counted, State.line_countAccess]
      have turn := execCcAccess_home cluster runs next counted home
      exact ⟨fun admitted => ⟨fun store => turn.trans (congrArg _ (State.serveHome_stores found rfl admitted store)),
        fun hit read => turn.trans (congrArg _ (State.serveHome_answers found rfl admitted hit read)),
        fun hit amo => turn.trans (congrArg _ (State.serveHome_performs found rfl admitted hit amo)),
        fun miss other => turn.trans (congrArg _ (State.serveHome_queuesFill found rfl admitted miss other))⟩,
        fun cause refused => turn.trans (congrArg _ (State.serveHome_refused found rfl refused))⟩
    case away =>
      have answer := execCcAccess_reads cluster runs next rfl counted away
      exact ⟨fun hit read => (answer read).trans (congrArg _ (if_pos hit)), fun miss read => (answer read).trans (congrArg _ (if_neg miss)),
        execCcAccess_forwards cluster runs next counted away⟩
  case fill =>
    intro r ups p next t backed off v d
    have fills : execCcFill h ups s = .next (v.fillFor h r) := by
      have line : off / 128 = r.da % 2 ^ 28 / 128 := Nat.mul_div_cancel _ (by decide)
      rw [execCcFill_fills cluster runs ups next rfl backed, ← line]
    have stays : v.phys (r.da / 2 ^ 28) = some p := (State.phys_upsets ..).trans backed
    exact ⟨fun admitted => ⟨fun data ok => fills.trans (congrArg _ (State.fillFor_completes admitted stays (Prod.ext rfl ok))),
      fun cause w error => fills.trans (congrArg _ (State.fillFor_fails admitted stays (Prod.ext rfl error)))⟩,
      fun cause refused => fills.trans (congrArg _ (State.fillFor_refused refused))⟩

end Sys2Proof.Machine

/-! A refused PLACE (R269, R531). What its nine checks read, slices, scratch, control space and host memory, leaves the placement of the
module as it is, whatever accesses are served on the way; each operation that such a read reaches has its equation here once, and O35
follows by the branches of `State.place1`. -/

namespace Sys2Proof.Machine

/-- What PLACE may change when it creates a job: the jobs, the owners of banks, the network's messages and grants, the queues, the map
and the clusters. -/
def State.placement (s : State) : Tbl Job × Tbl Owner × Net × Que × Tbl Nat × Tbl Clu := (s.jobs, s.own, s.net, s.que, s.map, s.clus)

theorem State.placement_eq_iff {s t : State} : t.placement = s.placement ↔
    t.jobs = s.jobs ∧ t.own = s.own ∧ t.net = s.net ∧ t.que = s.que ∧ t.map = s.map ∧ t.clus = s.clus := by
  simp only [State.placement, Prod.mk.injEq]

section Placement

variable (s : State)

/-! Updates of one part of the state -/

/-- An update of other fields. Each field is an argument of its own, so that unification finds an update inside a chain of operations. -/
@[simp] theorem State.placement_update
    {pending tx fresh struck perstOut halfMast hubCount hubPllLost boot alert accessErr mbox flash mapGen guestUp dies cores hals nbus
    mem flips scratch scratchBad scratchOne caches invals place ctxs sec sess reports flt serve dma host lnk pairs guest thm pwr mtrPres
    meter mtr trc} :
    State.placement ⟨pending, tx, fresh, struck, perstOut, halfMast, hubCount, hubPllLost, boot, alert, accessErr, mbox, flash, mapGen,
      guestUp, s.map, dies, s.clus, cores, hals, nbus, mem, flips, scratch, scratchBad, scratchOne, caches, invals, s.net, s.jobs,
      place, ctxs, s.own, sec, sess, reports, flt, serve, dma, s.que, host, lnk, pairs, guest, thm, pwr, mtrPres, meter, mtr, trc⟩ =
    s.placement := rfl

@[simp] theorem State.placement_setCore (c : Nat) (x : Core) : (s.setCore c x).placement = s.placement := rfl
@[simp] theorem State.placement_setHal (p : Nat) (x : Hal) : (s.setHal p x).placement = s.placement := rfl
@[simp] theorem State.placement_setNbu (p : Nat) (x : Nbu) : (s.setNbu p x).placement = s.placement := rfl
@[simp] theorem State.placement_setCache (h : Nat) (x : Cache) : (s.setCache h x).placement = s.placement := rfl
@[simp] theorem State.placement_setCtx (n : Nat) (x : Ctx) : (s.setCtx n x).placement = s.placement := rfl
@[simp] theorem State.placement_send (m : Tx) : (s.send m).placement = s.placement := rfl
@[simp] theorem State.placement_report (r : Report) : (s.report r).placement = s.placement := rfl
@[simp] theorem State.placement_putWord (p w : Nat) (d : Bytes) : (s.putWord p w d).placement = s.placement := rfl
@[simp] theorem State.placement_dropReads (c : Nat) : (s.dropReads c).placement = s.placement := rfl
@[simp] theorem State.placement_accessFault (kind bar off : Nat) : (s.accessFault kind bar off).placement = s.placement := rfl

@[simp] theorem State.placement_ite {c : Prop} [Decidable c] (t u : State) :
    (if c then t else u).placement = if c then t.placement else u.placement := apply_ite ..

/-! Exceptions and the end of a load -/

@[simp] theorem State.placement_advance (c : Nat) : (s.advance c).placement = s.placement := rfl
@[simp] theorem State.placement_acked (c : Nat) : (s.acked c).placement = s.placement := rfl
@[simp] theorem State.placement_imprecise (c : Nat) (f : Impr) : (s.imprecise c f).placement = s.placement := rfl
@[simp] theorem State.placement_lineArrives (c off len : Nat) (d : Option Bytes) : (s.lineArrives c off len d).placement = s.placement := rfl

@[simp] theorem State.placement_precise (c cause addr : Nat) : (s.precise c cause addr).placement = s.placement := by
  simp [State.precise, State.takeExc, State.reportExc, State.reportExcOf]

@[simp] theorem State.placement_loadFails (c cause : Nat) : (s.loadFails c cause).placement = s.placement := by
  unfold State.loadFails
  split <;> simp

@[simp] theorem State.placement_deliver (c k : Nat) (d : Bytes) : (s.deliver c k d).placement = s.placement := by
  unfold State.deliver
  split <;> simp [State.finishLoad]

/-! Words of a slice -/

@[simp] theorem State.placement_reportBad (p w cause j r : Nat) : (s.reportBad p w cause j r).placement = s.placement := by
  unfold State.reportBad
  split <;> simp

@[simp] theorem State.placement_grant (p : Nat) (b : By) (k : Nat) : (s.grant p b k).placement = s.placement := by
  unfold State.grant
  split <;> simp

@[simp] theorem State.placement_dropLines (p : Nat) (drop : SbLine → Bool) : (s.dropLines p drop).placement = s.placement := by
  unfold State.dropLines
  split <;> simp

@[simp] theorem State.placement_flushEntry (p : Nat) (e : MergeEntry) (cls : Nat) : (s.flushEntry p e cls).placement = s.placement := by
  unfold State.flushEntry
  extract_lets b t x u
  have counted : u.placement = s.placement := by simp [u, t]
  split
  · simp [counted]
  · split
    · simp [counted]
    · simp [counted]
    · extract_lets y v w
      have reported : w.placement = s.placement := by simp [w, v, counted]
      split
      · split <;> simp [reported]
      · exact reported

@[simp] theorem State.placement_countHeld (p : Nat) : (s.countHeld p).placement = s.placement := rfl

@[simp] theorem State.placement_queueFlush (p cls : Nat) (e : MergeEntry) : (s.queueFlush p cls e).placement = s.placement := by
  simp [State.queueFlush]

@[simp] theorem State.placement_flushWord (p w cls : Nat) : (s.flushWord p w cls).placement = s.placement := by
  unfold State.flushWord
  dsimp only
  split <;> simp

@[simp] theorem State.placement_makeRoom (p : Nat) : (s.makeRoom p).placement = s.placement := by
  unfold State.makeRoom
  split <;> simp

@[simp] theorem State.placement_writePart (p w : Nat) (d : Bytes) (mask : Nat) (own : Bool) :
    (s.writePart p w d mask own).placement = s.placement := by
  unfold State.writePart
  extract_lets t x room y entered
  have kept : entered.placement = s.placement := by
    unfold entered
    split <;> simp [room, t]
  simp [kept, t]

@[simp] theorem State.placement_dropAt (h line : Nat) : (s.dropAt h line).placement = s.placement := rfl

@[simp] theorem State.placement_dropHome (line : Nat) (write : Bool) : (s.dropHome line write).placement = s.placement := by
  have sharers := State.foldl_field State.placement _ fun t d => t.placement_dropAt (servingOf d line) line
  simp [State.dropHome, sharers]

@[simp] theorem State.placement_writeLine (p off : Nat) (d : Bytes) (en : Nat → Bool) (own : Bool) (b : By) :
    (s.writeLine p off d en own b).placement = s.placement := by
  unfold State.writeLine State.writeWords
  extract_lets parts
  split
  · rfl
  · rw [State.foldl_field State.placement _ fun _ _ => State.placement_writePart .., State.placement_ite, State.placement_grant, ite_self]
    split
    · exact s.placement_dropHome ..
    · rfl

@[simp] theorem State.placement_readWords (p : Nat) (b : By) (l : List (Nat × Bool)) :
    ∀ (s : State) (e : Option (Nat × Nat)), (s.readWords p b e l).1.placement = s.placement := by
  induction l with
  | nil => exact fun _ _ => rfl
  | cons a l ih =>
    intro s e
    obtain ⟨w, asked⟩ := a
    unfold State.readWords
    dsimp only
    split
    · exact ih ..
    · split <;> simp [ih]

@[simp] theorem State.placement_readLine (p off len : Nat) (en : Nat → Bool) (b : By) :
    (s.readLine p off len en b).1.placement = s.placement := by
  have words := State.placement_readWords p b (wordsOf off len en) (s.grant p b (bankOf off)) none
  rw [State.placement_grant] at words
  unfold State.readLine
  split <;> rename_i read <;> rw [← words, read]

/-! Requests that a controller grants -/

@[simp] theorem State.placement_perform (p : Nat) (r : HReq) : (s.perform p r).placement = s.placement := by
  unfold State.perform
  extract_lets b t
  have line := s.placement_readLine p r.off r.len r.mask.testBit b
  split
  · exact s.placement_flushEntry ..
  · split
    · simp
    · split
      · simp [t]
      · split <;> rename_i read <;> rw [read] at line <;> simp [line]

@[simp] theorem State.placement_countServed (p b : Nat) : (s.countServed p b).placement = s.placement := by
  simp [State.countServed]

@[simp] theorem State.placement_grantReq (p : Nat) (r : HReq) : (s.grantReq p r).placement = s.placement := by
  simp [State.grantReq]

@[simp] theorem State.placement_serveWhile (p : Nat) (free : Nat → Bool) (pick : HReq → Bool) (go : Hal → HReq → Bool) (n : Nat) :
    ∀ s : State, (s.serveWhile p free pick go n).placement = s.placement := by
  induction n with
  | zero => exact fun _ => rfl
  | succ n ih =>
    intro s
    unfold State.serveWhile
    split <;> simp [ih]

@[simp] theorem State.placement_confirmOlder (p : Nat) (ws : List Nat) : (s.confirmOlder p ws).placement = s.placement := by
  simp [State.confirmOlder]

@[simp] theorem State.placement_settle (p : Nat) (ws : List Nat) : (s.settle p ws).placement = s.placement := by
  simp [State.settle]

/-! Steps of a near-bank unit, and turns at a controller -/

@[simp] theorem State.placement_nbWrite (p b : Nat) (l : List Bytes) :
    ∀ (s : State) (w : Nat), (s.nbWrite p b w l).placement = s.placement := by
  induction l with
  | nil => exact fun _ _ => rfl
  | cons d l ih => exact fun s w => by simp [State.nbWrite, ih]

@[simp] theorem State.placement_endProgram (c p b ticket err pc w : Nat) : (s.endProgram c p b ticket err pc w).placement = s.placement := by
  simp [State.endProgram]

@[simp] theorem State.placement_countNans (c n : Nat) : (s.countNans c n).placement = s.placement := by
  simp [State.countNans]

@[simp] theorem State.placement_nbAdvance (p b : Nat) : (s.nbAdvance p b).placement = s.placement := by
  unfold State.nbAdvance
  extract_lets n y u w t z v put setU
  have begun : v.placement = s.placement := by simp [v, t]
  have written : ∀ wr, (put v wr).placement = s.placement := fun wr =>
    (State.foldl_field State.placement _ (fun _ _ => State.placement_nbWrite ..) wr v).trans begun
  split
  · simp [setU, written]
  · simp [setU, written]
  · simp [begun]

@[simp] theorem State.placement_giveWay (p : Nat) (a : HReq) (n : Nat) : ∀ s : State, (s.giveWay p a n).placement = s.placement := by
  induction n with
  | zero => exact fun _ => rfl
  | succ n ih =>
    intro s
    unfold State.giveWay
    split
    · simp [ih]
    · split <;> simp [ih]

@[simp] theorem State.placement_turn (p : Nat) (b : By) (off len : Nat) (grants : Bool) :
    (s.turn p b off len grants).placement = s.placement := by
  simp [State.turn]

@[simp] theorem State.placement_readLines (p : Nat) (b : By) (l : List (Nat × Nat)) :
    ∀ s : State, (s.readLines p b l).1.placement = s.placement := by
  induction l with
  | nil => exact fun _ => rfl
  | cons a l ih =>
    intro s
    obtain ⟨off, len⟩ := a
    have line := (s.turn p b off len true).placement_readLine p off len (fun _ => true) b
    unfold State.readLines
    split <;> rename_i t _ read <;> rw [read, State.placement_turn] at line
    · exact line
    · have rest := (ih t).trans line
      split <;> rename_i read <;> rwa [read] at rest

@[simp] theorem State.placement_readSlice (p off len : Nat) (b : By) : (s.readSlice p off len b).1.placement = s.placement :=
  State.placement_readLines ..

/-! Reads of scratch, of control space and of host memory -/

@[simp] theorem State.placement_scratchFix (c off len : Nat) : (s.scratchFix c off len).placement = s.placement := by
  simp [State.scratchFix]

@[simp] theorem State.placement_reportScratch (c w : Nat) (b : By) : (s.reportScratch c w b).placement = s.placement := by
  simp [State.reportScratch]

@[simp] theorem State.placement_guestForward (off width : Nat) (d : Bytes) : (s.guestForward off width d).1.placement = s.placement := by
  by_cases silent : Config.freeNat s.fresh % 2 = 0 <;> simp [State.guestForward, State.free, silent]

@[simp] theorem State.placement_noteUnbacked (off : Nat) : (s.noteUnbacked off).placement = s.placement := by
  unfold State.noteUnbacked
  split <;> simp

@[simp] theorem State.placement_loadReg (off width : Nat) (fw : Bool) : (s.loadReg off width fw).1.placement = s.placement := by
  unfold State.loadReg
  split <;> simp

@[simp] theorem State.placement_ctlRead (e : Nat × Nat) : (s.ctlRead e).1.placement = s.placement := by
  unfold State.ctlRead
  split <;> simp

@[simp] theorem State.placement_dmaRead (b : By) (da len : Nat) : (s.dmaRead b da len).1.placement = s.placement := by
  unfold State.dmaRead
  split
  case h_1 c off _ =>
    split
    · rfl
    · rename_i p _
      have slice := s.placement_readSlice p off len b
      split <;> rename_i read <;> rwa [read] at slice
  case h_2 => split <;> simp
  case h_3 off _ =>
    exact List.foldlRecOn (motive := fun a : State × Bytes => a.1.placement = s.placement) _ _ rfl
      fun a kept e _ => (a.1.placement_ctlRead e).trans kept
  case h_4 => rfl

@[simp] theorem State.placement_hostReads (a len : Nat) : (s.hostReads a len).placement = s.placement :=
  State.foldl_field State.placement (fun t (e : Nat × Nat) => (t.hostRead e.1 e.2).2) (fun _ _ => rfl) _ s

/-! The record -/

@[simp] theorem State.placement_readFw (l : List (Nat × Nat)) : ∀ s : State, (s.readFw l).1.placement = s.placement := by
  induction l with
  | nil => exact fun _ => rfl
  | cons e l ih =>
    intro s
    obtain ⟨da, len⟩ := e
    have piece := s.placement_dmaRead byHub da len
    unfold State.readFw
    split <;> rename_i t _ read <;> rw [read] at piece
    · have rest := (ih t).trans piece
      split <;> rename_i read <;> rwa [read] at rest
    · exact piece

@[simp] theorem State.placement_readRecord (ext : HostReply) (da len : Nat) : (s.readRecord ext da len).1.placement = s.placement := by
  unfold State.readRecord
  split
  · rfl
  · split
    · split
      · rfl
      · dsimp only
        split <;> simp
    · split <;> simp

end Placement

/-- R531: a check refuses the record, and the placement is as before, or the code is OK. The checks in their order: the header is read,
its magic number, its length, the record is read, its CRC, its fields, the number of jobs, and its cores and ports. -/
theorem State.place1_refuses (s : State) (ext : HostReply) :
    (s.place1 ext).2.2.1 = 0 ∨ ((s.place1 ext).2.1 = 0 ∧ (s.place1 ext).1.placement = s.placement) := by
  have header := s.placement_readRecord ext s.place.addr 64
  unfold State.place1
  extract_lets da
  split <;> rename_i t _ read <;> rw [read] at header
  · exact .inr ⟨rfl, header⟩
  rename_i h
  have record := (t.placement_readRecord ext da (leAt h 8 4)).trans header
  split
  · exact .inr ⟨rfl, header⟩
  split
  · exact .inr ⟨rfl, header⟩
  split <;> rename_i read <;> rw [read] at record
  · exact .inr ⟨rfl, record⟩
  split
  · exact .inr ⟨rfl, record⟩
  split
  · exact .inr ⟨rfl, record⟩
  extract_lets r
  split
  · exact .inr ⟨rfl, record⟩
  split
  · exact .inr ⟨rfl, record⟩
  · exact .inr ⟨rfl, record⟩
  · split <;> exact .inl rfl

/-- Settles O35: every check that fails leaves the placement as the reads of the record did. -/
theorem placeChecksInOrder : Obligations.placeChecksInOrder := by
  intro s ext refused t
  obtain ⟨number, kept⟩ := (s.place1_refuses ext).resolve_left refused
  exact ⟨number, State.placement_eq_iff.mp kept⟩

end Sys2Proof.Machine

/-! Doorbells, module indexes, the queue commands and interrupts (R279, R371 to R377): one lemma per outcome, and O42 from them. -/

namespace Sys2Proof.Machine

/-! A host index (R375) -/

section Ring

variable {s : State} {q h : Nat}

theorem State.ringQueue_inactive (inactive : (s.qe q).kind = 0) : s.ringQueue q h = s.rejectQueue q 1 := by
  simp only [State.ringQueue, inactive, if_true]

section Active

variable (active : (s.qe q).kind ≠ 0)
include active

theorem State.ringQueue_unchanged (same : h = (s.qe q).hidx) : s.ringQueue q h = s := by
  simp only [State.ringQueue, if_neg active, if_pos same]

theorem State.ringQueue_outOfRange (changed : h ≠ (s.qe q).hidx) (bad : (s.qe q).doorbellOk h = false) : s.ringQueue q h = s.rejectQueue q 2 := by
  simp only [State.ringQueue, if_neg active, if_neg changed, bad, Bool.not_false, if_true]

end Active

section InRange

variable (changed : h ≠ (s.qe q).hidx) (ok : (s.qe q).doorbellOk h = true)
include changed ok

theorem State.ringQueue_submission (submission : (s.qe q).kind = 1) :
    s.ringQueue q h = (s.setQe q { s.qe q with hidx := h }).raiseDoorbell q (s.qe q).job := by
  simp [State.ringQueue, submission, changed, ok]

theorem State.ringQueue_completion (completion : 2 ≤ (s.qe q).kind) :
    s.ringQueue q h = (s.setQe q { s.qe q with hidx := h }).postLates q := by
  have active : (s.qe q).kind ≠ 0 := by omega
  have noSubmission : (s.qe q).kind ≠ 1 := by omega
  simp [State.ringQueue, active, noSubmission, changed, ok]

end InRange

end Ring

section Doorbell

variable {s : State} (hub : s.hubRuns = true) {off : Nat} (below : off < 2 ^ 19) {a : HostAcc}
include hub below

theorem execDoorbell_untaken (untaken : s.takes a.secure = false) (v : Nat) : execDoorbell off a v s = .next (s.send .hostUrPosted) := by
  simp only [execDoorbell, hub, Nat.not_le.mpr below, untaken, Bool.not_true, Bool.not_false, Bool.false_eq_true, or_self, if_false, if_true]

variable (takes : s.takes a.secure = true)
include takes

theorem execDoorbell_misaligned (misaligned : (a.width ≠ 4 ∧ a.width ≠ 8) ∨ off % a.width ≠ 0) (v : Nat) :
    execDoorbell off a v s = .next ((s.accessFault 0 1 off).send .hostUrPosted) := by
  simp only [execDoorbell, hub, takes, Nat.not_le.mpr below, if_pos misaligned, Bool.not_true, Bool.false_eq_true, or_self, if_false]

variable (width : a.width = 4 ∨ a.width = 8) (aligned : off % a.width = 0) (serves : s.serves = true)
include width aligned serves

/-- An aligned access reaches the table: the lower half of a word is the doorbell of its queue, the upper half is discarded. -/
theorem execDoorbell_aligned (v : Nat) :
    execDoorbell off a v s = .next (if off % 8 = 4 then s else s.ringQueue (off / 8) (v % 2 ^ 32)) := by
  have admitted : ¬((a.width ≠ 4 ∧ a.width ≠ 8) ∨ off % a.width ≠ 0) := by omega
  simp only [execDoorbell, hub, takes, serves, Nat.not_le.mpr below, if_neg admitted, Bool.not_true, Bool.false_eq_true, false_or, or_self,
    if_false]

theorem execDoorbell_rings (lower : off % 8 = 0) {v : Nat} {t : State} (rung : s.ringQueue (off / 8) (v % 2 ^ 32) = t) :
    execDoorbell off a v s = .next t := by
  rw [execDoorbell_aligned hub below takes width aligned serves, if_neg (by omega), rung]

end Doorbell

/-! A module index (R372) -/

section ModuleIndex

variable {s : State} (hub : s.hubRuns = true) {i q m : Nat} (due : s.que.midx[i]? = some (q, m))
  (first : ∀ e ∈ s.que.midx.take i, e.1 ≠ q) {t : State} (taken : { s with que := { s.que with midx := s.que.midx.eraseIdx i } } = t)
include hub due first taken

/-- The first index of a queue on its way is taken: stored, or rejected for an inactive queue or an index out of range. -/
theorem execMidxUpdate_first : execMidxUpdate i s = .next (if (s.qe q).kind ≠ 0 ∧ (s.qe q).midxOk m = true then (t.takeMidx q m).shadowQueue q
    else (t.rejectQueue q (if (s.qe q).kind = 0 then 1 else 3)).writeMidx (s.que.copies.take 1) q) := by
  subst taken
  have none : (s.que.midx.take i).any (fun e => decide (e.1 = q)) = false := by
    simpa only [List.any_eq_false, decide_eq_true_eq] using first
  simp only [execMidxUpdate, due, hub, none, Bool.not_true, Bool.or_self, Bool.false_eq_true, if_false]
  rfl

theorem execMidxUpdate_inRange (active : (s.qe q).kind ≠ 0) (ok : (s.qe q).midxOk m = true) :
    execMidxUpdate i s = .next ((t.takeMidx q m).shadowQueue q) := by
  rw [execMidxUpdate_first hub due first taken, if_pos ⟨active, ok⟩]

theorem execMidxUpdate_outOfRange (active : (s.qe q).kind ≠ 0) (bad : (s.qe q).midxOk m = false) :
    execMidxUpdate i s = .next ((t.rejectQueue q 3).writeMidx (s.que.copies.take 1) q) := by
  rw [execMidxUpdate_first hub due first taken, if_neg (by simp [bad]), if_neg active]

theorem execMidxUpdate_inactive (inactive : (s.qe q).kind = 0) :
    execMidxUpdate i s = .next ((t.rejectQueue q 1).writeMidx (s.que.copies.take 1) q) := by
  rw [execMidxUpdate_first hub due first taken, if_neg (by simp [inactive]), if_pos inactive]

end ModuleIndex

/-! Events and interrupts (R279, R376) -/

section Interrupts

variable {s : State} (hub : s.hubRuns = true)
include hub

theorem execQueueEventSend_sends {j : Nat} (job : j < 256) : execQueueEventSend j s = .next (s.sendEvent j) := by
  simp [execQueueEventSend, unit, job, hub]

section Vector

variable {v : Nat} (vector : v < 2048)
include vector

theorem execMsixVectorUnmask_untaken (untaken : s.takes true = false) : execMsixVectorUnmask v s = .next (s.send .hostUrPosted) := by
  simp [execMsixVectorUnmask, unit, vector, hub, untaken]

theorem execMsixVectorUnmask_unmasks (takes : s.takes true = true) : execMsixVectorUnmask v s =
    .next (({ s with host := { s.host with msix := tput s.host.msix (v * 4 + 3) 1 } } : State).sendPending v) := by
  simp [execMsixVectorUnmask, unit, vector, hub, takes]

end Vector

theorem execIntDelayExpire_ends {q : Nat} (queue : q < 65536) (interval : (s.qe q).interval = true) {t : State}
    (sent : (if (s.qe q).owed = true then s.sendMsix (s.qe q).vector else s) = t) : execIntDelayExpire q s = .next { t with
      que := { t.que with q := tput t.que.q q { s.qe q with interval := (s.qe q).owed, owed := false } } } := by
  subst sent
  simp [execIntDelayExpire, unit, queue, hub, interval]

end Interrupts

/-! Queue commands (R377) -/

theorem execQueCreate_overrun {s : State} {w c : Word} (manages : s.manages = true) (create : bits w 62 2 = 1) (pending : s.que.cmd = some c)
    (other : c ≠ w) : execQueCreate w s = .next { s with que := { s.que with overrun := true } } := by
  simp [execQueCreate, queRun, manages, create, pending, other]

/-- Before its own conditions a queue command answers NOT_READY, or PARAM for reserved bits. -/
theorem queRun_refuses {s : State} {op : Nat} {w : Word} (manages : s.manages = true) (idle : s.que.cmd = none ∨ s.que.cmd = some w)
    {body : State → Nat → State × Nat} {o : Host.Outcome State Fault Refusal} (command : queRun op w s body = o) (names : bits w 62 2 = op) :
    (s.serves = false → o = .next (s.queDone 4)) ∧ (s.serves = true → bits w 16 46 ≠ 0 → o = .next (s.queDone 1)) := by
  subst command
  exact ⟨fun early => queRun_notReady manages names idle early body, fun serves bad => queRun_reserved manages names idle serves bad body⟩

/-- A queue command reaches its own conditions: management firmware runs, no other command is pending, the module serves, the word names
the operation and its reserved bits are zero. -/
structure State.QueAdmits (s : State) (op : Nat) (w : Word) : Prop where
  manages : s.manages = true
  idle : s.que.cmd = none ∨ s.que.cmd = some w
  serves : s.serves = true
  reserved : bits w 16 46 = 0
  names : bits w 62 2 = op

theorem State.QueAdmits.runs {s : State} {op : Nat} {w : Word} (admits : s.QueAdmits op w) {body : State → Nat → State × Nat} {t : State}
    {code : Nat} (answer : body s (bits w 0 16) = (t, code)) : queRun op w s body = .next (t.queDone code) := by
  rw [queRun_runs admits.manages admits.names admits.idle admits.serves admits.reserved, answer]

section Create

variable {s : State} {w : Word} (admits : s.QueAdmits 1 w)
include admits

theorem execQueCreate_param (bad : s.que.newEntry.paramOk = false) : execQueCreate w s = .next (s.queDone 1) :=
  admits.runs (by simp [bad])

variable (ok : s.que.newEntry.paramOk = true)
include ok

theorem execQueCreate_exists (active : (s.qe (bits w 0 16)).kind ≠ 0) : execQueCreate w s = .next (s.queDone 2) :=
  admits.runs (by simp [ok, active])

variable (inactive : (s.qe (bits w 0 16)).kind = 0)
include inactive

theorem execQueCreate_inJob (used : s.queInJob (bits w 0 16) = true) : execQueCreate w s = .next (s.queDone 3) :=
  admits.runs (by simp [ok, inactive, used])

theorem execQueCreate_creates (unused : s.queInJob (bits w 0 16) = false) :
    execQueCreate w s = .next ((s.setQe (bits w 0 16) s.que.newEntry).queDone 0) :=
  admits.runs (by simp [ok, inactive, unused])

end Create

section Destroy

variable {s : State} {w : Word} (admits : s.QueAdmits 2 w)
include admits

theorem execQueDestroy_inJob (used : s.queInJob (bits w 0 16) = true) : execQueDestroy w s = .next (s.queDone 3) :=
  admits.runs (by simp [used])

variable (unused : s.queInJob (bits w 0 16) = false)
include unused

theorem execQueDestroy_inactive (inactive : (s.qe (bits w 0 16)).kind = 0) : execQueDestroy w s = .next (s.queDone 0) :=
  admits.runs (by simp [unused, inactive])

theorem execQueDestroy_destroys (active : (s.qe (bits w 0 16)).kind ≠ 0) :
    execQueDestroy w s = .next ((s.destroyQueue (bits w 0 16)).queDone 0) :=
  admits.runs (by simp [unused, active])

end Destroy

theorem execQueRead_reads {s : State} {w : Word} (admits : s.QueAdmits 3 w) {x : QEntry} (entry : s.qe (bits w 0 16) = x) :
    execQueRead w s = .next (({ s with que := { s.que with
      cfg0 := packFields [(32, x.delay), (27, x.log2), (16, x.vector), (8, b2n x.ien), (0, x.kind)]
      cfg1 := BitVec.ofNat 64 x.ring, cfg2 := BitVec.ofNat 64 x.shadow, job := x.job, readH := x.hidx, readM := x.midx } } : State).queDone 0) :=
  admits.runs (by rw [entry])

/-- Settles O42: a doorbell by what its index does, a module index by its range, the commands and interrupts by one lemma per outcome. -/
theorem doorbellsAndQueues : Obligations.doorbellsAndQueues := by
  intro s hub
  refine ⟨fun off a v below untaken => execDoorbell_untaken hub below untaken v,
    fun off a v below takes misaligned => execDoorbell_misaligned hub below takes misaligned v, ?doorbell, ?moduleIndex,
    fun j => execQueueEventSend_sends hub, fun v => execMsixVectorUnmask_untaken hub, fun v => execMsixVectorUnmask_unmasks hub,
    fun q queue interval => execIntDelayExpire_ends hub queue interval rfl, ?command,
    fun w c manages pending other names => execQueCreate_overrun manages names pending other⟩
  case doorbell =>
    intro off a v below width aligned takes serves q h e t
    refine ⟨fun upper => (execDoorbell_aligned hub below takes width aligned serves v).trans (congrArg _ (if_pos upper)), fun lower => ?_⟩
    have ring {u : State} (rung : s.ringQueue q h = u) := execDoorbell_rings hub below takes width aligned serves lower rung
    exact ⟨fun inactive => ring (State.ringQueue_inactive inactive), fun active same => ring (State.ringQueue_unchanged active same),
      fun active changed bad => ring (State.ringQueue_outOfRange active changed bad),
      fun submission changed ok => ring (State.ringQueue_submission changed ok submission),
      fun completion changed ok => ring (State.ringQueue_completion changed ok completion)⟩
  case moduleIndex =>
    intro i q m due first t e
    exact ⟨execMidxUpdate_inRange hub due first rfl, execMidxUpdate_outOfRange hub due first rfl, execMidxUpdate_inactive hub due first rfl⟩
  case command =>
    intro w manages idle q e each
    refine ⟨queRun_refuses manages idle (show queRun 1 w s _ = execQueCreate w s from rfl),
      queRun_refuses manages idle (show queRun 2 w s _ = execQueDestroy w s from rfl),
      queRun_refuses manages idle (show queRun 3 w s _ = execQueRead w s from rfl),
      fun serves reserved => ⟨fun create => ?_, fun destroy => ?_, fun read => ?_⟩⟩
    · have admits : s.QueAdmits 1 w := ⟨manages, idle, serves, reserved, create⟩
      exact ⟨execQueCreate_param admits, execQueCreate_exists admits, execQueCreate_inJob admits, execQueCreate_creates admits⟩
    · have admits : s.QueAdmits 2 w := ⟨manages, idle, serves, reserved, destroy⟩
      exact ⟨execQueDestroy_inJob admits, execQueDestroy_inactive admits, execQueDestroy_destroys admits⟩
    · exact execQueRead_reads ⟨manages, idle, serves, reserved, read⟩ rfl

end Sys2Proof.Machine

/-! Fault reports, the freeing of records, and the notices of other modules (R283, R397, R480, R481, R526): one lemma per outcome, and
O36 from them. -/

namespace Sys2Proof.Machine

/-! A report at its collector (R480, R526) -/

/-- A report reaches its collector, and the record that it creates or updates is sent on the trace lanes. -/
def State.noteReport (s : State) (r : Report) : State :=
  let v := s.collect r
  match v.2 with
  | some n => v.1.traceFrame 1 ((r.col + 5) % 6) n (tget (tget v.1.flt r.col).recs n).bytes
  | none => v.1

section Report

variable {s : State} {i : Nat} {r : Report} (due : s.reports[i]? = some r) (free : jobFaultClass r.cls = true → (s.job r.job).state ≠ 2)
  {t : State} (taken : { s with reports := s.reports.eraseIdx i } = t) {u : State}
  (noted : (if t.makesAlert r = true then t.raiseAlert 9 else t).noteReport r = u)
include due free taken noted

/-- A report of no job that is held: its alert, its record, and the fault that becomes pending at the job. -/
theorem execFaultReport_collects : execFaultReport i s = .next
    (if jobFaultClass r.cls = true ∧ r.job ≠ 0 ∧
        ((u.job r.job).state = 1 ∨ ((u.job r.job).state = 3 ∧ (!noticeFault (r.source, r.cls)) = true)) then
      u.setJob r.job { u.job r.job with faults := (u.job r.job).faults ++ [(r.source, r.cls)] }
    else u) := by
  subst taken noted
  have live : (jobFaultClass r.cls && decide ((({ s with reports := s.reports.eraseIdx i } : State).job r.job).state = 2)) = false := by
    rw [Bool.and_eq_false_imp]
    exact fun cls => decide_eq_false (free cls)
  simp only [execFaultReport, due, live, Bool.false_eq_true, if_false]
  rfl

theorem execFaultReport_pends (cls : jobFaultClass r.cls = true) (job : r.job ≠ 0)
    (runs : (u.job r.job).state = 1 ∨ ((u.job r.job).state = 3 ∧ noticeFault (r.source, r.cls) = false)) :
    execFaultReport i s = .next (u.setJob r.job { u.job r.job with faults := (u.job r.job).faults ++ [(r.source, r.cls)] }) := by
  rw [execFaultReport_collects due free taken noted, if_pos ⟨cls, job, by simpa using runs⟩]

theorem execFaultReport_joins (none : jobFaultClass r.cls = false ∨ r.job = 0 ∨
    ((u.job r.job).state = 3 ∧ noticeFault (r.source, r.cls) = true)) : execFaultReport i s = .next u := by
  rw [execFaultReport_collects due free taken noted, if_neg]
  rintro ⟨cls, job, runs⟩
  rcases none with other | unit | ⟨restart, notice⟩
  · simp [other] at cls
  · exact job unit
  · simp [restart, notice] at runs

end Report

/-! The freeing of a record (R481) -/

/-- A record leaves its collector, with a copy in the boot log. -/
def State.freeRecord (s : State) (col n : Nat) : State :=
  { s with flt := tput s.flt col { tget s.flt col with recs := tput (tget s.flt col).recs n default }
           flash := { s.flash with log := s.flash.log ++ [(tget (tget s.flt col).recs n).bytes ++ List.replicate 32 0] } }

section Record

variable {s : State} {col n : Nat} (collector : col < 6) (place : n < 256) {x : FltRec} (record : tget (tget s.flt col).recs n = x)
include collector place record

theorem execFaultRecordFree_early (unitFault : x.job = 0) (early : s.hubCount < x.updated + 10800000) :
    execFaultRecordFree col n s = .next s := by
  simp [execFaultRecordFree, unit, collector, place, record, unitFault, tenthSecond, early]

variable (hub : s.hubRuns = true) (valid : x.valid = true)
include hub valid

theorem execFaultRecordFree_unitFault (unitFault : x.job = 0) (late : x.updated + 10800000 ≤ s.hubCount) :
    execFaultRecordFree col n s = .next (s.freeRecord col n) := by
  have waits : ¬s.hubCount < x.updated + 10800000 := Nat.not_lt.mpr late
  simp [execFaultRecordFree, unit, collector, place, hub, record, valid, unitFault, tenthSecond, waits, State.freeRecord]

theorem execFaultRecordFree_settled (job : x.job ≠ 0) (late : x.updated + 1080000 ≤ s.hubCount)
    (settled : (s.job x.job).state = 0 ∨ ((s.job x.job).state = 2 ∧ (s.job x.job).mappedOut = []) ∨
      ((s.job x.job).state = 1 ∧ (s.job x.job).faults = [])) :
    execFaultRecordFree col n s = .next (s.freeRecord col n) := by
  have frees : (decide ((s.job x.job).state = 0) || (decide ((s.job x.job).state = 2) && (s.job x.job).mappedOut.isEmpty) ||
      (decide ((s.job x.job).state = 1) && (s.job x.job).faults.isEmpty)) = true := by
    simpa [or_assoc] using settled
  simp only [execFaultRecordFree, unit, collector, place, hub, record, valid, if_neg job, tenthSecond, late, frees, decide_true, Bool.and_self,
    if_true, Bool.not_true, Bool.or_self, Bool.false_eq_true, if_false, State.freeRecord]

end Record

/-! Notices of other modules (R283, R397) -/

section Notices

variable {s : State} (hub : s.hubRuns = true)
include hub

theorem execSegmentFaultNotice_reports (inst : Nat) : execSegmentFaultNotice inst s = .next
    ((s.live.filter fun e => e.2.rc.segmented && decide (e.2.rc.tag = inst)).foldl
      (fun s e => (if e.2.state = 1 ∧ e.2.faults = [] then s.setJob e.1 { s.job e.1 with heard := [] } else s).report
        ⟨0, 0x0B, srcOf 8 4, e.1, 20, 0, 0, 0⟩) s) := by
  simp only [execSegmentFaultNotice, hub, Bool.not_true, Bool.false_eq_true, if_false]

theorem execWindowEpochNotice_records {peer win : Nat} (module : peer < 256) (window : win < 16) (epoch : Nat) :
    execWindowEpochNotice peer win epoch s = .next { s with
      lnk := { s.lnk with mirror := tput s.lnk.mirror (peer * 16 + win) (epoch % 2 ^ 16) }
      jobs := tmap (fun _ x => if x.rc.segmented then
        { x with heard := (peer * 16 + win) :: x.heard.filter (· ≠ peer * 16 + win) } else x) s.jobs } := by
  simp only [execWindowEpochNotice, unit, module, window, hub, decide_true, Bool.and_self, if_true]

end Notices

/-- Settles O36: a report by what becomes of it at its job, a record by its time and job, and one lemma per notice. -/
theorem faultCollection : Obligations.faultCollection := by
  intro s
  refine ⟨?report, ?record, fun hub => ⟨execSegmentFaultNotice_reports hub,
    fun peer win epoch module window => execWindowEpochNotice_records hub module window epoch⟩⟩
  case report =>
    intro i r due free t t' v note
    exact ⟨fun ⟨cls, job, runs⟩ => execFaultReport_pends due free rfl rfl cls job runs, execFaultReport_joins due free rfl rfl⟩
  case record =>
    intro col n collector place hub k x valid
    exact ⟨execFaultRecordFree_unitFault collector place rfl hub valid, execFaultRecordFree_early collector place rfl,
      execFaultRecordFree_settled collector place rfl hub valid⟩

end Sys2Proof.Machine

/-! A step takes the front of the queue (95_what_each_step_holds.md, log entry 11): O1. -/

namespace Sys2Proof.Machine

/-- Settles O1: both clauses are the branches of `step` by the queue. -/
theorem stepRunsFront : Obligations.stepRunsFront := by
  refine ⟨fun i rest s => rfl, fun s empty => ?idle⟩
  case idle => rw [step, empty]

end Sys2Proof.Machine

/-! A command stops exactly when it names a missing unit (log entry 14): each shared runner of the dispatch answers by the units that it
names, each command by its runner, and O57 follows. -/

namespace Sys2Proof.Machine

/-- The answer to a command: a next state where the units that it names exist, the fault noUnit where one is missing. -/
structure StopsBy (units : Bool) (o : Host.Outcome State Fault Refusal) : Prop where
  runs : units = true → ∃ t, o = .next t
  stops : units = false → o = .fault .noUnit

namespace StopsBy

theorem unit (ok : Bool) (t : State) : StopsBy ok (unit ok t) :=
  ⟨fun h => ⟨t, by rw [Machine.unit, if_pos h]⟩, fun h => by rw [Machine.unit, h]; rfl⟩

/-- A command that names no unit. -/
theorem next (t : State) : StopsBy true (.next t) := ⟨fun _ => ⟨t, rfl⟩, nofun⟩

theorem ite {units : Bool} {c : Prop} [Decidable c] {o o' : Host.Outcome State Fault Refusal} (h : StopsBy units o) (k : StopsBy units o') :
    StopsBy units (if c then o else o') := by
  split
  · exact h
  · exact k

/-- An instruction names its core (R25). -/
theorem core (c : Nat) (s : State) (body : State → Core → Ir) : StopsBy (decide (c < 1280)) (runCore c s body) :=
  ⟨fun h => runCore_next (of_decide_eq_true h) body, fun h => runCore_noUnit (Nat.not_lt.mp (of_decide_eq_false h)) body⟩

theorem msgArrive (i : Nat) (s : State) : StopsBy true (execMsgArrive i s) := by
  unfold execMsgArrive
  split
  · exact next _
  · exact .ite (next _) (.ite (next _) (next _))

theorem nackEpoch (i : Nat) (s : State) : StopsBy true (execNackEpoch i s) := by
  unfold execNackEpoch
  split
  · exact next _
  · exact .ite (next _) (.ite (next _) (.ite (next _) (next _)))

theorem creditRelease (i : Nat) (s : State) : StopsBy true (execCreditRelease i s) := by
  unfold execCreditRelease
  split
  · exact next _
  · exact .ite (next _) (next _)

theorem creditArrive (i : Nat) (s : State) : StopsBy true (execCreditArrive i s) := by
  unfold execCreditArrive
  split
  · exact next _
  · exact .ite (next _) (.ite (next _) (.ite (next _) (next _)))

theorem ccInvalidate (i : Nat) (s : State) : StopsBy true (execCcInvalidate i s) := by
  unfold execCcInvalidate
  split
  · exact next _
  · exact next _

theorem faultReport (i : Nat) (s : State) : StopsBy true (execFaultReport i s) := by
  unfold execFaultReport
  split
  · exact next _
  · exact next _

theorem midxUpdate (i : Nat) (s : State) : StopsBy true (execMidxUpdate i s) := by
  unfold execMidxUpdate
  split
  · exact next _
  · exact .ite (next _) (next _)

theorem remoteTimeout (i : Nat) (s : State) : StopsBy true (execRemoteTimeout i s) := by
  unfold execRemoteTimeout
  split
  · exact next _
  · exact next _

theorem ctxDestroy (w : Word) (s : State) : StopsBy true (execCtxDestroy w s) := .ite (next _) (next _)

theorem bankRevoke (w : Word) (s : State) : StopsBy true (execBankRevoke w s) := .ite (next _) (next _)

end StopsBy

theorem exec_stopsBy (i : Instr) (s : State) : StopsBy i.wellFormed (exec i s) := by
  cases i with
  | alu | mul | divide =>
    dsimp only [Instr.wellFormed, exec, execAlu, execMul, execDivide, regOp]
    exact .core ..
  | addi | andi | ori | xori | slti | sltiu =>
    dsimp only [Instr.wellFormed, exec, execAddi, execAndi, execOri, execXori, execSlti, execSltiu, immOp]
    exact .core ..
  | ld | vld | st | vst =>
    dsimp only [Instr.wellFormed, exec, execLd, execVld, execLoad, execSt, execVst, execStore]
    exact .core ..
  | illegalOpcode | shi | li | liu | lih | amo | pred | vint | vfp | vfma | vfn | vcmp | vred | vperm | vbcast | vmovs | vcvt | vquant
  | vplane | nop | br | jal | jalr | fence | rdctr | endRole | sysr | sysw | sclr | ctxset | uenter | mldw | mop | mrd | mclr | qset | qget
  | qstart | qtake | qput | qcancel | gbind | gsendv | gsends | grecv | grecvv | gfree | gstat | nissue | nwait | nstat =>
    dsimp only [Instr.wellFormed, exec]
    exact .core ..
  | msgArrive => exact .msgArrive ..
  | nackEpoch => exact .nackEpoch ..
  | creditRelease => exact .creditRelease ..
  | creditArrive => exact .creditArrive ..
  | ccInvalidate => exact .ccInvalidate ..
  | faultReport => exact .faultReport ..
  | midxUpdate => exact .midxUpdate ..
  | remoteTimeout => exact .remoteTimeout ..
  | ctxDestroy => exact .ctxDestroy ..
  | bankRevoke => exact .bankRevoke ..
  | jobPlace | segmentFaultNotice | ctxCreate | bankGrant | lowerHost | kvRotate | jobHold | jobRelease | ctxPage | counterPageUpdate
  | sessionBind | sessionReport | payloadSet | payloadRetire | sessionKvRotate | measure | getCertificate | challenge | getMeasurements
  | keyExchange | keyUpdate | heartbeat | ideKm | configRequest | bar2Read | bar2Write | registerWrite | function1Write | atomicopRequest
  | doorbell | queCreate | queDestroy | queRead | flrFunction0 | flrFunction1 | d3hotEntry | d0Return | guestWindowAccess | guestTimeout
  | guestRequest | descriptorResume | crcModeSet | crcModeClear | mboxReadLog | mboxStage | mboxCommit | mboxAbort | windowCreate
  | windowDelete | hubPllLoss | hubRound | capUpdate | emergencyEnd | overcurrentClamp | halfMastEntry | halfMastDrained | halfMastExit
  | inputLoss | inputRestore | perstNAssert | perstNDeassert | meterReadState | meterReadRecord | meterReadCert | meterReadLog
  | meterDemand | intervalRecord | coverOpening | meterSupplyEvent | energyStore | meterLost | hotReset | pcieCompletion | endSession
  | tachFactorSet | fabricIdProvision | flowTachEdge => exact .next _
  | blockShiftStart | arrayRowEnter | streamPrefetch | streamLineArrive | streamWrite | impreciseException | managementRequest
  | bankProgramAdmit | halyardGrant | correctedWriteback | mergeAgeFlush | sealedWriteConfirm | scrubLine | scrubWriteback
  | regionMapWrite | scrubLapLate | earith | efma | efunc | erope | ecvt | nbRed | nbFold | fop | xop | nbLoop | rowcpy | skey | nbEnd
  | nbBoundaryService | nbPause | nbResume | refreshDue | refreshOwedIssue | recalWindow | buntingRerequest | testModeEnable | ccAccess
  | ccFill | clockChange | ccContextInvalidate | jobRetire | jobRestart | queueEventSend | doorbellEvent | restartedEvent
  | keyRotatedEvent | reqGenerate | reqPrefill | reqEmbed | reqTile | reqCancel | verificationStep | streamEntryPost | faultRecordFree
  | windowEpochNotice | payloadRotation | intDelayExpire | dmaCopy | dmaFill | dmaCheck | bandToPlanar | planarToBand | planeSplit
  | planeMerge | sealPayload | openPayload | pseal | popen | prewrap | pdiscard | descriptorComplete | channelDisable | channelEnable
  | dmaProdWrite | crcValueWrite | portRetry | frameWrite | frameRead | readCompletion | writeAcknowledgement | frameIdle
  | frameManagement | frameNak | portKeyUpdate | portSignalLoss | d2dCrcFail | d2dModuleFail | pairLost | diePllLoss
  | dieHousekeepingRound | traceRecordWrite | syncRequest | diePllRelock | thermalTrip | traceIdle | msixVectorUnmask => exact .unit ..

/-- Settles O57: every command answers through a runner that stops by the units named. -/
theorem faultsOnlyForMissingUnits : Obligations.faultsOnlyForMissingUnits := by
  intro i s
  have answer := exec_stopsBy i s
  exact ⟨answer.runs, answer.stops⟩

end Sys2Proof.Machine

/-! What a port does with a frame before the frame's own effect (R389 to R391): O49 from `receive`'s outcomes and the fields of an
accepted port. -/

namespace Sys2Proof.Machine

/-- R391: an acknowledgement changes the retry buffer and nothing else. -/
theorem LPort.ackUpTo_eq (x : LPort) (a : Nat) : x.ackUpTo a = { x with retry := (x.ackUpTo a).retry } := by
  unfold LPort.ackUpTo
  split_ifs <;> rfl

/-- R391: what stays in the retry buffer was there, and an acknowledgement of a frame sent does not cover it. -/
theorem LPort.mem_retry_ackUpTo {x : LPort} {a : Nat} {e : Nat × Frame} (kept : e ∈ (x.ackUpTo a).retry) :
    e ∈ x.retry ∧ (a ≠ 0 → a ≤ x.tx → a < e.2.ctr) := by
  unfold LPort.ackUpTo at kept
  split at kept
  case isTrue none => exact ⟨kept, fun some => absurd none some⟩
  split at kept <;> simp only [List.mem_filter, Bool.and_eq_true, decide_eq_true_eq] at kept
  case isTrue => exact ⟨kept.1, fun _ _ => kept.2.2⟩
  case isFalse beyond => exact ⟨kept.1, fun _ sent => absurd sent beyond⟩

/-- R391: an accepted frame moves the receive counter, phase and key, ends a row of failures, adds its credits and owes its units. -/
theorem LPort.accept_eq (x : LPort) (typ : Nat) (f : Frame) : x.accept typ f = { x with
    retry := (x.ackUpTo f.ack).retry, rx := f.ctr, rxPhase := f.phase, rxKey := x.keyOf f.phase
    rxNew := (x.rxNew && decide (f.phase = x.rxPhase)) || startsUpdate typ f, fails := 0
    credits := tput x.credits f.creditVc (tget x.credits f.creditVc + f.creditUnits)
    owe := tput x.owe f.vc (tget x.owe f.vc + frameUnits f.data) } := by
  rw [LPort.accept, LPort.ackUpTo_eq]
  rfl

/-- R391: the three reasons for which a port does not accept a frame of type `typ`, for the command `i` that receives it. -/
theorem refusals_of_receive {s : State} {p typ : Nat} {fr : Frame} {i : Instr} {body : State → State}
    (receives : exec i s = receive p typ fr s body) (h : Hears s p typ) :
    (fr.ctr < (s.lport p).expects fr → exec i s = .next (s.setLport p { s.lport p with replay := sat 16 ((s.lport p).replay + 1) })) ∧
    ((s.lport p).expects fr < fr.ctr → exec i s = .next (s.sendNak p)) ∧
    (fr.ctr = (s.lport p).expects fr → (s.lport p).tagOk typ fr = false →
      let t := (s.setLport p { s.lport p with tagFail := sat 16 ((s.lport p).tagFail + 1), fails := (s.lport p).fails + 1 }).sendNak p
      exec i s = .next (if 3 ≤ (s.lport p).fails then t.portDown p else t)) :=
  ⟨fun old => receives.trans (receive_replay h old body), fun gap => receives.trans (receive_gap h gap body),
    fun next bad => receives.trans (receive_badTag h next bad body)⟩

/-- Settles O49: each type of frame goes through `receive`, and an accepted port has the fields of `LPort.accept_eq`. -/
theorem framesInOrder : Obligations.framesInOrder := by
  intro s p fr
  refine ⟨refusals_of_receive (exec_frameWrite ..), refusals_of_receive (exec_frameRead ..), refusals_of_receive (exec_readCompletion ..),
    refusals_of_receive (exec_writeAcknowledgement ..), refusals_of_receive (exec_frameIdle ..),
    refusals_of_receive (exec_frameManagement ..), refusals_of_receive (exec_frameNak ..), fun typ => ?accepted⟩
  case accepted =>
    rw [LPort.accept_eq]
    exact ⟨rfl, rfl, rfl, rfl, rfl, by simp, by simp [frameUnits], fun e => LPort.mem_retry_ackUpTo⟩

end Sys2Proof.Machine

/-! The SPDM responder (R422 to R424, R438): O40 from `spdmRun`'s two outcomes. -/

namespace Sys2Proof.Machine

variable {s : State}

theorem spdmRun_answers (manages : s.manages = true) (body : State → State) : spdmRun s body = .next (body s) := by
  rw [spdmRun, if_pos manages]

/-- R438: in recovery no message is answered. -/
theorem spdmRun_recovery (recovery : s.boot.state = 4) (body : State → State) : spdmRun s body = .next s := by
  simp [spdmRun, State.manages, recovery]

theorem tenantRun_recovery (recovery : s.boot.state = 4) (i : Nat) (body : State → State) : tenantRun i s body = .next s :=
  spdmRun_recovery recovery _

theorem boundRun_recovery (recovery : s.boot.state = 4) (i : Nat) (body : State → Nat → State) : boundRun i s body = .next s :=
  tenantRun_recovery recovery i _

theorem sessRun_recovery (recovery : s.boot.state = 4) (i : Nat) (body : State → Sess → State) : sessRun i s body = .next s :=
  tenantRun_recovery recovery i _

section Responder

variable (manages : s.manages = true)
include manages

theorem execGetCertificate_within {off : Nat} (within : off < ensignChain.length) (len : Nat) :
    execGetCertificate off len s = .next (s.send (.spdm 0 0x02 ((ensignChain.drop off).take len))) := by
  rw [execGetCertificate, spdmRun_answers manages, if_neg (Nat.not_le.mpr within)]

theorem execGetCertificate_beyond {off : Nat} (beyond : ensignChain.length ≤ off) (len : Nat) :
    execGetCertificate off len s = .next (s.send (.spdmError 1)) := by
  rw [execGetCertificate, spdmRun_answers manages, if_pos beyond]

theorem execChallenge_signs (nonce : Bytes) :
    execChallenge nonce s = .next (s.signed 0x03 nonce (sha3of384 ensignChain ++ sha3of384 s.blocks)) :=
  spdmRun_answers manages _

/-- R424: the answer by the index: the number of blocks, one block, all of them, or InvalidRequest. -/
theorem execGetMeasurements_answers (idx : Nat) (nonce : Bytes) : execGetMeasurements idx nonce s =
    .next (if idx = 0 then s.signed 0x60 nonce [7] else if idx < 8 then s.signed 0x60 nonce (s.dmtfBlock idx)
      else if idx = 0xFF then s.signed 0x60 nonce s.blocks else s.send (.spdmError 1)) :=
  spdmRun_answers manages _

theorem execKeyExchange_opens {i : Nat} (free : (List.range 8).find? (fun i => !(s.sessOf i).active) = some i) (rp : Bool) (req : Bytes) :
    execKeyExchange rp req s = .next ((({ s with fresh := s.fresh + 1 } : State).setSess i { (default : Sess) with
      active := true, rootPort := rp, secret := Config.kemSecret req s.fresh }).send (.spdm i 0x64 (Config.kemResponse req s.fresh))) := by
  rw [execKeyExchange, spdmRun_answers manages, free]

theorem execKeyExchange_full (full : (List.range 8).find? (fun i => !(s.sessOf i).active) = none) (rp : Bool) (req : Bytes) :
    execKeyExchange rp req s = .next (s.send (.spdmError 0x0A)) := by
  rw [execKeyExchange, spdmRun_answers manages, full]

end Responder

/-- Settles O40: each message by its answer, and in recovery all of them by `spdmRun_recovery`. -/
theorem responderCommands : Obligations.responderCommands := by
  refine ⟨fun s manages => ?answers, fun s recovery => ?recovery⟩
  case answers =>
    refine ⟨fun off len within => execGetCertificate_within manages within len,
      fun off len beyond => execGetCertificate_beyond manages beyond len, fun nonce => ⟨execChallenge_signs manages nonce, ?measurements⟩,
      fun rp req => ⟨fun i free => execKeyExchange_opens manages free rp req, fun full => execKeyExchange_full manages full rp req⟩⟩
    case measurements =>
      have answer := fun idx => execGetMeasurements_answers manages idx nonce
      refine ⟨(answer 0).trans ?count, (answer 0xFF).trans ?all, fun k low high => (answer k).trans ?one,
        fun k high notAll => (answer k).trans ?other⟩
      case count => rw [if_pos rfl]; rfl
      case all => rw [if_neg (by decide), if_neg (by decide), if_pos rfl]; rfl
      case one => rw [if_neg (by omega), if_pos (by omega)]; rfl
      case other => rw [if_neg (by omega), if_neg (by omega), if_neg notAll]
  case recovery =>
    have silent := spdmRun_recovery recovery
    have tenant := tenantRun_recovery recovery
    have bound := boundRun_recovery recovery
    have session := sessRun_recovery recovery
    exact ⟨fun _ _ => (exec_getCertificate ..).trans (silent _), fun _ => (exec_challenge ..).trans (silent _),
      fun _ _ => (exec_getMeasurements ..).trans (silent _), fun _ _ => (exec_keyExchange ..).trans (silent _),
      fun i => ⟨(exec_keyUpdate ..).trans (session ..), (exec_heartbeat ..).trans (session ..), (exec_endSession ..).trans (session ..),
        (exec_sessionReport ..).trans (bound ..), (exec_payloadRetire ..).trans (bound ..), (exec_sessionKvRotate ..).trans (bound ..),
        fun _ _ _ => (exec_sessionBind ..).trans (tenant ..), fun _ => (exec_payloadSet ..).trans (bound ..),
        fun _ _ => (exec_measure ..).trans (bound ..), fun _ _ => (exec_ideKm ..).trans (session ..)⟩⟩

end Sys2Proof.Machine

/-! The transforms of the DMA operations (R307 to R309, R349, R355, R357): each undoes its counterpart, and O46 from them. -/

namespace Sys2Proof.Machine

/-! AES-256-GCM (R308, R357) -/

theorem xorBytes_cancel : ∀ {a b : Bytes}, a.length ≤ b.length → xorBytes (xorBytes a b) b = a
  | [], _, _ => rfl
  | x :: a, y :: b, h => by
    have rest := xorBytes_cancel (a := a) (b := b) (Nat.le_of_succ_le_succ h)
    simp only [xorBytes] at rest
    simp [xorBytes, rest]

@[simp] theorem gcmCrypt_length (key iv x : Bytes) : (gcmCrypt key iv x).length = x.length := by
  simp [gcmCrypt, xorBytes]

/-- Counter mode with the same key stream undoes itself. -/
theorem gcmCrypt_gcmCrypt (key iv x : Bytes) : gcmCrypt key iv (gcmCrypt key iv x) = x := by
  rw [gcmCrypt, gcmCrypt_length, gcmCrypt]
  exact xorBytes_cancel (by simp)

@[simp] theorem gcmSeal_length (key iv aad pt : Bytes) : (gcmSeal key iv aad pt).length = pt.length + 16 := by
  simp [gcmSeal]

theorem gcmOpen_gcmSeal (key iv aad pt : Bytes) : gcmOpen key iv aad (gcmSeal key iv aad pt) = some pt := by
  have text : (gcmSeal key iv aad pt).take pt.length = gcmCrypt key iv pt := List.take_left' (gcmCrypt_length ..)
  have tag : (gcmSeal key iv aad pt).drop pt.length = gcmTag key iv aad (gcmCrypt key iv pt) := List.drop_left' (gcmCrypt_length ..)
  simp [gcmOpen, text, tag, gcmCrypt_gcmCrypt]

/-! Images (R307, R309) -/

/-- A field at the front of a record. -/
theorem leAt_front (n v : Nat) (l : Bytes) : leAt (leBytes n v ++ l) 0 n = v % 256 ^ n := by
  rw [leAt, List.drop_zero, List.take_left' (leBytes_length n v), ofLe_leBytes]

/-- A field behind the first one. -/
theorem leAt_behind {m o : Nat} (behind : m ≤ o) (v : Nat) (l : Bytes) (n : Nat) : leAt (leBytes m v ++ l) o n = leAt l (o - m) n := by
  rw [leAt, List.drop_append, List.drop_of_length_le (by simpa using behind), leBytes_length, List.nil_append, leAt]

@[simp] theorem imageHeader_length (ctx gen sq da : Nat) (pd : Bytes) : (imageHeader ctx gen sq da pd).length = 64 := by
  simp [imageHeader]

/-- What the header of an image says of its context, generation, seal number, size, fill, position and address. -/
structure HeaderSays (h : Bytes) (ctx gen sq size fill pos da : Nat) : Prop where
  magic : leAt h 0 4 = 0x4B565031
  version : leAt h 4 2 = 1
  ctx : leAt h 6 1 = ctx
  gen : leAt h 7 1 = gen
  sq : leAt h 8 4 = sq
  size : leAt h 0xC 2 = size
  fill : leAt h 0xE 2 = fill
  pos : leAt h 0x10 4 = pos
  da : leAt h 0x18 8 = da

theorem imageHeader_says {ctx gen sq da : Nat} (pd : Bytes) (hctx : ctx < 256) (hgen : gen < 4) (hsq : sq < 2 ^ 32) (hda : da < 2 ^ 64) :
    HeaderSays (imageHeader ctx gen sq da pd) ctx gen sq (pdSize pd) (pdFill pd) (pdPos pd) da := by
  have size : pdSize pd < 2 ^ 10 := Nat.mod_lt _ (by decide)
  have fill : pdFill pd < 2 ^ 9 := Nat.mod_lt _ (by decide)
  have pos : pdPos pd < 2 ^ 21 := Nat.mod_lt _ (by decide)
  constructor <;> simp [imageHeader, leAt_front, leAt_behind] <;> omega

theorem sealImage_header (key : Bytes) (ctx gen sq da : Nat) (pd body : Bytes) :
    (sealImage key ctx gen sq da pd body).take 64 = imageHeader ctx gen sq da pd := by
  rw [sealImage, List.append_assoc, List.take_left' (imageHeader_length ..)]

theorem sealImage_text (key : Bytes) (ctx gen sq da : Nat) {pd body : Bytes} (whole : body.length = pdSize pd * 4096) :
    ((sealImage key ctx gen sq da pd body).drop 64).take (pdSize pd * 4096 + 16) =
      gcmSeal key (imageIv sq) (imageHeader ctx gen sq da pd) body := by
  rw [sealImage, List.append_assoc, List.drop_left' (imageHeader_length ..), List.take_left' (by rw [gcmSeal_length, whole])]

section Image

variable {key pd pd' body : Bytes} {ctx gen sq da : Nat} (hctx : ctx < 256) (hgen : gen < 4) (hsq : sq < 2 ^ 32) (hda : da < 2 ^ 64)
include hctx hgen hsq hda

theorem openImage_sealImage (whole : body.length = pdSize pd * 4096) (gen' : pdGen pd' = gen) (sq' : pdSeal pd' = sq)
    (size' : pdSize pd' = pdSize pd) (fill' : pdFill pd' = pdFill pd) (pos' : pdPos pd' = pdPos pd) :
    openImage key ctx da pd' (sealImage key ctx gen sq da pd body) = some body := by
  have header := imageHeader_says pd hctx hgen hsq hda
  simp [openImage, sealImage_header, sealImage_text key ctx gen sq da whole, gcmOpen_gcmSeal, header.magic, header.version, header.ctx,
    header.gen, header.sq, header.size, header.fill, header.pos, header.da, gen', sq', size', fill', pos', Nat.mod_eq_of_lt hgen]

/-- R309: an image of another context does not open. -/
theorem openImage_other {n : Nat} (other : n ≠ ctx) : openImage key n da pd' (sealImage key ctx gen sq da pd body) = none := by
  have header := imageHeader_says pd hctx hgen hsq hda
  simp [openImage, sealImage_header, header.ctx, Ne.symm other]

end Image

/-! The band reshuffles (R355) -/

/-- An entry of a table that is laid out row by row. -/
theorem getElem?_flatMap_rows {α : Type} (f : Nat → Nat → α) (m : Nat) {n b p : Nat} (hb : b < n) (hp : p < m) :
    ((List.range n).flatMap fun b => (List.range m).map (f b))[b * m + p]? = some (f b p) := by
  have rows : ∀ k, ((List.range k).flatMap fun b => (List.range m).map (f b)).length = k * m := by
    simp [List.length_flatMap]
  induction n with
  | zero => omega
  | succ n ih =>
    rw [List.range_succ, List.flatMap_append]
    rcases Nat.lt_or_eq_of_le (Nat.le_of_lt_succ hb) with lower | last
    · have within : b * m + p < n * m := by nlinarith
      rw [List.getElem?_append_left (by rwa [rows]), ih lower]
    · subst last
      rw [List.getElem?_append_right (by rw [rows]; omega), rows, Nat.add_sub_cancel_left]
      simp [hp]

/-- The rows of a table of consecutive numbers. -/
theorem flatMap_rows_eq_range (n m : Nat) : ((List.range n).flatMap fun p => (List.range m).map fun b => p * m + b) = List.range (n * m) := by
  induction n with
  | zero => simp
  | succ n ih => rw [List.range_succ, List.flatMap_append, ih, Nat.succ_mul, List.range_add]; simp

section Samples

variable {x : Bytes} {sz n : Nat}

theorem takeSamples_length (whole : x.length = n * sz) {l : List Nat} (within : ∀ i ∈ l, i < n) :
    (takeSamples x sz l).length = l.length * sz := by
  induction l with
  | nil => simp [takeSamples]
  | cons i l ih =>
    have rest := ih fun j hj => within j (List.mem_cons_of_mem _ hj)
    have room : i * sz + sz ≤ x.length := by
      rw [whole, ← Nat.succ_mul]
      exact Nat.mul_le_mul_right _ (within i List.mem_cons_self)
    simp only [takeSamples, List.flatMap_cons, List.length_append, List.length_take, List.length_drop, List.length_cons] at rest ⊢
    rw [rest, Nat.succ_mul]
    omega

/-- A sample of what is taken is the sample that was taken there. -/
theorem sample_takeSamples (whole : x.length = n * sz) {l : List Nat} (within : ∀ i ∈ l, i < n) {j i : Nat} (at' : l[j]? = some i) :
    ((takeSamples x sz l).drop (j * sz)).take sz = (x.drop (i * sz)).take sz := by
  induction l generalizing j with
  | nil => simp at at'
  | cons k l ih =>
    have one : ((x.drop (k * sz)).take sz).length = sz := by
      have first := takeSamples_length (l := [k]) whole (by simpa using within k List.mem_cons_self)
      simpa [takeSamples] using first
    simp only [takeSamples, List.flatMap_cons]
    cases j with
    | zero =>
      obtain rfl : k = i := by simpa using at'
      rw [Nat.zero_mul, List.drop_zero, List.take_left' one]
    | succ j =>
      rw [Nat.succ_mul, Nat.add_comm, ← List.drop_drop, List.drop_left' one]
      exact ih (fun i hi => within i (List.mem_cons_of_mem _ hi)) (by simpa using at')

/-- All samples in order are the string itself. -/
theorem takeSamples_range (whole : x.length = n * sz) : takeSamples x sz (List.range n) = x := by
  have upTo : ∀ k, k ≤ n → takeSamples x sz (List.range k) = x.take (k * sz) := by
    intro k hk
    induction k with
    | zero => simp [takeSamples]
    | succ k ih =>
      have before := ih (by omega)
      rw [takeSamples] at before
      rw [takeSamples, List.range_succ, List.flatMap_append, before, Nat.succ_mul, List.take_add]
      simp
  rw [upTo n le_rfl, ← whole, List.take_length]

end Samples

theorem planarToBand_bandToPlanar {x : Bytes} {px bands sz : Nat} (hbands : 0 < bands) (hsz : 0 < sz) (whole : x.length = px * bands * sz) :
    planarToBand (bandToPlanar x bands sz) bands sz = x := by
  have pixels : px * bands * sz / (bands * sz) = px := by
    rw [Nat.mul_assoc, Nat.mul_div_cancel _ (Nat.mul_pos hbands hsz)]
  set order := (List.range bands).flatMap fun b => (List.range px).map fun p => p * bands + b with horder
  have within : ∀ i ∈ order, i < px * bands := by
    intro i hi
    simp only [horder, List.mem_flatMap, List.mem_range, List.mem_map] at hi
    obtain ⟨b, hb, p, hp, rfl⟩ := hi
    nlinarith
  have planar : bandToPlanar x bands sz = takeSamples x sz order := by rw [bandToPlanar, whole, pixels]
  have length : (takeSamples x sz order).length = px * bands * sz := by
    rw [takeSamples_length whole within, horder]
    simp [List.length_flatMap, Nat.mul_comm]
  calc planarToBand (bandToPlanar x bands sz) bands sz
      = takeSamples (takeSamples x sz order) sz ((List.range px).flatMap fun p => (List.range bands).map fun b => b * px + p) := by
        rw [planar, planarToBand, length, pixels]
    _ = takeSamples x sz ((List.range px).flatMap fun p => (List.range bands).map fun b => p * bands + b) := by
        simp only [takeSamples, List.flatMap_assoc, List.flatMap_map]
        refine List.flatMap_congr fun p hp => List.flatMap_congr fun b hb => ?_
        exact sample_takeSamples whole within
          (getElem?_flatMap_rows (fun b p => p * bands + b) px (List.mem_range.mp hb) (List.mem_range.mp hp))
    _ = x := by rw [flatMap_rows_eq_range, takeSamples_range whole]

/-! FILL (R349) -/

theorem fillBytes_getElem? (pat : Nat) {n i : Nat} (hi : i < n) : (fillBytes pat n)[i]? = some (BitVec.ofNat 8 (pat / 256 ^ (i % 8))) := by
  have byte : BitVec.ofNat 8 (pat / 256 ^ (i % 8) % 256) = BitVec.ofNat 8 (pat / 256 ^ (i % 8)) := by
    simp [← BitVec.toNat_inj]
  simp only [fillBytes, List.getElem?_map, List.getElem?_range hi, Option.map_some, leBytes_getD 8 pat (i % 8) (Nat.mod_lt _ (by decide)), byte]

/-- Settles O46: each transform by the lemma that undoes it. -/
theorem dmaTransforms : Obligations.dmaTransforms := by
  refine ⟨gcmOpen_gcmSeal, ?images, fun x px bands sz hbands hsz whole => planarToBand_bandToPlanar hbands hsz whole,
    fun pat n i hi => fillBytes_getElem? pat hi⟩
  case images =>
    intro key pd pd' body ctx gen sq da hctx hgen hsq hda whole gen' sq' size' fill' pos'
    exact ⟨openImage_sealImage hctx hgen hsq hda whole gen' sq' size' fill' pos',
      fun n _ other => openImage_other hctx hgen hsq hda other⟩

end Sys2Proof.Machine

/-! Mailbox and window commands (R395, R397, R399, R435, R437, R439): one lemma per outcome of a command, and O48 from them. -/

namespace Sys2Proof.Machine

section Mailbox

variable {s : State} {w : Word} (hub : s.hubRuns = true) (mine : s.mbox.cmd = none ∨ s.mbox.cmd = some w)
include hub mine

section ReadLog

variable (op : bits w 60 4 = 1)
include op

theorem execMboxReadLog_outside (outside : 511 < bits w 0 13) : execMboxReadLog w s = .next (s.mboxDone 1) := by
  rw [execMboxReadLog, mboxRun_runs hub op mine, if_pos outside]

theorem execMboxReadLog_fills (within : bits w 0 13 ≤ 511) : execMboxReadLog w s = .next (({ s with mbox := { s.mbox with
    window := windowCells ((List.range 64).flatMap fun i => logRecord s.flash.log (64 * bits w 0 13 + i)) } } : State).mboxDone 0) := by
  rw [execMboxReadLog, mboxRun_runs hub op mine, if_neg (Nat.not_lt.mpr within)]

end ReadLog

section Stage

variable (op : bits w 60 4 = 2)
include op

theorem execMboxStage_outside (outside : 6143 < bits w 0 13) (m : SlotInfo) : execMboxStage w m s = .next (s.mboxDone 1) := by
  rw [execMboxStage, mboxRun_runs hub op mine, if_pos outside]

/-- R439: what STAGE makes of the marker: chunk 0 erases it, the last chunk brings it, and every other one keeps it. -/
theorem execMboxStage_within (within : bits w 0 13 ≤ 6143) (m : SlotInfo) {t : State} {x : SlotInfo}
    (chunk : (if m.present then ({ s with flash := { s.flash with
        chunks := tput s.flash.chunks (slotBase s.inactiveSlot / 4096 + bits w 0 13) (fitBytes 4096 (tgets s.mbox.window 0 4096)) } } : State)
      else s) = t)
    (marker : (if bits w 0 13 = 0 then { m with markerSeq := 0, markerValid := false, markerDigest := [] }
      else if bits w 0 13 = 6143 then m
      else { m with markerSeq := (s.slot s.inactiveSlot).markerSeq, markerValid := (s.slot s.inactiveSlot).markerValid
                    markerDigest := (s.slot s.inactiveSlot).markerDigest }) = x) :
    execMboxStage w m s = .next ((t.setSlot s.inactiveSlot x).mboxDone (if m.present then 0 else 2)) := by
  rw [execMboxStage, mboxRun_runs hub op mine, if_neg (Nat.not_lt.mpr within), ← chunk, ← marker]
  split_ifs <;> rfl

end Stage

section Commit

variable (op : bits w 60 4 = 3)
include op

theorem execMboxCommit_unsigned (unsigned : (s.slot s.inactiveSlot).signature = false) (fails : Bool) :
    execMboxCommit ⟨w, fails⟩ s = .next (s.mboxDone 3) := by
  rw [execMboxCommit, mboxRun_runs hub op mine]
  simp [unsigned]

variable (signed : (s.slot s.inactiveSlot).signature = true)
include signed

theorem execMboxCommit_rollback (old : (s.slot s.inactiveSlot).svn < s.svnFloor) (fails : Bool) :
    execMboxCommit ⟨w, fails⟩ s = .next (s.mboxDone 4) := by
  rw [execMboxCommit, mboxRun_runs hub op mine]
  simp [signed, old]

variable (new : s.svnFloor ≤ (s.slot s.inactiveSlot).svn)
include new

theorem execMboxCommit_badImage (bad : (s.slot s.inactiveSlot).image = false) (fails : Bool) :
    execMboxCommit ⟨w, fails⟩ s = .next (s.mboxDone 5) := by
  rw [execMboxCommit, mboxRun_runs hub op mine]
  simp [signed, Nat.not_lt.mpr new, bad]

theorem execMboxCommit_flashFails (image : (s.slot s.inactiveSlot).image = true) :
    execMboxCommit ⟨w, true⟩ s = .next ((s.eraseMarker s.inactiveSlot).mboxDone 2) := by
  rw [execMboxCommit, mboxRun_runs hub op mine]
  simp [signed, Nat.not_lt.mpr new, image]

theorem execMboxCommit_commits (image : (s.slot s.inactiveSlot).image = true) :
    execMboxCommit ⟨w, false⟩ s = .next ((s.setSlot s.inactiveSlot { s.slot s.inactiveSlot with
      markerSeq := s.nextSeq % 2 ^ 32, markerValid := true, markerDigest := (s.slot s.inactiveSlot).manifestDigest }).mboxDone 0) := by
  rw [execMboxCommit, mboxRun_runs hub op mine]
  simp [signed, Nat.not_lt.mpr new, image]

end Commit

section Abort

variable (op : bits w 60 4 = 4)
include op

theorem execMboxAbort_erases : execMboxAbort ⟨w, false⟩ s = .next ((s.eraseMarker s.inactiveSlot).mboxDone 0) := by
  rw [execMboxAbort, mboxRun_runs hub op mine]
  rfl

theorem execMboxAbort_flashFails : execMboxAbort ⟨w, true⟩ s = .next (s.mboxDone 2) := by
  rw [execMboxAbort, mboxRun_runs hub op mine]
  rfl

end Abort

end Mailbox

/-- R439: a command while another one is pending is an overrun. -/
theorem mboxRun_overrun {s : State} {op : Nat} {w c : Word} (hub : s.hubRuns = true) (code : bits w 60 4 = op) (pending : s.mbox.cmd = some c)
    (other : c ≠ w) (body : State → Nat → State × Nat) :
    mboxRun op w s body = .next { s with mbox := { s.mbox with overrun := true } } := by
  simp [mboxRun, hub, code, pending, other]

section Windows

variable {s : State} {w : Word} (links : s.linksRun = true) (mine : s.lnk.cmd = none ∨ s.lnk.cmd = some w)
  (zero : bits w 24 37 = 0) (zero' : bits w 4 4 = 0)
include links mine zero zero'

section Create

variable (op : bits w 62 2 = 1)
include op

theorem execWindowCreate_refused {e : Nat} (refused : s.windowErr s.lnk.stage0 s.lnk.stage1 = some e) :
    execWindowCreate w s = .next (s.winDone e) := by
  rw [execWindowCreate, winRun_runs links op mine zero zero']
  simp only [refused]

variable (accepted : s.windowErr s.lnk.stage0 s.lnk.stage1 = none)
include accepted

theorem execWindowCreate_used
    (used : ((s.portsTo (bits w 8 8)).any fun p => (tget s.lnk.wins (p * 16 + bits w 0 4)).valid) = true) :
    execWindowCreate w s = .next (s.winDone 3) := by
  rw [execWindowCreate, winRun_runs links op mine zero zero']
  simp only [accepted, if_pos used]

theorem execWindowCreate_noPort (noPort : s.portsTo (bits w 8 8) = []) : execWindowCreate w s = .next (s.winDone 4) := by
  rw [execWindowCreate, winRun_runs links op mine zero zero']
  simp only [accepted, noPort, List.any_nil, Bool.false_eq_true, if_false, if_true]

theorem execWindowCreate_enters
    (unused : ((s.portsTo (bits w 8 8)).any fun p => (tget s.lnk.wins (p * 16 + bits w 0 4)).valid) = false)
    (port : s.portsTo (bits w 8 8) ≠ []) {e : Win} (entry : Win.setEpoch ⟨s.lnk.stage0 ||| (1 : Word) <<< (63 : Nat), s.lnk.stage1⟩
      (if bits s.lnk.stage0 40 8 = 0 then 1 else s.winEpoch (bits s.lnk.stage0 40 8)) = e) :
    execWindowCreate w s = .next ((((s.putWindow (bits w 8 8) (bits w 0 4) e).portsTo (bits w 8 8)).foldl
      (fun u p => u.noticeEpoch p (bits w 0 4) e.epoch) (s.putWindow (bits w 8 8) (bits w 0 4) e)).winDone 0) := by
  rw [execWindowCreate, winRun_runs links op mine zero zero']
  simp only [accepted, unused, Bool.false_eq_true, if_false, if_neg port, entry]

end Create

section Delete

variable (op : bits w 62 2 = 2)
include op

theorem execWindowDelete_noPort (noPort : s.portsTo (bits w 8 8) = []) : execWindowDelete w s = .next (s.winDone 4) := by
  rw [execWindowDelete, winRun_runs links op mine zero zero', if_pos noPort]

theorem execWindowDelete_clears (port : s.portsTo (bits w 8 8) ≠ []) :
    execWindowDelete w s = .next ((s.putWindow (bits w 8 8) (bits w 0 4) default).winDone 0) := by
  rw [execWindowDelete, winRun_runs links op mine zero zero', if_neg port]

end Delete

end Windows

/-- Settles O48: a mailbox command and a window command by the lemma of each outcome. -/
theorem mailboxAndWindows : Obligations.mailboxAndWindows := by
  refine ⟨fun s w hub mine => ⟨?readLog, ?stage, ?commit, ?abort⟩, fun s w c hub pending other op => (exec_mboxAbort ..).trans (mboxRun_overrun hub op pending other _),
    fun s w links mine => ⟨fun op reserved => (exec_windowCreate ..).trans (winRun_reserved links op mine reserved _), fun zero zero' => ⟨?create, ?delete⟩⟩⟩
  case readLog => exact fun op => ⟨execMboxReadLog_outside hub mine op, execMboxReadLog_fills hub mine op⟩
  case stage =>
    intro op m
    refine ⟨fun outside => execMboxStage_outside hub mine op outside m, fun first last present => ?middle, fun first present => ?first,
      fun last present => ?last, fun first last failed => ?failed⟩
    case middle =>
      rw [exec_mboxStage, execMboxStage_within hub mine op (by omega) m (if_pos present)
        ((if_neg (Nat.ne_of_gt first)).trans (if_neg (Nat.ne_of_lt last))), if_pos present]
      rfl
    case first => rw [exec_mboxStage, execMboxStage_within hub mine op (by omega) m (if_pos present) (if_pos first), if_pos present]; rfl
    case last =>
      rw [exec_mboxStage, execMboxStage_within hub mine op (by omega) m (if_pos present)
        ((if_neg (by omega)).trans (if_pos last)), if_pos present]
      rfl
    case failed =>
      have absent : ¬m.present = true := by simp [failed]
      rw [exec_mboxStage, execMboxStage_within hub mine op (by omega) m (if_neg absent)
        ((if_neg (Nat.ne_of_gt first)).trans (if_neg (Nat.ne_of_lt last))), if_neg absent]
  case commit =>
    intro op fails
    exact ⟨fun unsigned => execMboxCommit_unsigned hub mine op unsigned fails,
      fun signed old => execMboxCommit_rollback hub mine op signed old fails,
      fun signed new bad => execMboxCommit_badImage hub mine op signed new bad fails,
      fun signed new image => ⟨execMboxCommit_flashFails hub mine op signed new image, execMboxCommit_commits hub mine op signed new image⟩⟩
  case abort => exact fun op => ⟨execMboxAbort_erases hub mine op, execMboxAbort_flashFails hub mine op⟩
  case create =>
    exact fun op => ⟨fun e => execWindowCreate_refused links mine zero zero' op, fun accepted =>
      ⟨execWindowCreate_used links mine zero zero' op accepted, execWindowCreate_noPort links mine zero zero' op accepted,
        fun unused port => execWindowCreate_enters links mine zero zero' op accepted unused port rfl⟩⟩
  case delete =>
    exact fun op => ⟨execWindowDelete_noPort links mine zero zero' op, execWindowDelete_clears links mine zero zero' op⟩

end Sys2Proof.Machine

/-! Resets, bring-up, half-mast and provisioning (R380, R384, R434, R447, R474 to R476, R514): one lemma per outcome of a command, and O53
from them. -/

namespace Sys2Proof.Machine

variable {s : State}

/-! Resets and the input (R476, R514) -/

section Running

variable (running : s.struck = false)
include running

theorem execPerstNAssert_resets : execPerstNAssert s = .next (s.cutMailbox.resetModule true) := by
  simp [execPerstNAssert, running]

theorem execInputLoss_resets : execInputLoss s = .next { s.cutMailbox.resetModule false with struck := true } := by
  simp [execInputLoss, running]

theorem execInputRestore_running : execInputRestore s = .next s := by
  simp [execInputRestore, running]

end Running

section Struck

variable (struck : s.struck = true)
include struck

theorem execPerstNAssert_struck : execPerstNAssert s = .next s := by
  simp [execPerstNAssert, struck]

theorem execInputLoss_struck : execInputLoss s = .next s := by
  simp [execInputLoss, struck]

theorem execInputRestore_board (board : s.mtrPres = true) : execInputRestore s = .next { s with struck := false } := by
  simp [execInputRestore, struck, board]

end Struck

theorem execInputRestore_noBoard (noBoard : s.mtrPres = false) : execInputRestore s = .next s := by
  simp [execInputRestore, noBoard]

/-- R451, R471: what a reset keeps, and what of the rest it leaves at its reset value; the shutdown stays where it is latched. -/
structure ResetKeeps (s : State) (latch : Bool) (t : State) : Prop where
  flash : t.flash = s.flash
  meter : t.meter = s.meter
  mtrPres : t.mtrPres = s.mtrPres
  shutdown : t.pwr.shutdown = (latch && s.pwr.shutdown)
  perstOut : t.perstOut = false
  jobs : t.jobs = []
  ctxs : t.ctxs = []
  mem : t.mem = []

theorem State.resetModule_keeps (s : State) (latch : Bool) : ResetKeeps s latch (s.resetModule latch) := by
  unfold State.resetModule
  extract_lets r
  split
  case isTrue latched => exact ⟨rfl, rfl, rfl, latched.symm, rfl, rfl, rfl, rfl⟩
  case isFalse unlatched => exact ⟨rfl, rfl, rfl, (Bool.eq_false_iff.mpr unlatched).symm, rfl, rfl, rfl, rfl⟩

/-! PERST_N deasserted (R434, R436, R438) -/

/-- R380: the module out of reset, its straps sampled. -/
def State.strapped (s : State) (b : BootIn) : State :=
  { s.resetModule true with
    perstOut := true, host := { (s.resetModule true).host with bifur := b.strapBifur, addr := 0x60 + b.strapAddr % 4 } }

section Deassert

variable {b : BootIn} (running : s.struck = false) (asserted : s.perstOut = false)
include running asserted

theorem execPerstNDeassert_noClock (noClock : b.refclk = false) :
    execPerstNDeassert b s = .next (({ s.strapped b with hubPllLost := true } : State).alertOn 8) := by
  simp [execPerstNDeassert, State.strapped, running, asserted, noClock]

variable (clock : b.refclk = true)
include clock

/-- R434: with its clock the module reports a latched shutdown, or runs bring-up from the slot that verifies, or recovers. -/
theorem execPerstNDeassert_clocked : execPerstNDeassert b s =
    .next (if (s.strapped b).pwr.shutdown then ((s.strapped b).outcome b 3 1 0x15).alertOn 7
      else (s.strapped b).chooseSlot.elim ((s.strapped b).recovery b) ((s.strapped b).bringUp b)) := by
  unfold execPerstNDeassert
  rw [if_neg (by simp [running, asserted])]
  extract_lets _ _ out
  rw [show out = s.strapped b from rfl]
  cases (s.strapped b).chooseSlot <;> simp [clock]

theorem execPerstNDeassert_shutdown (shutdown : (s.strapped b).pwr.shutdown = true) :
    execPerstNDeassert b s = .next (((s.strapped b).outcome b 3 1 0x15).alertOn 7) := by
  rw [execPerstNDeassert_clocked running asserted clock, if_pos shutdown]

variable (noShutdown : (s.strapped b).pwr.shutdown = false)
include noShutdown

theorem execPerstNDeassert_boots {n : Nat} (slot : (s.strapped b).chooseSlot = some n) :
    execPerstNDeassert b s = .next ((s.strapped b).bringUp b n) := by
  rw [execPerstNDeassert_clocked running asserted clock, noShutdown, slot]
  rfl

theorem execPerstNDeassert_recovers (noSlot : (s.strapped b).chooseSlot = none) :
    execPerstNDeassert b s = .next ((s.strapped b).recovery b) := by
  rw [execPerstNDeassert_clocked running asserted clock, noShutdown, noSlot]
  rfl

end Deassert

theorem execBuntingRerequest_requests {c : Nat} {b : BootIn} {m : SlotInfo} (core : c < 1440) (bring : s.boot.bring = some (b, m))
    (hub : s.hubRuns = true) (block : Nat) (good : Bool) : execBuntingRerequest c block good s =
      .next (if ((s.rerequest c block good).reportRun c).boot.lacks.isEmpty then ((s.rerequest c block good).reportRun c).finishBoot b m
        else (s.rerequest c block good).reportRun c) := by
  simp [execBuntingRerequest, Machine.unit, core, bring, hub]

/-! Half-mast (R474, R475) -/

theorem execHalfMastEntry_pldm (idle : s.jobActive = false) : execHalfMastEntry true s = .next s.startHalfMast := by
  simp [execHalfMastEntry, idle]

theorem execHalfMastEntry_busy (busy : s.jobActive = true) : execHalfMastEntry true s = .next s := by
  simp [execHalfMastEntry, busy]

theorem execHalfMastEntry_d3hot (d3hot : s.host.d3hot = true) : execHalfMastEntry false s = .next s.startHalfMast := by
  simp [execHalfMastEntry, d3hot]

theorem execHalfMastDrained_enters (heat : s.heatRuns = true) (entering : s.pwr.state = 3) (restful : s.restful = true) :
    ∃ t, execHalfMastDrained s = .next t ∧ t.halfMast = true ∧ t.pwr.state = 2 := by
  unfold execHalfMastDrained
  rw [if_neg (by simp [heat, entering, restful])]
  exact ⟨_, rfl, rfl, rfl⟩

theorem execHalfMastDrained_waits (h : s.pwr.state ≠ 3 ∨ s.restful = false) : execHalfMastDrained s = .next s := by
  rcases h with notEntering | busy
  · simp [execHalfMastDrained, notEntering]
  · simp [execHalfMastDrained, busy]

theorem execHalfMastExit_asked (heat : s.heatRuns = true) (asleep : s.inHalfMast = true) {pldm : Bool}
    (asked : pldm = true ∨ s.host.d3hot = false) : execHalfMastExit pldm s = .next s.leaveHalfMast := by
  rcases asked with rfl | d0
  · simp [execHalfMastExit, heat, asleep]
  · simp [execHalfMastExit, heat, asleep, d0]

theorem execHalfMastExit_awake (awake : s.inHalfMast = false) (pldm : Bool) : execHalfMastExit pldm s = .next s := by
  simp [execHalfMastExit, awake]

/-! Provisioning (R384) -/

theorem execFabricIdProvision_writes (manages : s.manages = true) (id : Nat) (peers : List Nat) : execFabricIdProvision id peers s =
    .next { s with flash := { s.flash with fabricId := some (id % 256), fabricPeers := (peers.take 8).map (· % 256) } } := by
  simp [execFabricIdProvision, manages]

/-- Settles O53: each clause is the lemma of its command's outcome. -/
theorem powerStates : Obligations.powerStates := by
  refine ⟨?running, ?struck, ?reset, ?deassert, ?bunting, ?halfMast, ?provision⟩
  case running => exact fun s running => ⟨execPerstNAssert_resets running, execInputLoss_resets running, execInputRestore_running running⟩
  case struck =>
    exact fun s struck => ⟨execPerstNAssert_struck struck, execInputLoss_struck struck, execInputRestore_board struck,
      execInputRestore_noBoard⟩
  case reset =>
    intro s latch
    have keeps := s.resetModule_keeps latch
    exact ⟨keeps.flash, keeps.meter, keeps.mtrPres, keeps.shutdown, keeps.perstOut, keeps.jobs, keeps.ctxs, keeps.mem⟩
  case deassert =>
    exact fun s b running asserted => ⟨execPerstNDeassert_noClock running asserted, execPerstNDeassert_shutdown running asserted,
      fun clock noShutdown => ⟨fun n => execPerstNDeassert_boots running asserted clock noShutdown,
        execPerstNDeassert_recovers running asserted clock noShutdown⟩⟩
  case bunting => exact fun s c block good b m core bring hub => execBuntingRerequest_requests core bring hub block good
  case halfMast =>
    exact fun s heat => ⟨execHalfMastEntry_pldm, execHalfMastEntry_busy, execHalfMastEntry_d3hot, execHalfMastDrained_enters heat,
      execHalfMastDrained_waits, fun asleep => execHalfMastExit_asked heat asleep (.inl rfl),
      fun asleep d0 => execHalfMastExit_asked heat asleep (.inr d0), execHalfMastExit_awake⟩
  case provision => exact fun s id peers manages => execFabricIdProvision_writes manages id peers

end Sys2Proof.Machine

/-! Tenant sessions (R378, R419, R423 to R428): the runners of a session's requests, one lemma per outcome of a request, and O39 from
them. -/

namespace Sys2Proof.Machine

variable {s : State} {i : Nat}

/-! The runners (R423, R425) -/

/-- R423: outside an active session a request is answered UnexpectedRequest. -/
theorem tenantRun_outside (manages : s.manages = true) (outside : (s.sessOf i).active = false) (body : State → State) :
    tenantRun i s body = .next (s.send (.spdmError 4)) := by
  simp [tenantRun, spdmRun, manages, outside]

theorem boundRun_outside (manages : s.manages = true) (outside : (s.sessOf i).active = false) (body : State → Nat → State) :
    boundRun i s body = .next (s.send (.spdmError 4)) := tenantRun_outside manages outside _

theorem sessRun_outside (manages : s.manages = true) (outside : (s.sessOf i).active = false) (body : State → Sess → State) :
    sessRun i s body = .next (s.send (.spdmError 4)) := tenantRun_outside manages outside _

section Active

variable (manages : s.manages = true) (sess : i < 8) (active : (s.sessOf i).active = true)
include manages sess active

theorem tenantRun_active (body : State → State) : tenantRun i s body = .next (body s) := by
  simp [tenantRun, spdmRun, manages, sess, active]

theorem sessRun_active (body : State → Sess → State) : sessRun i s body = .next (body s (s.sessOf i)) :=
  tenantRun_active manages sess active _

theorem boundRun_bound {n : Nat} (bound : (s.sessOf i).ctx = some n) (body : State → Nat → State) :
    boundRun i s body = .next (body s n) := by
  rw [boundRun, tenantRun_active manages sess active, bound]

/-! BIND (R426) -/

section Bind

variable {n creation : Nat} {secret : Bytes} (ctx : n < 256) (defined : (s.ctx n).defined = true)
  (created : (s.ctx n).creation = creation)
include ctx defined created

theorem execSessionBind_binds (tenant : (s.sessOf i).rootPort = false)
    (free : (s.sessOf i).ctx = none ∨ (s.sessOf i).ctx = some n) (fits : (s.ctx n).bound = false ∨ (s.ctx n).secret = shake256 secret) :
    execSessionBind i n creation secret s = .next (((s.setCtx n { s.ctx n with bound := true, secret := shake256 secret }).setSess i
      { s.sessOf i with ctx := some n }).result i 0 []) := by
  have allowed : ¬((s.sessOf i).rootPort = true ∨ ((s.sessOf i).ctx.isSome = true ∧ (s.sessOf i).ctx ≠ some n) ∨
      ((s.ctx n).bound = true ∧ (s.ctx n).secret ≠ shake256 secret)) := by
    rcases free with free | free <;> rcases fits with fits | fits <;> simp [tenant, free, fits]
  rw [execSessionBind, tenantRun_active manages sess active]
  simp only [if_neg allowed]
  rw [if_neg (by simp [ctx, defined, created])]

theorem execSessionBind_denied (bound : (s.ctx n).bound = true) (other : (s.ctx n).secret ≠ shake256 secret) :
    execSessionBind i n creation secret s = .next (s.result i 2 []) := by
  rw [execSessionBind, tenantRun_active manages sess active, if_neg (by simp [ctx, defined, created]),
    if_pos (.inr (.inr ⟨bound, other⟩))]

end Bind

/-! The requests of a bound session (R419, R420, R427, R428) -/

section Bound

variable {n : Nat} (bound : (s.sessOf i).ctx = some n)
include bound

theorem execSessionReport_reports : execSessionReport i s = .next (s.result i 0 (s.reportOf n)) :=
  boundRun_bound manages sess active bound _

section PayloadSet

variable {key : Bytes} (whole : key.length = 32)
include whole

theorem execPayloadSet_busy (busy : (s.ctx n).payPrev ≠ none ∨ (s.ctx n).payPend ≠ none) :
    execPayloadSet i key s = .next (s.result i 4 []) := by
  rw [execPayloadSet, boundRun_bound manages sess active bound, if_neg (by simp [whole]),
    if_pos (by simpa [Option.isSome_iff_ne_none] using busy)]

variable (noPrev : (s.ctx n).payPrev = none) (noPend : (s.ctx n).payPend = none)
include noPrev noPend

theorem execPayloadSet_first (noKey : (s.ctx n).payCur = none) : execPayloadSet i key s =
    .next ((s.setCtx n { s.ctx n with payCur := some key, payGen := 0, serial := 0 }).result i 0 []) := by
  rw [execPayloadSet, boundRun_bound manages sess active bound, if_neg (by simp [whole]), if_neg (by simp [noPrev, noPend]),
    if_pos (by simp [noKey])]

theorem execPayloadSet_rotates (key' : (s.ctx n).payCur ≠ none) : execPayloadSet i key s =
    .next ((s.setCtx n { s.ctx n with payPend := some key }).result i 0 []) := by
  rw [execPayloadSet, boundRun_bound manages sess active bound, if_neg (by simp [whole]), if_neg (by simp [noPrev, noPend]),
    if_neg (by simpa using key')]

end PayloadSet

theorem execPayloadRetire_drops :
    execPayloadRetire i s = .next ((s.setCtx n { s.ctx n with payPrev := none }).result i 0 []) :=
  boundRun_bound manages sess active bound _

theorem execSessionKvRotate_rotates (noPrev : (s.ctx n).kvPrev = none) :
    execSessionKvRotate i s = .next ((s.rotateKv n).1.result i 0 []) := by
  have rotated : (s.rotateKv n).2 = true := by simp [State.rotateKv, noPrev]
  rw [execSessionKvRotate, boundRun_bound manages sess active bound]
  split
  case h_1 he => rw [he]
  case h_2 he => simp [he] at rotated

/-- R428: MEASURE of whole owned banks whose words are good. -/
theorem execMeasure_measures {da len p : Nat} {d : Bytes} {t : State} (core : s.phys (da / 2 ^ 28) = some p) (slice : da / 2 ^ 39 = 0)
    (aligned : da % 4096 = 0) (pages : len % 4096 = 0) (least : 4096 ≤ len) (most : len ≤ 268435456) (within : da % 2 ^ 28 + len ≤ 2 ^ 28)
    (owned : ((List.range ((da % 2 ^ 28 + len + 2 ^ 21 - 1) / 2 ^ 21 - da % 2 ^ 28 / 2 ^ 21)).any fun k =>
      !s.ownedBy n (da / 2 ^ 28 * 128 + da % 2 ^ 28 / 2 ^ 21 + k)) = false)
    (runs : s.dieRuns (da / 2 ^ 28 / 256) = true) (routes : s.bothWays 5 (da / 2 ^ 28 / 256) = true)
    (read : s.readSlice p (da % 2 ^ 28) len byHub = (t, .ok d)) :
    execMeasure i da len s = .next (t.result i 0 (shake256 d)) := by
  rw [execMeasure, boundRun_bound manages sess active bound]
  simp only [owned, core, runs, routes, read, Bool.not_true, Bool.or_self, Bool.false_eq_true, if_false]
  rw [if_neg (by omega)]

end Bound

/-! Messages of the session itself, and IDE_KM (R378, R423) -/

theorem execKeyUpdate_updates : execKeyUpdate i s = .next ((s.setSess i { s.sessOf i with
    updates := (s.sessOf i).updates + 1, secret := shake256 (s.sessOf i).secret }).send (.spdm i 0x69 [])) :=
  sessRun_active manages sess active _

theorem execHeartbeat_beats :
    execHeartbeat i s = .next ((s.setSess i { s.sessOf i with beats := (s.sessOf i).beats + 1 }).send (.spdm i 0x68 [])) :=
  sessRun_active manages sess active _

theorem execEndSession_closes : execEndSession i s = .next ((s.setSess i default).send (.spdm i 0x6C [])) :=
  sessRun_active manages sess active _

section Ide

variable {stream : Nat} (rootPort : (s.sessOf i).rootPort = true) (link : s.linkEnabled = true) (valid : stream < 4)
include rootPort link valid

theorem execIdeKm_programs {sub : Nat} {key : Bytes} (subStream : sub < 3) (whole : key.length = 32) (rx : Bool) :
    execIdeKm i stream (.prog sub rx key) s = .next (({ s with host := { s.host with
      ideKeys := tput s.host.ideKeys (stream * 8 + 2 * sub + b2n rx) key } } : State).send (.spdm i 0x7E [BitVec.ofNat 8 stream])) := by
  rw [execIdeKm, sessRun_active manages sess active, if_neg (by simp [rootPort, link]), if_neg (Nat.not_le.mpr valid)]
  simp only [if_neg (show ¬(3 ≤ sub ∨ key.length ≠ 32) by omega)]

theorem execIdeKm_moves (op : IdeOp) {t : State} (starts : op = .go ∧ s.startStream stream = t ∨ op = .stop ∧ s.stopStream stream = t) :
    execIdeKm i stream op s = .next (t.send (.spdm i 0x7E [BitVec.ofNat 8 stream])) := by
  rw [execIdeKm, sessRun_active manages sess active, if_neg (by simp [rootPort, link]), if_neg (Nat.not_le.mpr valid)]
  obtain ⟨rfl, rfl⟩ | ⟨rfl, rfl⟩ := starts <;> rfl

end Ide

end Active

/-- R378: a stream goes Secure exactly where its six keys are programmed. -/
theorem State.startStream_ready {st : Nat} (ready : ∀ k, k < 6 → tget s.host.ideKeys (st * 8 + k) ≠ []) :
    s.startStream st = { s with host := { s.host with secure := s.host.secure.filter (· ≠ st) ++ [st] } } := by
  rw [State.startStream, if_pos (by simpa using ready)]

theorem State.startStream_lacking {st : Nat} (lacking : ∃ k, k < 6 ∧ tget s.host.ideKeys (st * 8 + k) = []) : s.startStream st = s := by
  rw [State.startStream, if_neg (by simpa using lacking)]

/-- Settles O39: each request by the lemma of its outcome, in an active session and outside it. -/
theorem sessionCommands : Obligations.sessionCommands := by
  intro s i manages sess
  refine ⟨fun active => ⟨?bind, ?bound, execKeyUpdate_updates manages sess active, execHeartbeat_beats manages sess active,
    execEndSession_closes manages sess active, ?ide⟩, fun outside => ?outside⟩
  case bind =>
    exact fun n creation secret tenant free ctx defined created =>
      ⟨execSessionBind_binds manages sess active ctx defined created tenant free,
        execSessionBind_denied manages sess active ctx defined created⟩
  case bound =>
    intro n bound
    refine ⟨execSessionReport_reports manages sess active bound, fun key whole => ?payloadSet,
      execPayloadRetire_drops manages sess active bound, execSessionKvRotate_rotates manages sess active bound,
      fun da len p d t => execMeasure_measures manages sess active bound⟩
    case payloadSet =>
      exact ⟨fun noKey noPrev noPend => execPayloadSet_first manages sess active bound whole noPrev noPend noKey,
        fun key' noPrev noPend => execPayloadSet_rotates manages sess active bound whole noPrev noPend key',
        execPayloadSet_busy manages sess active bound whole⟩
  case ide =>
    intro stream rootPort link valid
    have moves := execIdeKm_moves manages sess active rootPort link valid
    exact ⟨fun sub rx key subStream whole => execIdeKm_programs manages sess active rootPort link valid subStream whole rx,
      fun ready => moves .go (.inl ⟨rfl, State.startStream_ready ready⟩), fun lacking => moves .go (.inl ⟨rfl, State.startStream_lacking lacking⟩),
      moves .stop (.inr ⟨rfl, rfl⟩)⟩
  case outside =>
    exact ⟨(exec_sessionReport ..).trans (boundRun_outside manages outside _), (exec_payloadRetire ..).trans (boundRun_outside manages outside _),
      (exec_keyUpdate ..).trans (sessRun_outside manages outside _), (exec_heartbeat ..).trans (sessRun_outside manages outside _),
      (exec_endSession ..).trans (sessRun_outside manages outside _)⟩

end Sys2Proof.Machine

/-! The state after reset (chapters 08, 09, 14, 18 to 20; log entries 2 and 3): its registers are evaluated, its tables are empty, and O56
follows. -/

namespace Sys2Proof.Machine

/-! Reset values of the register tables -/

theorem reset_bootStatus : bits (State.reset.readReg 0x20) 56 4 = 1 ∧ bits (State.reset.readReg 0x20) 60 4 = 0 := by decide

theorem reset_pwrStatus : bits (State.reset.readReg 0x440000) 61 3 = 1 ∧ bits (State.reset.readReg 0x440000) 32 4 = 0xF := by decide

theorem reset_pwrDip : State.reset.readReg 0x440020 = BitVec.allOnes 64 ∧ State.reset.readReg 0x440028 = 0xFFFF := by decide

theorem reset_crcMode_trcInfo : State.reset.readReg 0x280000 = 1 ∧ bits (State.reset.readReg 0x600000) 48 16 = 1 := by decide

theorem capW_le : capW ≤ 2400 := by
  unfold capW
  split <;> decide

/-- PWR_CAP: fused values in their 12-bit and 16-bit fields, and THERMAL between them. -/
theorem State.thmReg_pwrCap (s : State) : s.thmReg 0x40008 = packFields [(52, s.pwr.capNow), (40, s.pwr.thermal.getD 0xFFF),
    (28, max floorW (min capW s.pwr.limitNow)), (16, floorW), (0, s.pwr.rth.getD fusedRth % 2 ^ 16)] := by
  simp [State.thmReg]

/-- The fields below THERMAL stay within theirs, so THERMAL reads what it holds. -/
theorem bits_pwrCap {cap thermal low floor : Nat} (hthermal : thermal < 2 ^ 12) (hlow : low < 2 ^ 12) (hfloor : floor < 2 ^ 12) (rth : Nat) :
    bits (packFields [(52, cap), (40, thermal), (28, low), (16, floor), (0, rth % 2 ^ 16)]) 40 12 = thermal := by
  have hrth : rth % 2 ^ 16 < 2 ^ 16 := Nat.mod_lt _ (by decide)
  rw [bits, packFields, BitVec.extractLsb'_toNat, BitVec.toNat_ofNat, Nat.shiftRight_eq_div_pow]
  simp only [List.foldl]
  omega

theorem reset_pwrCap : bits (State.reset.readReg 0x440008) 40 12 = 0xFFF := by
  have cap := capW_le
  have floor : floorW = capW / 4 := rfl
  have register : State.reset.readReg 0x440008 = State.reset.thmReg 0x40008 := by simp [State.readReg]
  rw [register, State.thmReg_pwrCap]
  exact bits_pwrCap (by decide) (by omega) (by omega) _

theorem reset_scrubLimit (p : Nat) : (State.reset.hal p).reg 0x390 = 0x00A4CB80 := rfl

/-- LIMIT of a near-bank unit as it is after reset: 32. -/
theorem nbuReg_default_status (x : Core) : nbuReg default x 0 = packFields [(48, 0), (32, 0), (8, 0), (0, 32)] := rfl

theorem reset_nbuStatus (p c : Nat) : bits (nbuReg (State.reset.nbu p) (State.reset.core c) 0) 0 6 = 32 := by
  have nbu : State.reset.nbu p = default := rfl
  rw [nbu, nbuReg_default_status]
  decide

/-! The model's own reset values (log entries 2 and 3) -/

theorem default_bitVec (n : Nat) : (default : BitVec n) = 0 := rfl

theorem reset_registers (c r : Nat) : (State.reset.core c).sreg r = 0 ∧ (State.reset.core c).vreg r = 0 ∧
    (State.reset.core c).preg r = if r = 0 then BitVec.allOnes 64 else 0 := by
  have core : State.reset.core c = default := rfl
  rw [core]
  refine ⟨?scalar, ?vector, ?predicate⟩
  case scalar => exact ite_self _
  case vector => exact default_bitVec 512
  case predicate => rfl

/-- Settles O56: the registers by evaluation, memories and units from the empty tables. -/
theorem resetState : Obligations.resetState :=
  ⟨reset_bootStatus, ⟨reset_pwrStatus.1, reset_pwrStatus.2, reset_pwrCap⟩, reset_pwrDip, reset_crcMode_trcInfo,
    fun p => ⟨reset_scrubLimit p, reset_nbuStatus p⟩, ⟨rfl, fun _ => rfl, rfl⟩, reset_registers, fun _ => ⟨rfl, rfl, rfl⟩, reset_memOk,
    nofun⟩

end Sys2Proof.Machine

/-! Why O55 fails: the DOORBELL clause asks for a copy of the retention store before the rebuild, and the model after it. `execDoorbellEvent`
lets `State.rebuildCopies` put back every copy whose core is backed once RESTARTED is taken, also where no copy is left, and only then asks
for one. The state below has none left and a backed core at the first place of the retention store: the command rebuilds that copy, where
the statement says that it changes nothing. -/

namespace Sys2Proof.Machine

@[simp] theorem State.serving_setServing (s : State) (j : Nat) (v : Serve) : (s.setServing j v).serving j = v := tget_tput_self ..

/-- A rebuild changes the copies of the retention store, and nothing else of the ledger. -/
@[simp] theorem State.serving_rebuildCopies (s : State) (j : Nat) :
    (s.rebuildCopies j).serving j = { s.serving j with copies := (retentionPlaces (s.job j).rc.bytes).filter s.backed } :=
  State.serving_setServing ..

/-- A runtime without KV units and without pennants to free keeps its copies as it tidies. -/
theorem State.copies_tidyPennants {s : State} {j : Nat} (units : (s.serving j).units = []) (freeing : (s.serving j).freeing = []) :
    ((s.tidyPennants j).serving j).copies = (s.serving j).copies := by
  simp only [State.tidyPennants, units, freeing, List.flatMap_nil, List.foldl_nil, State.serving_setServing]

namespace ServingRefutation

/-- The core that runs the guidon of job 0. -/
def guidonCore : Core := { (default : Core) with run := 3 }
/-- Job 0, with its guidon on core 0. -/
def guidonJob : Job := { (default : Job) with state := 1, rc := { (default : PlaceRec) with cores := [default] } }
/-- The first core of the retention store of job 0. -/
def firstPlace : Nat := (Config.retentionCores guidonJob.rc.bytes).1 % 1280

/-- A running guidon that has taken RESTARTED; both copies of its retention store are lost, and the core of the first is backed again. -/
def bare : State :=
  { State.reset with
    perstOut := true
    map := [(firstPlace, 1)]
    dies := [(0, { (default : Die) with up := true, locked := true })]
    cores := [(0, guidonCore)]
    jobs := [(0, guidonJob)] }

theorem bare_guidonRuns : bare.guidonRuns 0 = some 0 := by decide

theorem bare_noEvent : bare.takeEvent 0 1 = none := by decide

theorem bare_serving : bare.serving 0 = default := rfl

theorem bare_backed : bare.backed firstPlace = true := by
  simp [State.backed, bare, tget]

/-- The copy at the first place is rebuilt. -/
theorem firstPlace_mem_rebuilt : firstPlace ∈ ((bare.rebuildCopies 0).serving 0).copies := by
  have place : firstPlace ∈ retentionPlaces (bare.job 0).rc.bytes := List.mem_cons_self
  rw [State.serving_rebuildCopies]
  exact List.mem_filter.mpr ⟨place, bare_backed⟩

/-- The command rebuilds the copy, and has no entry of a ring to take. -/
theorem exec_doorbellEvent_bare : exec (.doorbellEvent 0 [] []) bare = .next ((bare.rebuildCopies 0).tidyPennants 0) := by
  have taken : (bare.serving 0).stale = false := by rw [bare_serving]; rfl
  have fresh : ((bare.rebuildCopies 0).serving 0).stale = false := by rw [State.serving_rebuildCopies]; exact taken
  have remains : ((bare.rebuildCopies 0).serving 0).copies.isEmpty = false :=
    List.isEmpty_eq_false_iff_exists_mem.mpr ⟨_, firstPlace_mem_rebuilt⟩
  simp [-State.serving_rebuildCopies, execDoorbellEvent, bare_guidonRuns, bare_noEvent, taken, fresh, remains, unit, State.visit]

/-- So the command changes the state. -/
theorem rebuilt_ne_bare : (bare.rebuildCopies 0).tidyPennants 0 ≠ bare := by
  intro same
  have kept : (((bare.rebuildCopies 0).tidyPennants 0).serving 0).copies = ((bare.rebuildCopies 0).serving 0).copies :=
    State.copies_tidyPennants (by rw [State.serving_rebuildCopies, bare_serving]; rfl) (by rw [State.serving_rebuildCopies, bare_serving]; rfl)
  have mem := firstPlace_mem_rebuilt
  rw [← kept, same, bare_serving] at mem
  exact List.not_mem_nil mem

end ServingRefutation

open ServingRefutation in
/-- Refutes O55: in `bare`, which has no copy of the retention store, a DOORBELL command rebuilds one. -/
theorem not_servingCommands : ¬ Obligations.servingCommands := by
  intro h
  obtain ⟨doorbell, -⟩ := h bare 0 (by decide)
  obtain ⟨-, noEvent⟩ := doorbell [] [] (by rw [bare_guidonRuns]; rfl)
  have unchanged : exec (.doorbellEvent 0 [] []) bare = .next bare :=
    (noEvent bare_noEvent).2 fun ⟨_, copies⟩ => copies (by rw [bare_serving]; rfl)
  rw [exec_doorbellEvent_bare] at unchanged
  exact rebuilt_ne_bare (Host.Outcome.next.inj unchanged)

end Sys2Proof.Machine
